-- ==== Sys2Proof/Word.lean ====
section
/-! DEFINITION. The words of the Lythar LX9 and their plainest arithmetic (spec/00_scope.md R3, R7; spec/03_formats.md R70). -/

namespace Sys2Proof

/-- One instruction word, and one 32-bit register or lane (R46, R48). -/
abbrev Word := BitVec 32
/-- One byte of memory. -/
abbrev Byte := BitVec 8
/-- A 16-bit set of tenant slots (R248). -/
abbrev Label := BitVec 16

/-- The empty label (R248). -/
def noLabel : Label := 0

/-- Bits [lo + n - 1 : lo] of a natural number (R3, R7). -/
def fld (w lo n : Nat) : Nat := w / 2 ^ lo % 2 ^ n

end Sys2Proof
end

