-- ==== Sys2Proof/Syntax.lean ====
section
/-! DEFINITION. The syntax of the Lythar LX9: one constructor of Instr for every row of spec/opcode_table.json.
The rows that carry an encoding are the instructions of the V and U sets (spec/03_formats.md R61, R62);
the others are the device's further indivisible steps (spec/95_what_each_step_holds.md). -/

namespace Sys2Proof

/-! ### Register numbers (R48) -/

/-- A vector or uniform register number. -/
abbrev Reg := Fin 64
/-- A mask register number. -/
abbrev MReg := Fin 8

/-! ### Codes of the instruction fields (R57, R59) -/

/-- Operand routes (R57), in code order. -/
inductive Route | none | bfly1 | bfly2 | bfly4 | bfly8 | rot8 | rev | rep
  deriving DecidableEq, Repr

/-- Element formats of majors 0x10 to 0x14 (R59, R120). -/
inductive FpType | f32 | f16x2 | bf16x2
  deriving DecidableEq, Repr

/-- Tapered formats (R97). -/
inductive Tapered | lt8 | lt6
  deriving DecidableEq, Repr

/-- VCVT by fn (R123). -/
inductive CvtForm
  | f2i | f2iz | i2f | n2f | f2h (b : Reg) (r : Route) | h2f (hi : Bool) | f2b (b : Reg) (r : Route) | b2f (hi : Bool)
  deriving DecidableEq, Repr

/-- VCVTI by fn, with the byte or half that its route field selects (R126). -/
inductive CvtiForm
  | nb (j : Fin 4) | nh (hi : Bool) | sb (j : Fin 4) | zb (j : Fin 4) | sh (hi : Bool) | zh (hi : Bool)
  deriving DecidableEq, Repr

/-- Conditions of VCMPI (R127). -/
inductive CondI | eq | ne | lt | le | ltn | len | bits
  deriving DecidableEq, Repr

/-- Conditions of VCMPF (R127). -/
inductive CondF | eq | ne | lt | le | un | ord
  deriving DecidableEq, Repr

/-- Conditions of SSET (R140). -/
inductive CondS | eq | ne | lt | le | ltn | len
  deriving DecidableEq, Repr

/-- Fold operations of VSCAN, VRED and NRED (R163, R168, R338). -/
inductive RedOp | add | fadd | min | max | minn | maxn | and | or
  deriving DecidableEq, Repr

/-- Operations of VATOM and VAGG (R227). -/
inductive AtomOp | add | fadd | min | max | minn | maxn | fmin | fmax
  deriving DecidableEq, Repr

/-- Operations of VATOMB (R227). -/
inductive BitOp | and | or | xor | exch
  deriving DecidableEq, Repr

/-- SATOM's family and aop (R59, R227). -/
inductive SatomOp | arith (op : AtomOp) | bits (op : BitOp)
  deriving DecidableEq, Repr

/-- Access sizes of 1, 2, 4 and 8 bytes (R59). -/
inductive Size | b | h | w | d
  deriving DecidableEq, Repr

/-- Address spaces of V-M and U-M (R59, R185). -/
inductive Space | global | scratch | const
  deriving DecidableEq, Repr

/-- Scopes (R59). -/
inductive Scope | wave | grp | quad | die | pkg | pod | sys
  deriving DecidableEq, Repr

/-- The kind bits of FENCE and FENCEA (R225): engine commands, atomics, stores, loads. -/
structure Kinds where
  e : Bool
  a : Bool
  s : Bool
  l : Bool
  deriving DecidableEq, Repr

/-- Kinds of BAR (R326), in code order. -/
inductive BarKind | arrive | wait | both | swap
  deriving DecidableEq, Repr

/-- Barrier levels (R322). -/
inductive BarLevel | grp | quad | die | pkg | pod
  deriving DecidableEq, Repr

/-- What MQRY reads (R377, R378). -/
inductive MqryWhat | mstat | estat | eaddrl | eaddrh | copies
  deriving DecidableEq, Repr

/-- The register whose label LBLRD reads (R62, R257). -/
inductive LblReg | s (r : Reg) | v (r : Reg) | m (r : MReg) | h (r : Fin 16) | a (r : Fin 4)
  deriving DecidableEq, Repr

/-- TLBINV's kinds (R259). -/
inductive TlbKind | page | pasid | owner | all
  deriving DecidableEq, Repr

/-- XSET's modes (R170). -/
inductive XsetMode | set | val | add
  deriving DecidableEq, Repr

/-- Tie policies of a bundle accumulator (R172, R177). -/
inductive TiePolicy | zero | one | reg
  deriving DecidableEq, Repr

/-- The consumers of a LIT (R60): V-I majors 0x08 to 0x0F and U-I majors 0x02 to 0x08. -/
inductive LitOp
  | vaddi | vandi | vori | vxori | vshli | vshri | vsrai | vli
  | saddi | sandi | sori | sxori | sshli | sshri | ssrai
  deriving DecidableEq, Repr

/-- Rota resource classes (R27), in code order. -/
inductive RotaClass | mesh | d2d | msc | hbm | copy | fab | host | walk | claim
  deriving DecidableEq, Repr

/-- Uniform special registers (R67). -/
inductive SpecialReg
  | ocycl | ocych | owner | omode | rphase | slotmap (c : RotaClass)
  | wave | group | cluster | gridx | gridy | gridz | ngroups | waves
  | rlane | fflags | detstat | lclkl | lclkh | clwin
  | trapcause | trappc | trapaddrl | trapaddrh
  | pathcnt (n : Fin 4) | outstnd | ctxlbl
  deriving DecidableEq, Repr

/-- Per-lane special registers (R68). -/
inductive LaneReg | lane | glane | pcv | trappcv | rngctr
  deriving DecidableEq, Repr

/-! ### Names of things that the other rows of the table act on -/

/-- Owner modes (R23). -/
inductive Mode | elastic | timed
  deriving DecidableEq, Repr

/-- An instance of a rota class (R17, R18, R26, R245, R254, R307, R346, R423). -/
inductive RotaInst
  | meshLink (die x y dir : Nat)
  | d2dLink (die out : Nat)
  | msc (stack : Nat)
  | hbm (stack chan : Nat)
  | copyEngine (quad : Nat)
  | fabPort (port : Nat)
  | hostPort
  | gate
  | lnchPort
  | walker (die n : Nat)
  | claimCore (core : Nat)
  | claimHome
  | nredPort
  | nredFab
  deriving DecidableEq, Repr

/-- A wave, named by the device's number of its group and its logical index (R310). -/
structure WaveRef where
  gid  : Nat
  wave : Nat
  deriving DecidableEq, Repr

/-- A barrier instance: its level, the group (GRP), cluster (QUAD) or kernel that holds it, and its number (R322). -/
structure BarRef where
  level  : BarLevel
  kernel : Nat
  holder : Nat
  num    : Nat
  deriving DecidableEq, Repr

/-- What firmware gives to CREATE (R45, R424). -/
structure OwnerSpec where
  id       : Fin 8
  mode     : Mode
  cores    : List Nat
  slices   : List (Nat × Nat)
  mscWays  : BitVec 16
  seed     : List (Nat × Nat × Nat)
  tlbWays  : List (Nat × BitVec 16)
  walkPart : Nat
  s2root   : Nat
  deriving DecidableEq, Repr

/-- Hub-controller registers written by REGISTER_WRITE: those without a row of their own. The spec gives podjob, hdm and ide no layout (LOG 38,
LOG 39). -/
inductive HubReg
  | rotaCtl
  | leasectl (o : Fin 8) | swcap (o : Fin 8) | grpctl (o : Fin 8) | clown (o : Fin 8) | fabctl (o : Fin 8)
  | sliceSet (o : Fin 8) (die : Nat) | mscMask (o : Fin 8) | tlbMask (o : Fin 8) (quad : Nat)
  | bardiag (o : Fin 8) | nredctl (o : Fin 8)
  | gatebody | gatesig (t : Fin 16) | gatectl
  | ctxdesc (c : Fin 1024) | ctxsel | segbase (c : Fin 1024) | clcfg (c : Fin 1024)
  | aqicfg (i : Fin 64) | aqipend (i : Fin 64) | qslotaqi (n : Fin 256) | qslotq (n : Fin 256) | qsched | irt (e : Fin 4096)
  | route (pkg : Fin 1024) (path : Fin 4)
  | podjob (c : Fin 1024)
  | barcmd
  | hdm (n : Fin 8)
  | ide (part : Fin 3)
  deriving DecidableEq, Repr

/-- Virtual channels (R388, R392). -/
inductive VChan | req | fwd | rsp | claim
  deriving DecidableEq, Repr

/-- What a flit carries (R388 TYPE), as far as the rules name it; the last four pass between the two ends of one link: a hop's
acknowledgement of a flit and its refusal (R389), credits given back for a channel (R392), and drops charged to the sender (R403). -/
inductive FlitType | read | write | atomic | ack | inval | data | claimMsg | hopAck | hopNack | credit | blame
  deriving DecidableEq, Repr

/-- What a member of a pod job in another package tells the job's switch (R324, R338, R342): a group's waves become members, a wave of it
exits, or it ends by a fault; a wave arrives at a POD instance, contributes to a reduction, proposes, or objects. -/
inductive PodMsg
  | join (grp waves : Nat)
  | leave (grp wave : Nat)
  | lost (grp : Nat)
  | arrive (num grp wave : Nat)
  | contribute (fn : RedOp) (n : Nat) (x : Word) (grp wave : Nat) (lab : Label)
  | propose (slot ticket : Nat) (val : Word) (core pos t : Nat) (lab : Label)
  | object (ticket : Nat) (lab : Label)
  deriving DecidableEq, Repr

/-- A flit of 256 B: the header fields of R388, and its payload: the sender's owner, the request served, addresses and bytes (byte
enables, R406), an acknowledgement's base and bitmap (R394), and a pod job's number with what its member says. -/
structure Flit where
  srcpkg  : Nat
  dstpkg  : Nat
  dom     : Nat
  tenant  : Nat
  ctx     : Nat
  vc      : VChan
  tc      : Nat
  path    : Nat
  seq     : Nat
  tag     : Nat
  gen     : Nat
  type    : FlitType
  age     : Nat
  of      : Bool
  dep     : Bool
  owner   : Nat
  req     : Nat
  bytes   : List (Nat × BitVec 8)
  base    : Nat
  map     : List Nat
  pod     : Option (Nat × PodMsg)
  deriving DecidableEq, Repr

/-- What a hop's checks of a flit find (R389). -/
inductive FlitCheck | good | crcError (replays : Nat) | headerCorrected | headerError
  deriving DecidableEq, Repr

/-- A delivery context's key (R394). -/
structure DcKey where
  srcpkg : Nat
  dstpkg : Nat
  owner  : Nat
  tc     : Nat
  deriving DecidableEq, Repr

/-- A firmware image (R415), for one of the eight hub controllers (R8). -/
structure FirmwareImage where
  ctl     : Fin 8
  bytes   : List (BitVec 8)
  version : BitVec 32
  sig     : List (BitVec 8)
  deriving DecidableEq, Repr

/-- One launch image of an lxdb run: the queue and the packet bytes (R385, R407). -/
structure LxdbLaunch where
  pkg  : Nat
  q    : Nat
  va   : Nat
  data : List (Nat × BitVec 8)
  deriving DecidableEq, Repr

/-- A register named to lxdb (R208, R409). -/
inductive DbgReg | s (r : Reg) | v (r : Reg) | m (r : MReg) | h (r : Fin 16) | a (r : Fin 4)
  deriving DecidableEq, Repr

/-! ### The instructions -/

/-- Every row of spec/opcode_table.json: the instruction words in the table's order, then the device's other steps.
In the encoded rows p is the park bit, and a field that must be even, or is limited in another way, is checked by WellFormed. -/
inductive Instr
  | vadd (p : Bool) (d a b : Reg) (r : Route)   -- VADD, R112
  | vsub (p : Bool) (d a b : Reg) (r : Route)   -- VSUB, R112
  | vadds (p : Bool) (d a b : Reg) (r : Route)   -- VADDS, R112
  | vsubs (p : Bool) (d a b : Reg) (r : Route)   -- VSUBS, R112
  | vaddsn (p : Bool) (d a b : Reg) (r : Route)   -- VADDSN, R112
  | vsubsn (p : Bool) (d a b : Reg) (r : Route)   -- VSUBSN, R112
  | vabsd (p : Bool) (d a b : Reg) (r : Route)   -- VABSD, R112
  | vmul (p : Bool) (d a b : Reg) (r : Route)   -- VMUL, R113
  | vmulh (p : Bool) (d a b : Reg) (r : Route)   -- VMULH, R113
  | vmulhn (p : Bool) (d a b : Reg) (r : Route)   -- VMULHN, R113
  | vmad (p : Bool) (d a b : Reg) (r : Route)   -- VMAD, R113
  | vdot4 (p : Bool) (d a b : Reg) (r : Route)   -- VDOT4, R113
  | vdot4n (p : Bool) (d a b : Reg) (r : Route)   -- VDOT4N, R113
  | vmin (p : Bool) (d a b : Reg) (r : Route)   -- VMIN, R114
  | vmax (p : Bool) (d a b : Reg) (r : Route)   -- VMAX, R114
  | vminn (p : Bool) (d a b : Reg) (r : Route)   -- VMINN, R114
  | vmaxn (p : Bool) (d a b : Reg) (r : Route)   -- VMAXN, R114
  | vabs (p : Bool) (d b : Reg) (r : Route)   -- VABS, R114
  | vneg (p : Bool) (d b : Reg) (r : Route)   -- VNEG, R114
  | vand (p : Bool) (d a b : Reg) (r : Route)   -- VAND, R115
  | vor (p : Bool) (d a b : Reg) (r : Route)   -- VOR, R115
  | vxor (p : Bool) (d a b : Reg) (r : Route)   -- VXOR, R115
  | vandn (p : Bool) (d a b : Reg) (r : Route)   -- VANDN, R115
  | vnot (p : Bool) (d b : Reg) (r : Route)   -- VNOT, R115
  | vmov (p : Bool) (d b : Reg) (r : Route)   -- VMOV, R115
  | vpopc (p : Bool) (d b : Reg) (r : Route)   -- VPOPC, R115
  | vclz (p : Bool) (d b : Reg) (r : Route)   -- VCLZ, R115
  | vshl (p : Bool) (d a b : Reg) (r : Route)   -- VSHL, R116
  | vshr (p : Bool) (d a b : Reg) (r : Route)   -- VSHR, R116
  | vsra (p : Bool) (d a b : Reg) (r : Route)   -- VSRA, R116
  | vrotl (p : Bool) (d a b : Reg) (r : Route)   -- VROTL, R116
  | vbrev (p : Bool) (d b : Reg) (r : Route)   -- VBREV, R116
  | vbcast (p : Bool) (d s : Reg)   -- VBCAST, R117
  | vsreg (p : Bool) (d : Reg) (n : LaneReg)   -- VSREG, R118
  | vaddi (p : Bool) (d a : Reg) (imm : BitVec 12)   -- VADDI, R119
  | vandi (p : Bool) (d a : Reg) (imm : BitVec 12)   -- VANDI, R119
  | vori (p : Bool) (d a : Reg) (imm : BitVec 12)   -- VORI, R119
  | vxori (p : Bool) (d a : Reg) (imm : BitVec 12)   -- VXORI, R119
  | vshli (p : Bool) (d a : Reg) (n : Fin 32)   -- VSHLI, R119
  | vshri (p : Bool) (d a : Reg) (n : Fin 32)   -- VSHRI, R119
  | vsrai (p : Bool) (d a : Reg) (n : Fin 32)   -- VSRAI, R119
  | vli (p : Bool) (d : Reg) (imm : BitVec 12)   -- VLI, R119
  | vfadd (p : Bool) (ty : FpType) (d a b : Reg) (r : Route)   -- VFADD, R121
  | vfsub (p : Bool) (ty : FpType) (d a b : Reg) (r : Route)   -- VFSUB, R121
  | vfmul (p : Bool) (ty : FpType) (d a b : Reg) (r : Route)   -- VFMUL, R121
  | vfma (p : Bool) (ty : FpType) (d a b : Reg) (r : Route)   -- VFMA, R121
  | vfnma (p : Bool) (ty : FpType) (d a b : Reg) (r : Route)   -- VFNMA, R121
  | vfms (p : Bool) (ty : FpType) (d a b : Reg) (r : Route)   -- VFMS, R121
  | vfnms (p : Bool) (ty : FpType) (d a b : Reg) (r : Route)   -- VFNMS, R121
  | vfmin (p : Bool) (ty : FpType) (d a b : Reg) (r : Route)   -- VFMIN, R93
  | vfmax (p : Bool) (ty : FpType) (d a b : Reg) (r : Route)   -- VFMAX, R93
  | vfabs (p : Bool) (d b : Reg) (r : Route)   -- VFABS, R122
  | vfneg (p : Bool) (d b : Reg) (r : Route)   -- VFNEG, R122
  | vfclass (p : Bool) (d b : Reg) (r : Route)   -- VFCLASS, R122
  | vfrndn (p : Bool) (d b : Reg) (r : Route)   -- VFRNDN, R122
  | vfrndz (p : Bool) (d b : Reg) (r : Route)   -- VFRNDZ, R122
  | vfrndd (p : Bool) (d b : Reg) (r : Route)   -- VFRNDD, R122
  | vfrndu (p : Bool) (d b : Reg) (r : Route)   -- VFRNDU, R122
  | vcvt (p : Bool) (f : CvtForm) (d a : Reg)   -- VCVT, R123
  | vpkt (p : Bool) (f : Tapered) (byte : Fin 4) (d a : Reg)   -- VPKT, R124
  | vupkt (p : Bool) (f : Tapered) (byte : Fin 4) (d a : Reg)   -- VUPKT, R125
  | vcvti (p : Bool) (f : CvtiForm) (d a : Reg)   -- VCVTI, R126
  | vcmpi (p : Bool) (c : CondI) (m : MReg) (a b : Reg) (r : Route)   -- VCMPI, R127
  | vcmpf (p : Bool) (c : CondF) (m : MReg) (a b : Reg) (r : Route)   -- VCMPF, R127
  | vsel (p : Bool) (d a b : Reg) (r : Route) (k : MReg)   -- VSEL, R128
  | vrcp (p : Bool) (d b : Reg) (r : Route)   -- VRCP, R130
  | vrsq (p : Bool) (d b : Reg) (r : Route)   -- VRSQ, R130
  | vsqrt (p : Bool) (d b : Reg) (r : Route)   -- VSQRT, R130
  | vexp2 (p : Bool) (d b : Reg) (r : Route)   -- VEXP2, R130
  | vlog2 (p : Bool) (d b : Reg) (r : Route)   -- VLOG2, R130
  | vsin (p : Bool) (d b : Reg) (r : Route)   -- VSIN, R130
  | vcos (p : Bool) (d b : Reg) (r : Route)   -- VCOS, R130
  | vtanh (p : Bool) (d b : Reg) (r : Route)   -- VTANH, R130
  | vrng (p : Bool) (f32 : Bool) (d : Reg) (stream : Fin 64)   -- VRNG, R134
  | vfdiv (p : Bool) (d a b : Reg) (r : Route)   -- VFDIV, R132
  | vcomp (p : Bool) (d a : Reg) (k : MReg)   -- VCOMP, R165
  | vexpd (p : Bool) (d a : Reg) (k : MReg)   -- VEXPD, R165
  | vslup (p : Bool) (d a s : Reg)   -- VSLUP, R166
  | vsldn (p : Bool) (d a s : Reg)   -- VSLDN, R166
  | vperm (p : Bool) (d a b : Reg) (r : Route)   -- VPERM, R167
  | vscan (p : Bool) (op : RedOp) (d a : Reg)   -- VSCAN, R168
  | vmovx (p : Bool) (d : Reg) (k : Fin 4) (imm : BitVec 12)   -- VMOVX, R171
  | vmovxw (p : Bool) (d : Reg) (k : Fin 4) (imm : BitVec 12)   -- VMOVXW, R171
  | vld (p : Bool) (t sb vo : Reg) (sz : Size) (sp : Space) (nt : Bool)   -- VLD, R204
  | vst (p : Bool) (t sb vo : Reg) (sz : Size) (sp : Space) (of nt : Bool)   -- VST, R204
  | xst (p : Bool) (t sb vo : Reg) (sz : Size)   -- XST, R336
  | vatom (p : Bool) (op : AtomOp) (sc : Scope) (d sb vo : Reg)   -- VATOM, R228
  | vatomb (p : Bool) (op : BitOp) (sc : Scope) (d sb vo : Reg)   -- VATOMB, R228
  | vagg (p : Bool) (op : AtomOp) (sc : Scope) (d sb vo : Reg)   -- VAGG, R230
  | vcas (p : Bool) (sc : Scope) (d sb vo : Reg)   -- VCAS, R228
  | sadd (p : Bool) (d a b : Reg)   -- SADD, R139
  | ssub (p : Bool) (d a b : Reg)   -- SSUB, R139
  | smul (p : Bool) (d a b : Reg)   -- SMUL, R139
  | smulh (p : Bool) (d a b : Reg)   -- SMULH, R139
  | smulhn (p : Bool) (d a b : Reg)   -- SMULHN, R139
  | sand (p : Bool) (d a b : Reg)   -- SAND, R139
  | sor (p : Bool) (d a b : Reg)   -- SOR, R139
  | sxor (p : Bool) (d a b : Reg)   -- SXOR, R139
  | sshl (p : Bool) (d a b : Reg)   -- SSHL, R139
  | sshr (p : Bool) (d a b : Reg)   -- SSHR, R139
  | ssra (p : Bool) (d a b : Reg)   -- SSRA, R139
  | smin (p : Bool) (d a b : Reg)   -- SMIN, R139
  | smax (p : Bool) (d a b : Reg)   -- SMAX, R139
  | sminn (p : Bool) (d a b : Reg)   -- SMINN, R139
  | smaxn (p : Bool) (d a b : Reg)   -- SMAXN, R139
  | sclz (p : Bool) (d a : Reg)   -- SCLZ, R139
  | spopc (p : Bool) (d a : Reg)   -- SPOPC, R139
  | srotl (p : Bool) (d a b : Reg)   -- SROTL, R139
  | sset (p : Bool) (c : CondS) (d a b : Reg)   -- SSET, R140
  | saddi (p : Bool) (d a : Reg) (imm : BitVec 12)   -- SADDI, R141
  | sandi (p : Bool) (d a : Reg) (imm : BitVec 12)   -- SANDI, R141
  | sori (p : Bool) (d a : Reg) (imm : BitVec 12)   -- SORI, R141
  | sxori (p : Bool) (d a : Reg) (imm : BitVec 12)   -- SXORI, R141
  | sshli (p : Bool) (d a : Reg) (n : Fin 32)   -- SSHLI, R141
  | sshri (p : Bool) (d a : Reg) (n : Fin 32)   -- SSHRI, R141
  | ssrai (p : Bool) (d a : Reg) (n : Fin 32)   -- SSRAI, R141
  | lit (p : Bool) (op : LitOp) (d a : Reg) (imm : BitVec 32)   -- LIT, R60
  | slil (p : Bool) (d : Reg) (imm : BitVec 16)   -- SLIL, R142
  | slih (p : Bool) (d : Reg) (imm : BitVec 16)   -- SLIH, R142
  | ssel (p : Bool) (d a b c : Reg)   -- SSEL, R143
  | srd (p : Bool) (d : Reg) (n : SpecialReg)   -- SRD, R144
  | swr (p : Bool) (n : SpecialReg) (a : Reg)   -- SWR, R145
  | mrdl (p : Bool) (d : Reg) (a : MReg)   -- MRDL, R146
  | mrdh (p : Bool) (d : Reg) (a : MReg)   -- MRDH, R146
  | mwr (p : Bool) (d : MReg) (a b : Reg)   -- MWR, R146
  | mpop (p : Bool) (d : Reg) (a : MReg)   -- MPOP, R146
  | mffs (p : Bool) (d : Reg) (a : MReg)   -- MFFS, R146
  | mand (p : Bool) (d a b : MReg)   -- MAND, R146
  | mor (p : Bool) (d a b : MReg)   -- MOR, R146
  | mxor (p : Bool) (d a b : MReg)   -- MXOR, R146
  | mnot (p : Bool) (d a : MReg)   -- MNOT, R146
  | vany (p : Bool) (d : Reg) (a : MReg)   -- VANY, R146
  | vall (p : Bool) (d : Reg) (a : MReg)   -- VALL, R146
  | br (p : Bool) (s : Reg) (off : BitVec 18)   -- BR, R151
  | brz (p : Bool) (s : Reg) (off : BitVec 18)   -- BRZ, R151
  | jmp (p : Bool) (off : BitVec 18)   -- JMP, R151
  | jmpf (p : Bool) (s : Reg) (slot : Fin 16) (w8 : Fin 256)   -- JMPF, R160
  | call (p : Bool) (s : Reg) (off : BitVec 18)   -- CALL, R151
  | ret (p : Bool) (s : Reg)   -- RET, R152
  | vbr (p : Bool) (k : MReg) (off : BitVec 18)   -- VBR, R151
  | exit (p : Bool)   -- EXIT, R153
  | yield (p : Bool)   -- YIELD, R154
  | nop (p : Bool)   -- NOP, R155
  | cfetch (p : Bool) (a b : Reg) (slot : Fin 16)   -- CFETCH, R158
  | cfwait (p : Bool) (slot : Fin 16)   -- CFWAIT, R159
  | trap (p : Bool) (code : BitVec 8)   -- TRAP, R273
  | rte (p : Bool)   -- RTE, R274
  | bkpt (p : Bool) (code : BitVec 8)   -- BKPT, R273
  | framew (p : Bool) (until_ : Bool) (s : Reg)   -- FRAMEW, R43
  | sld (p : Bool) (d sb : Reg) (sz : Size) (sp : Space) (off : BitVec 6)   -- SLD, R205
  | sst (p : Bool) (d sb : Reg) (sz : Size) (sp : Space) (of : Bool) (off : BitVec 6)   -- SST, R205
  | satom (p : Bool) (op : SatomOp) (sc : Scope) (d sb : Reg)   -- SATOM, R228
  | fence (p : Bool) (sc : Scope) (k : Kinds)   -- FENCE, R225
  | fencea (p : Bool) (sc : Scope) (k : Kinds)   -- FENCEA, R225
  | bar (p : Bool) (kind : BarKind) (lvl : BarLevel) (n : Fin 16)   -- BAR, R327
  | nred (p : Bool) (op : RedOp) (d a b : Reg)   -- NRED, R338
  | vred (p : Bool) (op : RedOp) (d a : Reg)   -- VRED, R163
  | claim (p : Bool) (d a b : Reg)   -- CLAIM, R354
  | object (p : Bool) (a : Reg)   -- OBJECT, R354
  | clwait (p : Bool) (d a : Reg)   -- CLWAIT, R355
  | clrd (p : Bool) (d b : Reg)   -- CLRD, R356
  | tset (p : Bool) (a : Reg) (tid : Fin 256)   -- TSET, R365
  | mldb (p : Bool) (a : Reg) (m : Fin 4) (tid : Fin 256)   -- MLDB, R369
  | mma (p : Bool) (a : Reg)   -- MMA, R371
  | mqry (p : Bool) (clr : Bool) (d : Reg) (what : MqryWhat)   -- MQRY, R377
  | cpy (p : Bool) (a : Reg) (sc : Scope) (rel acq : Bool)   -- CPY, R380
  | cwait (p : Bool) (a b : Reg)   -- CWAIT, R383
  | lnch (p : Bool) (a b : Reg) (aqi : Fin 64)   -- LNCH, R307
  | release (p : Bool) (a b : Reg) (pol : Fin 64) (len : Reg)   -- RELEASE, R255
  | lblrd (p : Bool) (d : Reg) (x : LblReg)   -- LBLRD, R257
  | probe (p : Bool) (pa : Bool) (a b : Reg)   -- PROBE, R258
  | tlbinv (p : Bool) (k : TlbKind) (a b : Reg)   -- TLBINV, R260
  | xset (p : Bool) (mode : XsetMode) (k : Fin 4) (a b : Reg)   -- XSET, R170
  | vlane (p : Bool) (d a b : Reg)   -- VLANE, R162
  | rngkey (p : Bool) (a : Reg)   -- RNGKEY, R137
  | hld (p : Bool) (h : Fin 16) (s : Reg)   -- HLD, R174
  | hst (p : Bool) (h : Fin 16) (s : Reg)   -- HST, R174
  | hbind (p : Bool) (d a b : Fin 16)   -- HBIND, R175
  | hperm (p : Bool) (d a : Fin 16) (s : Reg)   -- HPERM, R175
  | hcopy (p : Bool) (d a : Fin 16)   -- HCOPY, R175
  | hbund (p : Bool) (k : Fin 4) (a : Fin 16)   -- HBUND, R176
  | hclr (p : Bool) (k : Fin 4)   -- HCLR, R176
  | hthr (p : Bool) (k : Fin 4) (h : Fin 16) (s : Reg)   -- HTHR, R178
  | htie (p : Bool) (k : Fin 4) (pol : TiePolicy) (b : Fin 16)   -- HTIE, R177
  | hsim (p : Bool) (a b : Fin 16) (s : Reg)   -- HSIM, R179
  | hnear (p : Bool) (a : Fin 16) (s : Reg)   -- HNEAR, R183
  | hwr (p : Bool) (a : Fin 16) (s : Reg)   -- HWR, R182
  | hrd (p : Bool) (d : Fin 16) (s : Reg)   -- HRD, R182
  | slotStart (cls : RotaClass) (inst : RotaInst)   -- SLOT_START, R31
  | paddedServiceComplete (req : Nat)   -- PADDED_SERVICE_COMPLETE, R28
  | resultReturn (w : WaveRef) (entry : Nat)   -- RESULT_RETURN, R53
  | switchEnd (o : Fin 8)   -- SWITCH_END, R38
  | splitWritebackDone (core : Nat)   -- SPLIT_WRITEBACK_DONE, R306
  | storeWriteThrough (store : Nat)   -- STORE_WRITE_THROUGH, R426
  | writeThroughAck (store : Nat)   -- WRITE_THROUGH_ACK, R426
  | timestampReset (o : Fin 8)   -- TIMESTAMP_RESET, R217
  | detLogApply (kernel : Nat)   -- DET_LOG_APPLY, R233
  | remoteStoreAck (store : Nat)   -- REMOTE_STORE_ACK, R220
  | homeStoreApply (store : Nat)   -- HOME_STORE_APPLY, R402
  | pageWalkComplete (walk : Nat)   -- PAGE_WALK_COMPLETE, R245
  | releaseComplete (rel : Nat)   -- RELEASE_COMPLETE, R254
  | groupSave (gid : Nat)   -- GROUP_SAVE, R278
  | groupSaveComplete (gid : Nat)   -- GROUP_SAVE_COMPLETE, R278
  | groupRestoreComplete (gid : Nat)   -- GROUP_RESTORE_COMPLETE, R280
  | tagHoldExpire (core tag : Nat)   -- TAG_HOLD_EXPIRE, R398
  | pendLimitExpire (aqi : Fin 64) (q : Nat)   -- PEND_LIMIT_EXPIRE, R287
  | packetReadDone (slot : Fin 256)   -- PACKET_READ_DONE, R288
  | dependenceReread (slot : Fin 256)   -- DEPENDENCE_REREAD, R291
  | dependenceReadDone (slot : Fin 256)   -- DEPENDENCE_READ_DONE, R291
  | dispatch (o : Fin 8)   -- DISPATCH, R292
  | packetCompletion (pk : Nat)   -- PACKET_COMPLETION, R294
  | preloadComplete (core kernel : Nat)   -- PRELOAD_COMPLETE, R300
  | preloadDeadline (core kernel : Nat)   -- PRELOAD_DEADLINE, R300
  | dispatchEnd (kernel : Nat)   -- DISPATCH_END, R305
  | kernelDrainComplete (kernel : Nat)   -- KERNEL_DRAIN_COMPLETE, R305
  | lnchComplete (lnch : Nat)   -- LNCH_COMPLETE, R308
  | groupPlace (o : Fin 8)   -- GROUP_PLACE, R313
  | groupStart (gid : Nat)   -- GROUP_START, R321
  | patienceExpire (gid : Nat)   -- PATIENCE_EXPIRE, R315
  | groupEnd (gid : Nat)   -- GROUP_END, R319
  | barrierRelease (b : BarRef)   -- BARRIER_RELEASE, R329
  | xstPerform (x : Nat)   -- XST_PERFORM, R336
  | nredContributionArrive (c : Nat)   -- NRED_CONTRIBUTION_ARRIVE, R338
  | nredTimerExpire (kernel inst : Nat)   -- NRED_TIMER_EXPIRE, R339
  | proposalArrive (m : Nat)   -- PROPOSAL_ARRIVE, R350
  | objectionArrive (m : Nat)   -- OBJECTION_ARRIVE, R352
  | clwaitQueryArrive (m : Nat)   -- CLWAIT_QUERY_ARRIVE, R355
  | clrdReadArrive (m : Nat)   -- CLRD_READ_ARRIVE, R356
  | claimClose (slot : Nat)   -- CLAIM_CLOSE, R350
  | objectVerdictArrive (m : Nat)   -- OBJECT_VERDICT_ARRIVE, R353
  | tsetDescriptorDone (t : Nat)   -- TSET_DESCRIPTOR_DONE, R363
  | mldbLoadComplete (l : Nat)   -- MLDB_LOAD_COMPLETE, R369
  | mmaStart (core : Nat)   -- MMA_START, R373
  | mmaADataArrive (mma row : Nat)   -- MMA_A_DATA_ARRIVE, R372
  | mmaStageOpportunity (core : Nat)   -- MMA_STAGE_OPPORTUNITY, R372
  | mmaComplete (mma : Nat)   -- MMA_COMPLETE, R376
  | copyChunkComplete (copy : Nat)   -- COPY_CHUNK_COMPLETE, R379
  | cwaitReadReturn (w : WaveRef)   -- CWAIT_READ_RETURN, R383
  | slotLoadComplete (core : Nat) (slot : Fin 16)   -- SLOT_LOAD_COMPLETE, R156
  | retransmit (pkt : Nat)   -- RETRANSMIT, R395
  | senderTeardown (k : DcKey)   -- SENDER_TEARDOWN, R396
  | receiverTeardown (k : DcKey)   -- RECEIVER_TEARDOWN, R396
  | fabricTimeout (req : Nat)   -- FABRIC_TIMEOUT, R398
  | roundTripBound (req : Nat)   -- ROUND_TRIP_BOUND, R401
  | map (slot : Fin 256)   -- MAP, R286
  | registerWrite (r : HubReg) (v : Nat)   -- REGISTER_WRITE, R4
  | rotaTblWrite (cls : RotaClass) (v : BitVec 64)   -- ROTA_TBL_WRITE, R34
  | commit (repair : Bool)   -- COMMIT, R35
  | create (o : OwnerSpec)   -- CREATE, R424
  | ownerModeChange (o : Fin 8) (m : Mode)   -- OWNER_MODE_CHANGE, R45
  | retire (o : Fin 8)   -- RETIRE, R45
  | clockStep (mhz : Nat)   -- CLOCK_STEP, R40
  | hostSnoop (line : Nat) (data : List (Nat × BitVec 8))   -- HOST_SNOOP, R223
  | hostAccess (pa : Nat) (n : Nat) (write : Option (List (BitVec 8)))   -- HOST_ACCESS, R405
  | framePoisoned (frame : Nat)   -- FRAME_POISONED, R247
  | install (pol : Fin 64)   -- INSTALL, R252
  | remove (pol : Fin 64)   -- REMOVE, R252
  | tenkeyWrite (t : Fin 16) (key : List (BitVec 8))   -- TENKEY_WRITE, R416
  | bind (ctx : Fin 1024)   -- BIND, R263
  | unbind (ctx : Fin 1024)   -- UNBIND, R264
  | revoke (ctx : Fin 1024)   -- REVOKE, R264
  | resume (ctx : Fin 1024)   -- RESUME, R264
  | preempt (ctx : Fin 1024)   -- PREEMPT, R277
  | replay (ctx : Fin 1024)   -- REPLAY, R272
  | deliver (ctx : Fin 1024)   -- DELIVER, R272
  | notify (aqi : Fin 64) (offset width : Nat) (v : BitVec 32) (pasid : BitVec 20)   -- NOTIFY, R283
  | unmap (slot : Fin 256)   -- UNMAP, R288
  | restart (slot : Fin 256)   -- RESTART, R288
  | compact (o : Fin 8) (core : Nat)   -- COMPACT, R316
  | breakBarriers (ctx : Fin 1024) (group : Nat) (levels : BitVec 5)   -- BREAK, R333
  | portEnable (port : Fin 18)   -- PORT_ENABLE, R390
  | portDisable (port : Fin 18)   -- PORT_DISABLE, R390
  | trainingDone (port : Fin 18) (passed : List (Fin 18))   -- TRAINING_DONE, R390
  | laneFailure (port : Fin 18) (lane : Fin 18)   -- LANE_FAILURE, R390
  | retrainingDone (port : Fin 18) (ok : Bool)   -- RETRAINING_DONE, R391
  | flitReceive (port : Fin 18) (f : Flit) (check : FlitCheck)   -- FLIT_RECEIVE, R389
  | coreErrorThreshold (core : Nat)   -- CORE_ERROR_THRESHOLD, R411
  | coreUncorrectableFailure (core : Nat)   -- CORE_UNCORRECTABLE_FAILURE, R411
  | hbmRowRemap (stack chan bank row : Nat)   -- HBM_ROW_REMAP, R410
  | hbmChannelSpare (stack chan : Nat)   -- HBM_CHANNEL_SPARE, R410
  | l2WayDisable (die slice way : Nat)   -- L2_WAY_DISABLE, R410
  | firmwareImageLoad (img : FirmwareImage)   -- FIRMWARE_IMAGE_LOAD, R415
  | attestationQuote (nonce : List (BitVec 8))   -- ATTESTATION_QUOTE, R417
  | thermalTrip (die : Nat)   -- THERMAL_TRIP, R418
  | thermalShutdown (die : Nat)   -- THERMAL_SHUTDOWN, R418
  | lxas (args : List String) (fs : List (String × List String))   -- LXAS, R71
  | lxdbAttach (pkg : Nat) (ctx : Fin 1024)   -- LXDB_ATTACH, R407
  | lxdbSelect (pkg : Nat)   -- LXDB_SELECT, R407
  | lxdbBreak (at_ : Option Nat × BitVec 15)   -- LXDB_BREAK, R341; the package named, if any (R407), and the word
  | lxdbRun (launches : List LxdbLaunch)   -- LXDB_RUN, R385
  | lxdbStep (n : Nat)   -- LXDB_STEP, R341
  | lxdbRegs (rs : List DbgReg)   -- LXDB_REGS, R409
  | lxdbMask (m : MReg)   -- LXDB_MASK, R208
  | lxdbLabel (rs : List DbgReg)   -- LXDB_LABEL, R208
  | lxdbMem (va n : Nat)   -- LXDB_MEM, R208
  | lxdbFlush (o : Fin 8)   -- LXDB_FLUSH, R209
  | lxdbStress (o : Fin 8) (on : Bool)   -- LXDB_STRESS, R207
  | lxdbEngineSave (n : Nat)   -- LXDB_ENGINE_SAVE, R385
  | lxdbClaim (slot : Nat)   -- LXDB_CLAIM, R359
  | lxdbWatchFabric (pkg : Nat)   -- LXDB_WATCH_FABRIC, R408
  | lxdbFabricLog (pkg : Nat)   -- LXDB_FABRIC_LOG, R408
  | lxdbSeedbank (e n : Nat)   -- LXDB_SEEDBANK, R409
  | lxdbGate (pol : Fin 64)   -- LXDB_GATE, R409
  | superframeBoundary   -- SUPERFRAME_BOUNDARY, R27
  | gateCommandDone   -- GATE_COMMAND_DONE, R252
  | bucketRefill   -- BUCKET_REFILL, R254
  | reset   -- RESET, R419
  | lxdbCont   -- LXDB_CONT, R341
  | lxdbPcv   -- LXDB_PCV, R208
  | lxdbRotaTrace   -- LXDB_ROTA_TRACE, R208
  | lxdbWatchEngine   -- LXDB_WATCH_ENGINE, R385
  | lxdbEngineLog   -- LXDB_ENGINE_LOG, R385
  | lxdbTrap   -- LXDB_TRAP, R359
  deriving DecidableEq, Repr

end Sys2Proof
end

