-- ==== Sys2Proof/WellFormed.lean ====
section
/-! DEFINITION. Which terms of Instr an instruction word can stand for: the limits that the operand entries put on fields
beyond their codes (spec/03_formats.md R59, R60, R63 and the entry named at each check). -/

namespace Sys2Proof

/-- A field marked even holds an even number (R59). -/
def even (r : Reg) : Bool := r.val % 2 == 0

/-- The base field of an access: even, and 000000 in scratch space (R204). -/
def baseOk (sb : Reg) (sp : Space) : Bool := even sb && (sp != .scratch || sb.val == 0)

/-- A bit that only a global access may set (R203 NT, R204 OF). -/
def globalOnly (bit : Bool) (sp : Space) : Bool := !bit || sp == .global

/-- The scope of a V-A atomic: sb = 000000 names scratch, which takes WAVE or GRP only (R226). -/
def atomScopeOk (sb : Reg) (sc : Scope) : Bool := even sb && (sb.val != 0 || sc == .wave || sc == .grp)

/-- Special registers that SWR may write (R69). -/
def SpecialReg.writable : SpecialReg → Bool
  | .rlane => true
  | .fflags => true
  | .trappc => true
  | _ => false

/-- How many instances a barrier level names (R322). -/
def BarLevel.count : BarLevel → Nat
  | .grp => 16
  | .quad => 8
  | .die => 4
  | .pkg => 4
  | .pod => 2

/-- Whether a LIT consumer is a shift form (R60). -/
def LitOp.isShift : LitOp → Bool
  | .vshli => true
  | .vshri => true
  | .vsrai => true
  | .sshli => true
  | .sshri => true
  | .ssrai => true
  | _ => false

/-- The limits of R60 on a LIT group: a shift amount below 32, and no register read by VLI. -/
def litOk (op : LitOp) (a : Reg) (imm : BitVec 32) : Bool :=
  (!op.isShift || imm.toNat < 32) && (op != .vli || a.val == 0)

/-- The clock steps of R418 in MHz. -/
def clockStepOk (mhz : Nat) : Bool := decide (2400 ≤ mhz) && decide (mhz ≤ 3600) && mhz % 200 == 0

/-- Well-formed terms. Every limit of an encoded row is one whose failure traps RESERVED_ENC, save that of SWR, which traps PRIV (R63). -/
def wf : Instr → Bool
  | .vld _ _ sb _ _ sp nt => baseOk sb sp && globalOnly nt sp
  | .vst _ _ sb _ _ sp of nt => baseOk sb sp && globalOnly of sp && globalOnly nt sp
  | .xst _ _ sb _ _ => even sb
  | .vatom _ _ sc _ sb _ => atomScopeOk sb sc
  | .vatomb _ _ sc _ sb _ => atomScopeOk sb sc
  | .vagg _ _ sc _ sb _ => atomScopeOk sb sc
  | .vcas _ sc _ sb _ => atomScopeOk sb sc
  | .lit _ op _ a imm => litOk op a imm
  | .swr _ n _ => n.writable
  | .cfetch _ a _ _ => even a
  | .framew _ u s => if u then even s && s.val != 0 else s.val == 0
  | .sld _ d sb sz _ _ => even sb && (sz != .d || even d)
  | .sst _ d sb sz sp of _ => even sb && (sz != .d || even d) && globalOnly of sp
  | .satom _ _ _ _ sb => even sb
  | .fence _ _ k => k.e || k.a || k.s || k.l
  | .fencea _ _ k => k.e || k.a || k.s || k.l
  | .bar _ kind lvl n => decide (n.val < lvl.count) && (kind != .swap || lvl == .quad)
  | .nred _ _ d _ _ => even d
  | .clrd _ d _ => even d
  | .tset _ a _ => even a
  | .mldb _ a _ _ => decide (a.val ≤ 59)
  | .mqry _ clr _ what => !clr || what == .mstat
  | .cpy _ a sc rel acq => a.val % 8 == 0 && (rel || acq || sc == .wave)
  | .cwait _ a b => even a && even b
  | .lnch _ a _ _ => even a
  | .release _ a b _ _ => even a && even b
  | .probe _ _ a b => even a && even b
  | .tlbinv _ k a b => even a && (k == .page || a.val == 0) && (k != .all || b.val == 0)
  | .xset _ mode _ _ b => mode == .set || b.val == 0
  | .rngkey _ a => even a
  | .hld _ _ s => even s
  | .hst _ _ s => even s
  | .htie _ _ pol b => pol == .reg || b.val == 0
  | .hnear _ _ s => even s
  | .clockStep mhz => clockStepOk mhz
  | _ => true

end Sys2Proof
end

