-- ==== Sys2Proof/Decode.lean ====
section
/-! DEFINITION. The decoder and the encoder of instruction words (spec/03_formats.md R46, R57 to R64; each entry's own encoding),
and the decoder's view of the opcode table. -/

namespace Sys2Proof

/-- Why a word is not an instruction, in the order of R64.
`reservedIfPriv` is a RESERVED_ENC of TLBINV or PROBE.PA: a wave that is not privileged traps PRIV instead (R63, R64). -/
inductive DecErr | illegalOp | priv | reservedIfPriv | reservedEnc
  deriving DecidableEq, Repr

abbrev Dec := Except DecErr Instr

/-! ### Codes -/

def bit (b : Bool) : Nat := if b then 1 else 0

def Route.code : Route → Nat
  | .none => 0 | .bfly1 => 1 | .bfly2 => 2 | .bfly4 => 3 | .bfly8 => 4 | .rot8 => 5 | .rev => 6 | .rep => 7
def Route.ofCode : Nat → Route
  | 0 => .none | 1 => .bfly1 | 2 => .bfly2 | 3 => .bfly4 | 4 => .bfly8 | 5 => .rot8 | 6 => .rev | _ => .rep

def FpType.code : FpType → Nat
  | .f32 => 0 | .f16x2 => 1 | .bf16x2 => 2
def FpType.ofCode : Nat → Option FpType
  | 0 => some .f32 | 1 => some .f16x2 | 2 => some .bf16x2 | _ => none

def Tapered.code : Tapered → Nat
  | .lt8 => 0 | .lt6 => 1
def Tapered.ofCode : Nat → Tapered
  | 0 => .lt8 | _ => .lt6

def CondI.code : CondI → Nat
  | .eq => 0 | .ne => 1 | .lt => 2 | .le => 3 | .ltn => 4 | .len => 5 | .bits => 6
def CondI.ofCode : Nat → Option CondI
  | 0 => some .eq | 1 => some .ne | 2 => some .lt | 3 => some .le | 4 => some .ltn | 5 => some .len | 6 => some .bits | _ => none

def CondF.code : CondF → Nat
  | .eq => 0 | .ne => 1 | .lt => 2 | .le => 3 | .un => 4 | .ord => 5
def CondF.ofCode : Nat → Option CondF
  | 0 => some .eq | 1 => some .ne | 2 => some .lt | 3 => some .le | 4 => some .un | 5 => some .ord | _ => none

def CondS.code : CondS → Nat
  | .eq => 0 | .ne => 1 | .lt => 2 | .le => 3 | .ltn => 4 | .len => 5
def CondS.ofCode : Nat → Option CondS
  | 0 => some .eq | 1 => some .ne | 2 => some .lt | 3 => some .le | 4 => some .ltn | 5 => some .len | _ => none

def RedOp.code : RedOp → Nat
  | .add => 0 | .fadd => 1 | .min => 2 | .max => 3 | .minn => 4 | .maxn => 5 | .and => 6 | .or => 7
def RedOp.ofCode : Nat → Option RedOp
  | 0 => some .add | 1 => some .fadd | 2 => some .min | 3 => some .max | 4 => some .minn | 5 => some .maxn | 6 => some .and
  | 7 => some .or | _ => none

def AtomOp.code : AtomOp → Nat
  | .add => 0 | .fadd => 1 | .min => 2 | .max => 3 | .minn => 4 | .maxn => 5 | .fmin => 6 | .fmax => 7
def AtomOp.ofCode : Nat → AtomOp
  | 0 => .add | 1 => .fadd | 2 => .min | 3 => .max | 4 => .minn | 5 => .maxn | 6 => .fmin | _ => .fmax

def BitOp.code : BitOp → Nat
  | .and => 0 | .or => 1 | .xor => 2 | .exch => 3
def BitOp.ofCode : Nat → Option BitOp
  | 0 => some .and | 1 => some .or | 2 => some .xor | 3 => some .exch | _ => none

def SatomOp.aop : SatomOp → Nat
  | .arith op => op.code | .bits op => op.code
def SatomOp.family : SatomOp → Nat
  | .arith _ => 0 | .bits _ => 1
def SatomOp.ofCode (family aop : Nat) : Option SatomOp :=
  if family = 0 then some (.arith (AtomOp.ofCode aop)) else (BitOp.ofCode aop).map .bits

def Size.code : Size → Nat
  | .b => 0 | .h => 1 | .w => 2 | .d => 3
def Size.ofCode : Nat → Option Size
  | 0 => some .b | 1 => some .h | 2 => some .w | 3 => some .d | _ => none
/-- Bytes of a size. -/
def Size.bytes : Size → Nat
  | .b => 1 | .h => 2 | .w => 4 | .d => 8

def Space.code : Space → Nat
  | .global => 0 | .scratch => 1 | .const => 2
def Space.ofCode : Nat → Option Space
  | 0 => some .global | 1 => some .scratch | 2 => some .const | _ => none

def Scope.code : Scope → Nat
  | .wave => 0 | .grp => 1 | .quad => 2 | .die => 3 | .pkg => 4 | .pod => 5 | .sys => 6
def Scope.ofCode : Nat → Option Scope
  | 0 => some .wave | 1 => some .grp | 2 => some .quad | 3 => some .die | 4 => some .pkg | 5 => some .pod | 6 => some .sys
  | _ => none

/-- The kind bits as a number, E A S L from the high bit (R225). -/
def Kinds.code (k : Kinds) : Nat := bit k.e * 8 + bit k.a * 4 + bit k.s * 2 + bit k.l
def Kinds.ofCode (n : Nat) : Kinds :=
  { e := n / 8 % 2 == 1, a := n / 4 % 2 == 1, s := n / 2 % 2 == 1, l := n % 2 == 1 }

def BarKind.code : BarKind → Nat
  | .arrive => 0 | .wait => 1 | .both => 2 | .swap => 3
def BarKind.ofCode : Nat → BarKind
  | 0 => .arrive | 1 => .wait | 2 => .both | _ => .swap

/-- Level codes of R322. -/
def BarLevel.code : BarLevel → Nat
  | .grp => 1 | .quad => 2 | .die => 3 | .pkg => 4 | .pod => 5
def BarLevel.ofCode : Nat → Option BarLevel
  | 1 => some .grp | 2 => some .quad | 3 => some .die | 4 => some .pkg | 5 => some .pod | _ => none

def MqryWhat.code : MqryWhat → Nat
  | .mstat => 0 | .estat => 1 | .eaddrl => 2 | .eaddrh => 3 | .copies => 4
def MqryWhat.ofCode : Nat → Option MqryWhat
  | 0 => some .mstat | 1 => some .estat | 2 => some .eaddrl | 3 => some .eaddrh | 4 => some .copies | _ => none

def TlbKind.code : TlbKind → Nat
  | .page => 0 | .pasid => 1 | .owner => 2 | .all => 3
def TlbKind.ofCode : Nat → TlbKind
  | 0 => .page | 1 => .pasid | 2 => .owner | _ => .all

def XsetMode.code : XsetMode → Nat
  | .set => 0 | .val => 1 | .add => 2
def XsetMode.ofCode : Nat → Option XsetMode
  | 0 => some .set | 1 => some .val | 2 => some .add | _ => none

def TiePolicy.code : TiePolicy → Nat
  | .zero => 0 | .one => 1 | .reg => 2
def TiePolicy.ofCode : Nat → Option TiePolicy
  | 0 => some .zero | 1 => some .one | 2 => some .reg | _ => none

/-- Class codes of R27. -/
def RotaClass.code : RotaClass → Nat
  | .mesh => 0 | .d2d => 1 | .msc => 2 | .hbm => 3 | .copy => 4 | .fab => 5 | .host => 6 | .walk => 7 | .claim => 8
def RotaClass.ofCode : Nat → Option RotaClass
  | 0 => some .mesh | 1 => some .d2d | 2 => some .msc | 3 => some .hbm | 4 => some .copy | 5 => some .fab | 6 => some .host
  | 7 => some .walk | 8 => some .claim | _ => none

/-- Special-register numbers of R67. -/
def SpecialReg.code : SpecialReg → Nat
  | .ocycl => 0x000 | .ocych => 0x001 | .owner => 0x002 | .omode => 0x003 | .rphase => 0x004
  | .slotmap c => 0x010 + c.code
  | .wave => 0x020 | .group => 0x021 | .cluster => 0x022 | .gridx => 0x023 | .gridy => 0x024 | .gridz => 0x025
  | .ngroups => 0x026 | .waves => 0x027
  | .rlane => 0x040 | .fflags => 0x041 | .detstat => 0x042 | .lclkl => 0x043 | .lclkh => 0x044 | .clwin => 0x045
  | .trapcause => 0x060 | .trappc => 0x061 | .trapaddrl => 0x062 | .trapaddrh => 0x063
  | .pathcnt n => 0x080 + n.val
  | .outstnd => 0x084 | .ctxlbl => 0x0A0
def SpecialReg.ofCode : Nat → Option SpecialReg
  | 0x000 => some .ocycl | 0x001 => some .ocych | 0x002 => some .owner | 0x003 => some .omode | 0x004 => some .rphase
  | 0x010 => some (.slotmap .mesh) | 0x011 => some (.slotmap .d2d) | 0x012 => some (.slotmap .msc)
  | 0x013 => some (.slotmap .hbm) | 0x014 => some (.slotmap .copy) | 0x015 => some (.slotmap .fab)
  | 0x016 => some (.slotmap .host) | 0x017 => some (.slotmap .walk) | 0x018 => some (.slotmap .claim)
  | 0x020 => some .wave | 0x021 => some .group | 0x022 => some .cluster | 0x023 => some .gridx | 0x024 => some .gridy
  | 0x025 => some .gridz | 0x026 => some .ngroups | 0x027 => some .waves
  | 0x040 => some .rlane | 0x041 => some .fflags | 0x042 => some .detstat | 0x043 => some .lclkl | 0x044 => some .lclkh
  | 0x045 => some .clwin
  | 0x060 => some .trapcause | 0x061 => some .trappc | 0x062 => some .trapaddrl | 0x063 => some .trapaddrh
  | 0x080 => some (.pathcnt 0) | 0x081 => some (.pathcnt 1) | 0x082 => some (.pathcnt 2) | 0x083 => some (.pathcnt 3)
  | 0x084 => some .outstnd | 0x0A0 => some .ctxlbl
  | _ => none

/-- Per-lane special-register numbers of R68. -/
def LaneReg.code : LaneReg → Nat
  | .lane => 0 | .glane => 1 | .pcv => 2 | .trappcv => 3 | .rngctr => 4
def LaneReg.ofCode : Nat → Option LaneReg
  | 0 => some .lane | 1 => some .glane | 2 => some .pcv | 3 => some .trappcv | 4 => some .rngctr | _ => none

/-- LIT consumers: 64 times the set bit, plus the major (R60). -/
def LitOp.code : LitOp → Nat
  | .vaddi => 0x08 | .vandi => 0x09 | .vori => 0x0A | .vxori => 0x0B | .vshli => 0x0C | .vshri => 0x0D | .vsrai => 0x0E
  | .vli => 0x0F
  | .saddi => 0x82 | .sandi => 0x83 | .sori => 0x84 | .sxori => 0x85 | .sshli => 0x86 | .sshri => 0x87 | .ssrai => 0x88
def LitOp.ofCode : Nat → Option LitOp
  | 0x08 => some .vaddi | 0x09 => some .vandi | 0x0A => some .vori | 0x0B => some .vxori | 0x0C => some .vshli
  | 0x0D => some .vshri | 0x0E => some .vsrai | 0x0F => some .vli
  | 0x82 => some .saddi | 0x83 => some .sandi | 0x84 => some .sori | 0x85 => some .sxori | 0x86 => some .sshli
  | 0x87 => some .sshri | 0x88 => some .ssrai
  | _ => none

/-! ### Fields of a word (R58) -/

def rF (w lo : Nat) : Reg := Fin.ofNat 64 (fld w lo 6)
def mF (w lo : Nat) : MReg := Fin.ofNat 8 (fld w lo 3)
def hF (w lo : Nat) : Fin 16 := Fin.ofNat 16 (fld w lo 4)
def qF (w lo : Nat) : Fin 4 := Fin.ofNat 4 (fld w lo 2)
def bF (w lo : Nat) : Bool := fld w lo 1 == 1
def imm12 (w : Nat) : BitVec 12 := BitVec.ofNat 12 (fld w 0 12)
def imm18 (w : Nat) : BitVec 18 := BitVec.ofNat 18 (fld w 0 18)
def shN (w : Nat) : Fin 32 := Fin.ofNat 32 (fld w 0 5)

/-- The instruction, when the fields that must be zero are (R63). -/
def need (c : Bool) (i : Instr) : Dec := if c then .ok i else .error .reservedEnc
/-- As `need`, for an instruction that only a privileged wave may issue. -/
def needP (c : Bool) (i : Instr) : Dec := if c then .ok i else .error .reservedIfPriv
/-- An unassigned code traps ILLEGAL_OP. -/
def asg {α : Type} (o : Option α) (f : α → Dec) : Dec :=
  match o with
  | some x => f x
  | none => .error .illegalOp
/-- A reserved size, space or scope code traps RESERVED_ENC. -/
def rsv {α : Type} (o : Option α) (f : α → Dec) : Dec :=
  match o with
  | some x => f x
  | none => .error .reservedEnc

def z (w lo n : Nat) : Bool := fld w lo n == 0

/-- The V set (R61). -/
def decodeV (w : Nat) : Dec :=
  let p := bF w 30
  let d := rF w 18
  let a := rF w 12
  let b := rF w 6
  let r := Route.ofCode (fld w 3 3)
  let fn := fld w 0 3
  let u := fun (i : Instr) => need (z w 12 6) i
  let av := fun (i : Instr) => need (z w 3 9) i
  let fp := fun (f : FpType → Instr) => asg (FpType.ofCode (fld w 1 2)) fun t => .ok (f t)
  match fld w 24 6 with
  | 0x00 =>
    match fn with
    | 0 => .ok (.vadd p d a b r) | 1 => .ok (.vsub p d a b r) | 2 => .ok (.vadds p d a b r) | 3 => .ok (.vsubs p d a b r)
    | 4 => .ok (.vaddsn p d a b r) | 5 => .ok (.vsubsn p d a b r) | 6 => .ok (.vabsd p d a b r) | _ => .error .illegalOp
  | 0x01 =>
    match fn with
    | 0 => .ok (.vmul p d a b r) | 1 => .ok (.vmulh p d a b r) | 2 => .ok (.vmulhn p d a b r) | 3 => .ok (.vmad p d a b r)
    | 4 => .ok (.vdot4 p d a b r) | 5 => .ok (.vdot4n p d a b r) | _ => .error .illegalOp
  | 0x02 =>
    match fn with
    | 0 => .ok (.vmin p d a b r) | 1 => .ok (.vmax p d a b r) | 2 => .ok (.vminn p d a b r) | 3 => .ok (.vmaxn p d a b r)
    | 4 => u (.vabs p d b r) | 5 => u (.vneg p d b r) | _ => .error .illegalOp
  | 0x03 =>
    match fn with
    | 0 => .ok (.vand p d a b r) | 1 => .ok (.vor p d a b r) | 2 => .ok (.vxor p d a b r) | 3 => .ok (.vandn p d a b r)
    | 4 => u (.vnot p d b r) | 5 => u (.vmov p d b r) | 6 => u (.vpopc p d b r) | _ => u (.vclz p d b r)
  | 0x04 =>
    match fn with
    | 0 => .ok (.vshl p d a b r) | 1 => .ok (.vshr p d a b r) | 2 => .ok (.vsra p d a b r) | 3 => .ok (.vrotl p d a b r)
    | 4 => u (.vbrev p d b r) | _ => .error .illegalOp
  | 0x05 => if fn = 0 then av (.vbcast p d a) else .error .illegalOp
  | 0x06 => asg (LaneReg.ofCode (fld w 0 12)) fun n => need (z w 12 6) (.vsreg p d n)
  | 0x08 => .ok (.vaddi p d a (imm12 w))
  | 0x09 => .ok (.vandi p d a (imm12 w))
  | 0x0A => .ok (.vori p d a (imm12 w))
  | 0x0B => .ok (.vxori p d a (imm12 w))
  | 0x0C => need (z w 5 7) (.vshli p d a (shN w))
  | 0x0D => need (z w 5 7) (.vshri p d a (shN w))
  | 0x0E => need (z w 5 7) (.vsrai p d a (shN w))
  | 0x0F => u (.vli p d (imm12 w))
  | 0x10 => fp fun t => if fld w 0 1 = 0 then .vfadd p t d a b r else .vfsub p t d a b r
  | 0x11 => asg (FpType.ofCode (fld w 1 2)) fun t => if fld w 0 1 = 0 then .ok (.vfmul p t d a b r) else .error .illegalOp
  | 0x12 => fp fun t => if fld w 0 1 = 0 then .vfma p t d a b r else .vfnma p t d a b r
  | 0x13 => fp fun t => if fld w 0 1 = 0 then .vfms p t d a b r else .vfnms p t d a b r
  | 0x14 => fp fun t => if fld w 0 1 = 0 then .vfmin p t d a b r else .vfmax p t d a b r
  | 0x15 =>
    match fn with
    | 0 => u (.vfabs p d b r) | 1 => u (.vfneg p d b r) | 2 => u (.vfclass p d b r) | 3 => u (.vfrndn p d b r)
    | 4 => u (.vfrndz p d b r) | 5 => u (.vfrndd p d b r) | 6 => u (.vfrndu p d b r) | _ => .error .illegalOp
  | 0x16 =>
    match fn with
    | 0 => av (.vcvt p .f2i d a) | 1 => av (.vcvt p .f2iz d a) | 2 => av (.vcvt p .i2f d a) | 3 => av (.vcvt p .n2f d a)
    | 4 => .ok (.vcvt p (.f2h b r) d a)
    | 5 => need (z w 4 8) (.vcvt p (.h2f (bF w 3)) d a)
    | 6 => .ok (.vcvt p (.f2b b r) d a)
    | _ => need (z w 4 8) (.vcvt p (.b2f (bF w 3)) d a)
  | 0x17 => av (.vpkt p (Tapered.ofCode (fld w 2 1)) (qF w 0) d a)
  | 0x18 => av (.vupkt p (Tapered.ofCode (fld w 2 1)) (qF w 0) d a)
  | 0x19 =>
    match fn with
    | 0 => need (z w 5 7) (.vcvti p (.nb (qF w 3)) d a)
    | 1 => need (z w 4 8) (.vcvti p (.nh (bF w 3)) d a)
    | 2 => need (z w 5 7) (.vcvti p (.sb (qF w 3)) d a)
    | 3 => need (z w 5 7) (.vcvti p (.zb (qF w 3)) d a)
    | 4 => need (z w 4 8) (.vcvti p (.sh (bF w 3)) d a)
    | 5 => need (z w 4 8) (.vcvti p (.zh (bF w 3)) d a)
    | _ => .error .illegalOp
  | 0x1A => asg (CondI.ofCode fn) fun c => need (z w 18 3) (.vcmpi p c (mF w 21) a b r)
  | 0x1B => asg (CondF.ofCode fn) fun c => need (z w 18 3) (.vcmpf p c (mF w 21) a b r)
  | 0x1C => .ok (.vsel p d a b r (mF w 0))
  | 0x1D =>
    match fn with
    | 0 => u (.vrcp p d b r) | 1 => u (.vrsq p d b r) | 2 => u (.vsqrt p d b r) | 3 => u (.vexp2 p d b r)
    | 4 => u (.vlog2 p d b r) | 5 => u (.vsin p d b r) | 6 => u (.vcos p d b r) | _ => u (.vtanh p d b r)
  | 0x1E => if fn < 2 then av (.vrng p (bF w 0) d a) else .error .illegalOp
  | 0x1F => if fn = 0 then .ok (.vfdiv p d a b r) else .error .illegalOp
  | 0x20 => av (.vcomp p d a (mF w 0))
  | 0x21 => av (.vexpd p d a (mF w 0))
  | 0x22 => if fn = 0 then need (z w 3 3) (.vslup p d a b) else .error .illegalOp
  | 0x23 => if fn = 0 then need (z w 3 3) (.vsldn p d a b) else .error .illegalOp
  | 0x24 => if fn = 0 then .ok (.vperm p d a b r) else .error .illegalOp
  | 0x25 => asg (RedOp.ofCode fn) fun op => av (.vscan p op d a)
  | 0x26 => need (z w 14 4) (.vmovx p d (qF w 12) (imm12 w))
  | 0x27 => need (z w 14 4) (.vmovxw p d (qF w 12) (imm12 w))
  | 0x28 => rsv (Size.ofCode (fld w 4 2)) fun sz => rsv (Space.ofCode (fld w 2 2)) fun sp =>
      need (z w 1 1) (.vld p d a b sz sp (bF w 0))
  | 0x29 => rsv (Size.ofCode (fld w 4 2)) fun sz => rsv (Space.ofCode (fld w 2 2)) fun sp =>
      .ok (.vst p d a b sz sp (bF w 1) (bF w 0))
  | 0x2A => rsv (Size.ofCode (fld w 4 2)) fun sz => need (z w 0 4) (.xst p d a b sz)
  | 0x2C => rsv (Scope.ofCode (fld w 3 3)) fun sc => .ok (.vatom p (AtomOp.ofCode fn) sc d a b)
  | 0x2D => asg (BitOp.ofCode fn) fun op => rsv (Scope.ofCode (fld w 3 3)) fun sc => .ok (.vatomb p op sc d a b)
  | 0x2E => rsv (Scope.ofCode (fld w 3 3)) fun sc => .ok (.vagg p (AtomOp.ofCode fn) sc d a b)
  | 0x2F => if fn = 0 then rsv (Scope.ofCode (fld w 3 3)) fun sc => .ok (.vcas p sc d a b) else .error .illegalOp
  | _ => .error .illegalOp

/-- The U set, but for LIT (R62). -/
def decodeU (w : Nat) : Dec :=
  let p := bF w 30
  let d := rF w 18
  let a := rF w 12
  let b := rF w 6
  let fn := fld w 0 6
  let off := imm18 w
  let e0 := fun (i : Instr) => need (z w 0 24) i
  match fld w 24 6 with
  | 0x00 =>
    match fn with
    | 0 => .ok (.sadd p d a b) | 1 => .ok (.ssub p d a b) | 2 => .ok (.smul p d a b) | 3 => .ok (.smulh p d a b)
    | 4 => .ok (.smulhn p d a b) | 5 => .ok (.sand p d a b) | 6 => .ok (.sor p d a b) | 7 => .ok (.sxor p d a b)
    | 8 => .ok (.sshl p d a b) | 9 => .ok (.sshr p d a b) | 10 => .ok (.ssra p d a b) | 11 => .ok (.smin p d a b)
    | 12 => .ok (.smax p d a b) | 13 => .ok (.sminn p d a b) | 14 => .ok (.smaxn p d a b)
    | 15 => need (z w 6 6) (.sclz p d a) | 16 => need (z w 6 6) (.spopc p d a) | 17 => .ok (.srotl p d a b)
    | _ => .error .illegalOp
  | 0x01 => asg (CondS.ofCode fn) fun c => .ok (.sset p c d a b)
  | 0x02 => .ok (.saddi p d a (imm12 w))
  | 0x03 => .ok (.sandi p d a (imm12 w))
  | 0x04 => .ok (.sori p d a (imm12 w))
  | 0x05 => .ok (.sxori p d a (imm12 w))
  | 0x06 => need (z w 5 7) (.sshli p d a (shN w))
  | 0x07 => need (z w 5 7) (.sshri p d a (shN w))
  | 0x08 => need (z w 5 7) (.ssrai p d a (shN w))
  | 0x0A => need (z w 16 2) (.slil p d (BitVec.ofNat 16 (fld w 0 16)))
  | 0x0B => need (z w 16 2) (.slih p d (BitVec.ofNat 16 (fld w 0 16)))
  | 0x0C => .ok (.ssel p d a b (rF w 0))
  | 0x0D => asg (SpecialReg.ofCode (fld w 0 12)) fun n => need (z w 12 6) (.srd p d n)
  | 0x0E => asg (SpecialReg.ofCode (fld w 0 12)) fun n =>
      if n.writable then need (z w 18 6) (.swr p n a) else .error .priv
  | 0x0F =>
    match fn with
    | 0 => need (z w 15 3 && z w 6 6) (.mrdl p d (mF w 12))
    | 1 => need (z w 15 3 && z w 6 6) (.mrdh p d (mF w 12))
    | 2 => need (z w 21 3) (.mwr p (mF w 18) a b)
    | 3 => need (z w 15 3 && z w 6 6) (.mpop p d (mF w 12))
    | 4 => need (z w 15 3 && z w 6 6) (.mffs p d (mF w 12))
    | 5 => need (z w 21 3 && z w 15 3 && z w 9 3) (.mand p (mF w 18) (mF w 12) (mF w 6))
    | 6 => need (z w 21 3 && z w 15 3 && z w 9 3) (.mor p (mF w 18) (mF w 12) (mF w 6))
    | 7 => need (z w 21 3 && z w 15 3 && z w 9 3) (.mxor p (mF w 18) (mF w 12) (mF w 6))
    | 8 => need (z w 21 3 && z w 15 3 && z w 6 6) (.mnot p (mF w 18) (mF w 12))
    | 9 => need (z w 15 3 && z w 6 6) (.vany p d (mF w 12))
    | 10 => need (z w 15 3 && z w 6 6) (.vall p d (mF w 12))
    | _ => .error .illegalOp
  | 0x10 => .ok (.br p d off)
  | 0x11 => .ok (.brz p d off)
  | 0x12 => need (z w 18 6) (.jmp p off)
  | 0x13 => need (z w 12 6) (.jmpf p d (hF w 8) (Fin.ofNat 256 (fld w 0 8)))
  | 0x14 => .ok (.call p d off)
  | 0x15 => need (z w 0 18) (.ret p d)
  | 0x16 => need (z w 21 3) (.vbr p (mF w 18) off)
  | 0x17 => e0 (.exit p)
  | 0x18 => e0 (.yield p)
  | 0x19 => e0 (.nop p)
  | 0x1A => need (z w 4 8) (.cfetch p d a (hF w 0))
  | 0x1B => need (z w 4 20) (.cfwait p (hF w 0))
  | 0x1C => need (z w 8 16) (.trap p (BitVec.ofNat 8 (fld w 0 8)))
  | 0x1D => e0 (.rte p)
  | 0x1E => need (z w 8 16) (.bkpt p (BitVec.ofNat 8 (fld w 0 8)))
  | 0x1F => need (z w 1 17) (.framew p (bF w 0) d)
  | 0x20 => rsv (Size.ofCode (fld w 9 3)) fun sz => rsv (Space.ofCode (fld w 7 2)) fun sp =>
      need (z w 6 1) (.sld p d a sz sp (BitVec.ofNat 6 (fld w 0 6)))
  | 0x21 => rsv (Size.ofCode (fld w 9 3)) fun sz => rsv (Space.ofCode (fld w 7 2)) fun sp =>
      .ok (.sst p d a sz sp (bF w 6) (BitVec.ofNat 6 (fld w 0 6)))
  | 0x22 => asg (SatomOp.ofCode (fld w 5 1) (fld w 6 3)) fun op => rsv (Scope.ofCode (fld w 9 3)) fun sc =>
      need (z w 0 5) (.satom p op sc d a)
  | 0x23 => rsv (Scope.ofCode (fld w 9 3)) fun sc => need (z w 12 12 && z w 0 5) (.fence p sc (Kinds.ofCode (fld w 5 4)))
  | 0x24 => rsv (Scope.ofCode (fld w 9 3)) fun sc => need (z w 12 12 && z w 0 5) (.fencea p sc (Kinds.ofCode (fld w 5 4)))
  | 0x25 => rsv (BarLevel.ofCode (fld w 7 3)) fun l =>
      need (z w 12 12 && z w 4 3) (.bar p (BarKind.ofCode (fld w 10 2)) l (hF w 0))
  | 0x26 => asg (RedOp.ofCode fn) fun op => .ok (.nred p op d a b)
  | 0x27 => asg (RedOp.ofCode fn) fun op => need (z w 6 6) (.vred p op d a)
  | 0x28 => need (z w 0 6) (.claim p d a b)
  | 0x29 => need (z w 0 18) (.object p d)
  | 0x2A => need (z w 0 12) (.clwait p d a)
  | 0x2B => need (z w 0 12) (.clrd p d a)
  | 0x2C => need (z w 8 10) (.tset p d (Fin.ofNat 256 (fld w 0 8)))
  | 0x2D => need (z w 10 8) (.mldb p d (qF w 8) (Fin.ofNat 256 (fld w 0 8)))
  | 0x2E => need (z w 0 18) (.mma p d)
  | 0x2F => asg (MqryWhat.ofCode (fld w 0 3)) fun k => need (z w 9 9 && z w 3 5) (.mqry p (bF w 8) d k)
  | 0x30 => rsv (Scope.ofCode (fld w 2 3)) fun sc => need (z w 5 13) (.cpy p d sc (bF w 1) (bF w 0))
  | 0x31 => need (z w 0 12) (.cwait p d a)
  | 0x32 => need (z w 6 6) (.lnch p d a (Fin.ofNat 64 (fld w 0 6)))
  | 0x33 => .ok (.release p d a b (rF w 0))
  | 0x34 =>
    match fn with
    | 0 => need (z w 6 6) (.lblrd p d (.s a))
    | 1 => need (z w 6 6) (.lblrd p d (.v a))
    | 2 => need (z w 6 6 && z w 15 3) (.lblrd p d (.m (mF w 12)))
    | 3 => need (z w 6 6 && z w 16 2) (.lblrd p d (.h (hF w 12)))
    | 4 => need (z w 6 6 && z w 14 4) (.lblrd p d (.a (qF w 12)))
    | _ => .error .illegalOp
  | 0x35 =>
    if bF w 0 then needP (z w 1 11) (.probe p true d a) else need (z w 1 11) (.probe p false d a)
  | 0x36 => needP (z w 2 10) (.tlbinv p (TlbKind.ofCode (fld w 0 2)) d a)
  | 0x37 => rsv (XsetMode.ofCode (fld w 8 2)) fun m => need (z w 0 8) (.xset p m (qF w 10) d a)
  | 0x38 => if fn = 0 then .ok (.vlane p d a b) else .error .illegalOp
  | 0x39 => need (z w 0 18) (.rngkey p d)
  | 0x3A =>
    match fn with
    | 0 => need (z w 12 8) (.hld p (hF w 20) b)
    | 1 => need (z w 12 8) (.hst p (hF w 20) b)
    | _ => .error .illegalOp
  | 0x3B =>
    match fn with
    | 0 => need (z w 6 6) (.hbind p (hF w 20) (hF w 16) (hF w 12))
    | 1 => need (z w 12 4) (.hperm p (hF w 20) (hF w 16) b)
    | 2 => need (z w 6 10) (.hcopy p (hF w 20) (hF w 16))
    | _ => .error .illegalOp
  | 0x3C =>
    match fn with
    | 0 => need (z w 22 2 && z w 6 10) (.hbund p (qF w 20) (hF w 16))
    | 1 => need (z w 22 2 && z w 6 14) (.hclr p (qF w 20))
    | 2 => need (z w 22 2 && z w 12 4) (.hthr p (qF w 20) (hF w 16) b)
    | 3 => rsv (TiePolicy.ofCode (fld w 6 6)) fun t => need (z w 22 2 && z w 16 4) (.htie p (qF w 20) t (hF w 12))
    | _ => .error .illegalOp
  | 0x3D => if fn = 0 then need (z w 20 4) (.hsim p (hF w 16) (hF w 12) b) else .error .illegalOp
  | 0x3E =>
    match fn with
    | 0 => need (z w 20 4 && z w 12 4) (.hnear p (hF w 16) b)
    | 1 => need (z w 20 4 && z w 12 4) (.hwr p (hF w 16) b)
    | 2 => need (z w 12 8) (.hrd p (hF w 20) b)
    | _ => .error .illegalOp
  | _ => .error .illegalOp

/-- Instructions that only a privileged wave may issue (R63). -/
def Instr.privileged : Instr → Bool
  | .tlbinv .. => true
  | .probe _ pa _ _ => pa
  | _ => false

/-- The last check of decoding: the limits of WellFormed (R59, R63). -/
def checkWf (i : Instr) : Dec :=
  if wf i then .ok i else .error (if i.privileged then .reservedIfPriv else .reservedEnc)

/-- Whether a word is LIT: U set, major 0x09 (R60). -/
def isLit (w : Nat) : Bool := fld w 31 1 == 1 && fld w 24 6 == 0x09

/-- One word that is not LIT. -/
def decodeWord (w : Nat) : Dec :=
  match (if fld w 31 1 = 0 then decodeV w else decodeU w) with
  | .ok i => checkWf i
  | .error e => .error e

/-- A LIT group: the LIT word, the literal and the consumer (R60). A wrong consumer traps ILLEGAL_OP before anything else. -/
def decodeLit (w imm c : Nat) : Dec :=
  match LitOp.ofCode (fld c 31 1 * 128 + fld c 24 6) with
  | none => .error .illegalOp
  | some op =>
    if z w 0 24 && z w 30 1 && z c 0 12 then
      checkWf (.lit (bF c 30) op (rF c 18) (rF c 12) (BitVec.ofNat 32 imm))
    else .error .reservedEnc

/-- The instruction that begins a list of words, and how many words it takes. -/
def decodeWords : List Nat → Except DecErr (Instr × Nat)
  | [] => .error .illegalOp
  | w :: rest =>
    if isLit w then
      match rest with
      | imm :: c :: _ =>
        match decodeLit w imm c with
        | .ok i => .ok (i, 3)
        | .error e => .error e
      | _ => .error .illegalOp
    else
      match decodeWord w with
      | .ok i => .ok (i, 1)
      | .error e => .error e

/-! ### The encoder, from the same formats -/

def encVR (p : Bool) (maj d a b r fn : Nat) : Nat :=
  bit p * 2 ^ 30 + maj * 2 ^ 24 + d * 2 ^ 18 + a * 2 ^ 12 + b * 2 ^ 6 + r * 2 ^ 3 + fn
def encVI (p : Bool) (maj d a imm : Nat) : Nat := bit p * 2 ^ 30 + maj * 2 ^ 24 + d * 2 ^ 18 + a * 2 ^ 12 + imm
def encVK (p : Bool) (maj m a b r c : Nat) : Nat :=
  bit p * 2 ^ 30 + maj * 2 ^ 24 + m * 2 ^ 21 + a * 2 ^ 12 + b * 2 ^ 6 + r * 2 ^ 3 + c
def encVM (p : Bool) (maj t s o sz sp : Nat) (of nt : Bool) : Nat :=
  bit p * 2 ^ 30 + maj * 2 ^ 24 + t * 2 ^ 18 + s * 2 ^ 12 + o * 2 ^ 6 + sz * 2 ^ 4 + sp * 2 ^ 2 + bit of * 2 + bit nt
def encUR (p : Bool) (maj d a b fn : Nat) : Nat :=
  2 ^ 31 + bit p * 2 ^ 30 + maj * 2 ^ 24 + d * 2 ^ 18 + a * 2 ^ 12 + b * 2 ^ 6 + fn
def encUI (p : Bool) (maj d a imm : Nat) : Nat := 2 ^ 31 + bit p * 2 ^ 30 + maj * 2 ^ 24 + d * 2 ^ 18 + a * 2 ^ 12 + imm
def encUB (p : Bool) (maj a off : Nat) : Nat := 2 ^ 31 + bit p * 2 ^ 30 + maj * 2 ^ 24 + a * 2 ^ 18 + off
def encUM (p : Bool) (maj d s sz sp : Nat) (of : Bool) (off : Nat) : Nat :=
  2 ^ 31 + bit p * 2 ^ 30 + maj * 2 ^ 24 + d * 2 ^ 18 + s * 2 ^ 12 + sz * 2 ^ 9 + sp * 2 ^ 7 + bit of * 2 ^ 6 + off
def encUA (p : Bool) (d s sc aop fam : Nat) : Nat :=
  2 ^ 31 + bit p * 2 ^ 30 + 0x22 * 2 ^ 24 + d * 2 ^ 18 + s * 2 ^ 12 + sc * 2 ^ 9 + aop * 2 ^ 6 + fam * 2 ^ 5
def encUH (p : Bool) (maj d a b s fn : Nat) : Nat :=
  2 ^ 31 + bit p * 2 ^ 30 + maj * 2 ^ 24 + d * 2 ^ 20 + a * 2 ^ 16 + b * 2 ^ 12 + s * 2 ^ 6 + fn
def encFence (p : Bool) (maj : Nat) (sc : Scope) (k : Kinds) : Nat := encUI p maj 0 0 (sc.code * 2 ^ 9 + k.code * 2 ^ 5)

/-- The words of an instruction; none for the steps of the device that are no instruction words. -/
def encode : Instr → List Nat
  | .vadd p d a b r => [encVR p 0x00 d a b r.code 0]
  | .vsub p d a b r => [encVR p 0x00 d a b r.code 1]
  | .vadds p d a b r => [encVR p 0x00 d a b r.code 2]
  | .vsubs p d a b r => [encVR p 0x00 d a b r.code 3]
  | .vaddsn p d a b r => [encVR p 0x00 d a b r.code 4]
  | .vsubsn p d a b r => [encVR p 0x00 d a b r.code 5]
  | .vabsd p d a b r => [encVR p 0x00 d a b r.code 6]
  | .vmul p d a b r => [encVR p 0x01 d a b r.code 0]
  | .vmulh p d a b r => [encVR p 0x01 d a b r.code 1]
  | .vmulhn p d a b r => [encVR p 0x01 d a b r.code 2]
  | .vmad p d a b r => [encVR p 0x01 d a b r.code 3]
  | .vdot4 p d a b r => [encVR p 0x01 d a b r.code 4]
  | .vdot4n p d a b r => [encVR p 0x01 d a b r.code 5]
  | .vmin p d a b r => [encVR p 0x02 d a b r.code 0]
  | .vmax p d a b r => [encVR p 0x02 d a b r.code 1]
  | .vminn p d a b r => [encVR p 0x02 d a b r.code 2]
  | .vmaxn p d a b r => [encVR p 0x02 d a b r.code 3]
  | .vabs p d b r => [encVR p 0x02 d 0 b r.code 4]
  | .vneg p d b r => [encVR p 0x02 d 0 b r.code 5]
  | .vand p d a b r => [encVR p 0x03 d a b r.code 0]
  | .vor p d a b r => [encVR p 0x03 d a b r.code 1]
  | .vxor p d a b r => [encVR p 0x03 d a b r.code 2]
  | .vandn p d a b r => [encVR p 0x03 d a b r.code 3]
  | .vnot p d b r => [encVR p 0x03 d 0 b r.code 4]
  | .vmov p d b r => [encVR p 0x03 d 0 b r.code 5]
  | .vpopc p d b r => [encVR p 0x03 d 0 b r.code 6]
  | .vclz p d b r => [encVR p 0x03 d 0 b r.code 7]
  | .vshl p d a b r => [encVR p 0x04 d a b r.code 0]
  | .vshr p d a b r => [encVR p 0x04 d a b r.code 1]
  | .vsra p d a b r => [encVR p 0x04 d a b r.code 2]
  | .vrotl p d a b r => [encVR p 0x04 d a b r.code 3]
  | .vbrev p d b r => [encVR p 0x04 d 0 b r.code 4]
  | .vbcast p d s => [encVR p 0x05 d s 0 0 0]
  | .vsreg p d n => [encVI p 0x06 d 0 n.code]
  | .vaddi p d a imm => [encVI p 0x08 d a imm.toNat]
  | .vandi p d a imm => [encVI p 0x09 d a imm.toNat]
  | .vori p d a imm => [encVI p 0x0A d a imm.toNat]
  | .vxori p d a imm => [encVI p 0x0B d a imm.toNat]
  | .vshli p d a n => [encVI p 0x0C d a n.val]
  | .vshri p d a n => [encVI p 0x0D d a n.val]
  | .vsrai p d a n => [encVI p 0x0E d a n.val]
  | .vli p d imm => [encVI p 0x0F d 0 imm.toNat]
  | .vfadd p ty d a b r => [encVR p 0x10 d a b r.code (ty.code * 2)]
  | .vfsub p ty d a b r => [encVR p 0x10 d a b r.code (ty.code * 2 + 1)]
  | .vfmul p ty d a b r => [encVR p 0x11 d a b r.code (ty.code * 2)]
  | .vfma p ty d a b r => [encVR p 0x12 d a b r.code (ty.code * 2)]
  | .vfnma p ty d a b r => [encVR p 0x12 d a b r.code (ty.code * 2 + 1)]
  | .vfms p ty d a b r => [encVR p 0x13 d a b r.code (ty.code * 2)]
  | .vfnms p ty d a b r => [encVR p 0x13 d a b r.code (ty.code * 2 + 1)]
  | .vfmin p ty d a b r => [encVR p 0x14 d a b r.code (ty.code * 2)]
  | .vfmax p ty d a b r => [encVR p 0x14 d a b r.code (ty.code * 2 + 1)]
  | .vfabs p d b r => [encVR p 0x15 d 0 b r.code 0]
  | .vfneg p d b r => [encVR p 0x15 d 0 b r.code 1]
  | .vfclass p d b r => [encVR p 0x15 d 0 b r.code 2]
  | .vfrndn p d b r => [encVR p 0x15 d 0 b r.code 3]
  | .vfrndz p d b r => [encVR p 0x15 d 0 b r.code 4]
  | .vfrndd p d b r => [encVR p 0x15 d 0 b r.code 5]
  | .vfrndu p d b r => [encVR p 0x15 d 0 b r.code 6]
  | .vcvt p f d a =>
    match f with
    | .f2i => [encVR p 0x16 d a 0 0 0]
    | .f2iz => [encVR p 0x16 d a 0 0 1]
    | .i2f => [encVR p 0x16 d a 0 0 2]
    | .n2f => [encVR p 0x16 d a 0 0 3]
    | .f2h b r => [encVR p 0x16 d a b r.code 4]
    | .h2f hi => [encVR p 0x16 d a 0 (bit hi) 5]
    | .f2b b r => [encVR p 0x16 d a b r.code 6]
    | .b2f hi => [encVR p 0x16 d a 0 (bit hi) 7]
  | .vpkt p f byte d a => [encVR p 0x17 d a 0 0 (f.code * 4 + byte.val)]
  | .vupkt p f byte d a => [encVR p 0x18 d a 0 0 (f.code * 4 + byte.val)]
  | .vcvti p f d a =>
    match f with
    | .nb j => [encVR p 0x19 d a 0 j.val 0]
    | .nh hi => [encVR p 0x19 d a 0 (bit hi) 1]
    | .sb j => [encVR p 0x19 d a 0 j.val 2]
    | .zb j => [encVR p 0x19 d a 0 j.val 3]
    | .sh hi => [encVR p 0x19 d a 0 (bit hi) 4]
    | .zh hi => [encVR p 0x19 d a 0 (bit hi) 5]
  | .vcmpi p c m a b r => [encVK p 0x1A m a b r.code c.code]
  | .vcmpf p c m a b r => [encVK p 0x1B m a b r.code c.code]
  | .vsel p d a b r k => [encVR p 0x1C d a b r.code k.val]
  | .vrcp p d b r => [encVR p 0x1D d 0 b r.code 0]
  | .vrsq p d b r => [encVR p 0x1D d 0 b r.code 1]
  | .vsqrt p d b r => [encVR p 0x1D d 0 b r.code 2]
  | .vexp2 p d b r => [encVR p 0x1D d 0 b r.code 3]
  | .vlog2 p d b r => [encVR p 0x1D d 0 b r.code 4]
  | .vsin p d b r => [encVR p 0x1D d 0 b r.code 5]
  | .vcos p d b r => [encVR p 0x1D d 0 b r.code 6]
  | .vtanh p d b r => [encVR p 0x1D d 0 b r.code 7]
  | .vrng p f d stream => [encVR p 0x1E d stream 0 0 (bit f)]
  | .vfdiv p d a b r => [encVR p 0x1F d a b r.code 0]
  | .vcomp p d a k => [encVR p 0x20 d a 0 0 k.val]
  | .vexpd p d a k => [encVR p 0x21 d a 0 0 k.val]
  | .vslup p d a s => [encVR p 0x22 d a s 0 0]
  | .vsldn p d a s => [encVR p 0x23 d a s 0 0]
  | .vperm p d a b r => [encVR p 0x24 d a b r.code 0]
  | .vscan p op d a => [encVR p 0x25 d a 0 0 op.code]
  | .vmovx p d k imm => [encVI p 0x26 d k.val imm.toNat]
  | .vmovxw p d k imm => [encVI p 0x27 d k.val imm.toNat]
  | .vld p t sb vo sz sp nt => [encVM p 0x28 t sb vo sz.code sp.code false nt]
  | .vst p t sb vo sz sp of nt => [encVM p 0x29 t sb vo sz.code sp.code of nt]
  | .xst p t sb vo sz => [encVM p 0x2A t sb vo sz.code 0 false false]
  | .vatom p op sc d sb vo => [encVR p 0x2C d sb vo sc.code op.code]
  | .vatomb p op sc d sb vo => [encVR p 0x2D d sb vo sc.code op.code]
  | .vagg p op sc d sb vo => [encVR p 0x2E d sb vo sc.code op.code]
  | .vcas p sc d sb vo => [encVR p 0x2F d sb vo sc.code 0]
  | .sadd p d a b => [encUR p 0x00 d a b 0]
  | .ssub p d a b => [encUR p 0x00 d a b 1]
  | .smul p d a b => [encUR p 0x00 d a b 2]
  | .smulh p d a b => [encUR p 0x00 d a b 3]
  | .smulhn p d a b => [encUR p 0x00 d a b 4]
  | .sand p d a b => [encUR p 0x00 d a b 5]
  | .sor p d a b => [encUR p 0x00 d a b 6]
  | .sxor p d a b => [encUR p 0x00 d a b 7]
  | .sshl p d a b => [encUR p 0x00 d a b 8]
  | .sshr p d a b => [encUR p 0x00 d a b 9]
  | .ssra p d a b => [encUR p 0x00 d a b 10]
  | .smin p d a b => [encUR p 0x00 d a b 11]
  | .smax p d a b => [encUR p 0x00 d a b 12]
  | .sminn p d a b => [encUR p 0x00 d a b 13]
  | .smaxn p d a b => [encUR p 0x00 d a b 14]
  | .sclz p d a => [encUR p 0x00 d a 0 15]
  | .spopc p d a => [encUR p 0x00 d a 0 16]
  | .srotl p d a b => [encUR p 0x00 d a b 17]
  | .sset p c d a b => [encUR p 0x01 d a b c.code]
  | .saddi p d a imm => [encUI p 0x02 d a imm.toNat]
  | .sandi p d a imm => [encUI p 0x03 d a imm.toNat]
  | .sori p d a imm => [encUI p 0x04 d a imm.toNat]
  | .sxori p d a imm => [encUI p 0x05 d a imm.toNat]
  | .sshli p d a n => [encUI p 0x06 d a n.val]
  | .sshri p d a n => [encUI p 0x07 d a n.val]
  | .ssrai p d a n => [encUI p 0x08 d a n.val]
  | .lit p op d a imm =>
    [encUI false 0x09 0 0 0, imm.toNat,
      op.code / 128 * 2 ^ 31 + bit p * 2 ^ 30 + op.code % 128 * 2 ^ 24 + d * 2 ^ 18 + a * 2 ^ 12]
  | .slil p d imm => [encUB p 0x0A d imm.toNat]
  | .slih p d imm => [encUB p 0x0B d imm.toNat]
  | .ssel p d a b c => [encUR p 0x0C d a b c]
  | .srd p d n => [encUI p 0x0D d 0 n.code]
  | .swr p n a => [encUI p 0x0E 0 a n.code]
  | .mrdl p d a => [encUR p 0x0F d a 0 0]
  | .mrdh p d a => [encUR p 0x0F d a 0 1]
  | .mwr p d a b => [encUR p 0x0F d a b 2]
  | .mpop p d a => [encUR p 0x0F d a 0 3]
  | .mffs p d a => [encUR p 0x0F d a 0 4]
  | .mand p d a b => [encUR p 0x0F d a b 5]
  | .mor p d a b => [encUR p 0x0F d a b 6]
  | .mxor p d a b => [encUR p 0x0F d a b 7]
  | .mnot p d a => [encUR p 0x0F d a 0 8]
  | .vany p d a => [encUR p 0x0F d a 0 9]
  | .vall p d a => [encUR p 0x0F d a 0 10]
  | .br p s off => [encUB p 0x10 s off.toNat]
  | .brz p s off => [encUB p 0x11 s off.toNat]
  | .jmp p off => [encUB p 0x12 0 off.toNat]
  | .jmpf p s slot w8 => [encUI p 0x13 s 0 (slot.val * 2 ^ 8 + w8.val)]
  | .call p s off => [encUB p 0x14 s off.toNat]
  | .ret p s => [encUI p 0x15 s 0 0]
  | .vbr p k off => [encUB p 0x16 k off.toNat]
  | .exit p => [encUI p 0x17 0 0 0]
  | .yield p => [encUI p 0x18 0 0 0]
  | .nop p => [encUI p 0x19 0 0 0]
  | .cfetch p a b slot => [encUI p 0x1A a b slot.val]
  | .cfwait p slot => [encUI p 0x1B 0 0 slot.val]
  | .trap p code => [encUI p 0x1C 0 0 code.toNat]
  | .rte p => [encUI p 0x1D 0 0 0]
  | .bkpt p code => [encUI p 0x1E 0 0 code.toNat]
  | .framew p u s => [encUI p 0x1F s 0 (bit u)]
  | .sld p d sb sz sp off => [encUM p 0x20 d sb sz.code sp.code false off.toNat]
  | .sst p d sb sz sp of off => [encUM p 0x21 d sb sz.code sp.code of off.toNat]
  | .satom p op sc d sb => [encUA p d sb sc.code op.aop op.family]
  | .fence p sc k => [encFence p 0x23 sc k]
  | .fencea p sc k => [encFence p 0x24 sc k]
  | .bar p kind lvl n => [encUI p 0x25 0 0 (kind.code * 2 ^ 10 + lvl.code * 2 ^ 7 + n.val)]
  | .nred p op d a b => [encUR p 0x26 d a b op.code]
  | .vred p op d a => [encUR p 0x27 d a 0 op.code]
  | .claim p d a b => [encUR p 0x28 d a b 0]
  | .object p a => [encUI p 0x29 a 0 0]
  | .clwait p d a => [encUI p 0x2A d a 0]
  | .clrd p d b => [encUI p 0x2B d b 0]
  | .tset p a tid => [encUI p 0x2C a 0 tid.val]
  | .mldb p a m tid => [encUI p 0x2D a 0 (m.val * 2 ^ 8 + tid.val)]
  | .mma p a => [encUI p 0x2E a 0 0]
  | .mqry p clr d what => [encUI p 0x2F d 0 (bit clr * 2 ^ 8 + what.code)]
  | .cpy p a sc rel acq => [encUI p 0x30 a 0 (sc.code * 2 ^ 2 + bit rel * 2 + bit acq)]
  | .cwait p a b => [encUI p 0x31 a b 0]
  | .lnch p a b aqi => [encUI p 0x32 a b aqi.val]
  | .release p a b pol len => [encUI p 0x33 a b (pol.val * 2 ^ 6 + len.val)]
  | .lblrd p d x =>
    match x with
    | .s r => [encUR p 0x34 d r 0 0]
    | .v r => [encUR p 0x34 d r 0 1]
    | .m r => [encUR p 0x34 d r 0 2]
    | .h r => [encUR p 0x34 d r 0 3]
    | .a r => [encUR p 0x34 d r 0 4]
  | .probe p pa a b => [encUI p 0x35 a b (bit pa)]
  | .tlbinv p k a b => [encUI p 0x36 a b k.code]
  | .xset p mode k a b => [encUI p 0x37 a b (k.val * 2 ^ 10 + mode.code * 2 ^ 8)]
  | .vlane p d a b => [encUR p 0x38 d a b 0]
  | .rngkey p a => [encUI p 0x39 a 0 0]
  | .hld p h s => [encUH p 0x3A h 0 0 s 0]
  | .hst p h s => [encUH p 0x3A h 0 0 s 1]
  | .hbind p d a b => [encUH p 0x3B d a b 0 0]
  | .hperm p d a s => [encUH p 0x3B d a 0 s 1]
  | .hcopy p d a => [encUH p 0x3B d a 0 0 2]
  | .hbund p k a => [encUH p 0x3C k a 0 0 0]
  | .hclr p k => [encUH p 0x3C k 0 0 0 1]
  | .hthr p k h s => [encUH p 0x3C k h 0 s 2]
  | .htie p k pol b => [encUH p 0x3C k 0 b pol.code 3]
  | .hsim p a b s => [encUH p 0x3D 0 a b s 0]
  | .hnear p a s => [encUH p 0x3E 0 a 0 s 0]
  | .hwr p a s => [encUH p 0x3E 0 a 0 s 1]
  | .hrd p d s => [encUH p 0x3E d 0 0 s 2]
  | _ => []

/-! ### Bytes and the opcode table -/

/-- A word's four bytes, byte 0 first (R3). -/
def wordBytes (w : Nat) : List Byte := [BitVec.ofNat 8 w, BitVec.ofNat 8 (w / 2 ^ 8), BitVec.ofNat 8 (w / 2 ^ 16), BitVec.ofNat 8 (w / 2 ^ 24)]

/-- The little-endian words of a list of bytes; bytes that do not fill a word are dropped. -/
def bytesWords : List Byte → List Nat
  | a :: b :: c :: d :: rest => (a.toNat + b.toNat * 2 ^ 8 + c.toNat * 2 ^ 16 + d.toNat * 2 ^ 24) :: bytesWords rest
  | _ => []

/-- The instruction that begins a list of bytes, and how many words it takes. -/
def decodeBytes (bs : List Byte) : Except DecErr (Instr × Nat) := decodeWords (bytesWords bs)

/-- The words of a table word: three words, the longest instruction, bits above nbits zero. -/
def tableWords (nbits w : Nat) : List Nat :=
  let v := w % 2 ^ nbits
  [fld v 0 32, fld v 32 32, fld v 64 32]

/-- The decoder on an instruction numbered as the opcode table numbers it. -/
def decodeTableWord (nbits w : Nat) : Option Instr :=
  match decodeBytes ((tableWords nbits w).flatMap wordBytes) with
  | .ok (i, _) => some i
  | .error _ => none

end Sys2Proof
end

