-- ==== Sys2Proof/Config.lean ====
section
/-! DEFINITION. What the spec leaves open: free values, and constants of an implementation. None of them has a body:
nothing can be proved of a value, so a claim holds whatever the value is (LOG 4, LOG 6, LOG 9, LOG 10, LOG 11, LOG 16, LOG 20, LOG 21). -/

namespace Sys2Proof

/-- The free value number n (LOG 4). -/
opaque Config.freeValue : Nat → BitVec 64
/-- What the special-function unit proposes for function code fn and operand bits x, kept within the bounds of R130 (LOG 9). -/
opaque Config.sfu : Nat → BitVec 32 → BitVec 32
/-- The value of the n-th MMIO read, at a physical address (LOG 6). -/
opaque Config.mmio : Nat → Nat → BitVec 64
/-- Cycles a flit or a request travels between a port and its far end (LOG 10). -/
opaque Config.fabricTravel : Nat
/-- Cycles of a home's service of a PEER or POD request (LOG 10). -/
opaque Config.homeService : Nat
/-- Cycles from a PROBE's issue to its return when it hits a TLB (LOG 10). -/
opaque Config.probeLatency : Nat
/-- Whether the host's answer to a read is poisoned (R405), by the count of reads and the line (LOG 20). -/
opaque Config.hostPoison : Nat → Nat → Bool
/-- Temperature of a die in °C, and the package's power in W, in a second of the wall clock (R413, LOG 21). -/
opaque Config.dieTemp : Nat → Nat → Nat
opaque Config.power : Nat → Nat
/-- The header's SECDED code over its bits [127:14], a flit's CRC over bytes 0 to 239, the code of its TYPE and the bytes of its payload
(R387, R388, LOG 20). -/
opaque Config.hecc : Nat → BitVec 8
opaque Config.crc : List Byte → BitVec 128
opaque Config.flitType : FlitType → BitVec 8
opaque Config.payload : Flit → List Byte
/-- Buffers of the partner of a link port for one virtual channel (R392, LOG 20). -/
opaque Config.linkCredits : VChan → Nat
/-- Cycles from the CXL port to the host and back (LOG 10). -/
opaque Config.hostTravel : Nat
/-- Cycles of an ELASTIC owner's dispatch, preload, save and restore (LOG 10). -/
opaque Config.elasticDispatch : Nat
opaque Config.elasticPreload : Nat
opaque Config.elasticSwitch : Nat
/-- Cycles of a packet read by the queue front end, of a gate command (LOG 10). -/
opaque Config.packetRead : Nat
opaque Config.gateCommand : Nat
/-- Wall-clock time of TSET's descriptor read, of a write-back at a split, of training a link (LOG 10). -/
opaque Config.splitWriteback : Nat
opaque Config.trainTime : Nat
/-- SHA3-256 of some bytes, as 32 bytes; ML-DSA verification of (public key, message, signature); the quote signature (LOG 11). -/
opaque Config.sha3 : List Byte → List Byte
opaque Config.mldsaVerify : List Byte → List Byte → List Byte → Bool
opaque Config.mldsaSign : List Byte → List Byte → List Byte

end Sys2Proof
end

