-- ==== Sys2Proof/Machine/Flags.lean ====
section
/-! DEFINITION. The floating-point flags (spec/05_numbers.md R95, R96) and exact values with one rounding (R90 to R94). -/

namespace Sys2Proof.Machine

/-- A set of the flags of FFLAGS: [0] invalid, [1] divide-by-zero, [2] overflow, [3] underflow, [4] inexact (R67). -/
abbrev Flags := BitVec 5

def fNone : Flags := 0
def fInvalid : Flags := 1
def fDivZero : Flags := 2
def fOverflow : Flags := 4
def fUnderflow : Flags := 8
def fInexact : Flags := 16

/-- A binary format: exponent and fraction widths (R90). -/
structure Fmt where
  ew : Nat
  fw : Nat
  deriving DecidableEq, Repr

def f32 : Fmt := ⟨8, 23⟩
def f16 : Fmt := ⟨5, 10⟩
def bf16 : Fmt := ⟨8, 7⟩

namespace Fmt
def bias (f : Fmt) : Int := 2 ^ (f.ew - 1) - 1
/-- Least exponent of a normal value. -/
def emin (f : Fmt) : Int := 1 - f.bias
def infBits (f : Fmt) : Nat := (2 ^ f.ew - 1) * 2 ^ f.fw
/-- The canonical quiet NaN (R92). -/
def nanBits (f : Fmt) : Nat := f.infBits + 2 ^ (f.fw - 1)
def signBit (f : Fmt) : Nat := 2 ^ (f.ew + f.fw)
def width (f : Fmt) : Nat := f.ew + f.fw + 1
end Fmt

/-- An exact value: a NaN, an infinity, or ±m × 2^e; `neg` of a zero is its sign. -/
inductive Fv
  | nan
  | inf (neg : Bool)
  | fin (neg : Bool) (m : Nat) (e : Int)
  deriving DecidableEq, Repr

namespace Fv
def isNaN : Fv → Bool
  | .nan => true
  | _ => false
def neg : Fv → Fv
  | .nan => .nan
  | .inf s => .inf (!s)
  | .fin s m e => .fin (!s) m e
def zero : Fv := .fin false 0 0
def ofInt (i : Int) : Fv := .fin (decide (i < 0)) i.natAbs 0
end Fv

/-- The value of an encoding (R90). -/
def decodeF (f : Fmt) (x : Nat) : Fv :=
  let s := x / f.signBit % 2 == 1
  let ex := x / 2 ^ f.fw % 2 ^ f.ew
  let fr := x % 2 ^ f.fw
  if ex = 2 ^ f.ew - 1 then (if fr = 0 then .inf s else .nan)
  else if ex = 0 then .fin s fr (f.emin - f.fw)
  else .fin s (fr + 2 ^ f.fw) (ex - f.bias - f.fw)

/-- Round m / 2^k to nearest, ties to even; and whether the result differs. -/
def rneShift (m k : Nat) : Nat × Bool :=
  let q := m / 2 ^ k
  let r := m % 2 ^ k
  (if 2 * r > 2 ^ k || (2 * r == 2 ^ k && q % 2 == 1) then q + 1 else q, r != 0)

/-- Round the exact magnitude m × 2^e, m > 0, to the grid of spacing 2^q. -/
def rneTo (m : Nat) (e q : Int) : Nat × Bool :=
  if q ≤ e then (m * 2 ^ (e - q).toNat, false) else rneShift m (q - e).toNat

/-- Round a nonzero magnitude to the format: the encoding without its sign, and the flags (R91, R95). -/
def roundMag (f : Fmt) (m : Nat) (e : Int) : Nat × Flags :=
  let top := (Nat.log2 m : Int) + e
  let qmin := f.emin - f.fw
  let q := max (top - f.fw) qmin
  let (mant, inex) := rneTo m e q
  let bits := mant + (q - qmin).toNat * 2 ^ f.fw
  if bits ≥ f.infBits then (f.infBits, fOverflow ||| fInexact)
  else
    let free := (rneTo m e (top - f.fw)).1
    let tiny := decide ((if free = 2 ^ (f.fw + 1) then top + 1 else top) < f.emin)
    (bits, if inex then (if tiny then fUnderflow ||| fInexact else fInexact) else fNone)

/-- RoundF32, RoundF16 and RoundBF16: one rounding of an exact value (R91, R92). -/
def roundF (f : Fmt) : Fv → Nat × Flags
  | .nan => (f.nanBits, fNone)
  | .inf s => (f.infBits + (if s then f.signBit else 0), fNone)
  | .fin s m e =>
    if m = 0 then (if s then f.signBit else 0, fNone)
    else
      let (b, fl) := roundMag f m e
      (b + (if s then f.signBit else 0), fl)

/-- An exact sum of two finite values; an exact cancellation is +0, and zeros of one sign keep it (R91). -/
def addFin (s1 : Bool) (m1 : Nat) (e1 : Int) (s2 : Bool) (m2 : Nat) (e2 : Int) : Fv :=
  let e := min e1 e2
  let i1 : Int := m1 * 2 ^ (e1 - e).toNat
  let i2 : Int := m2 * 2 ^ (e2 - e).toNat
  let t := (if s1 then -i1 else i1) + (if s2 then -i2 else i2)
  if t = 0 then .fin (s1 && s2 && m1 == 0 && m2 == 0) 0 0 else .fin (decide (t < 0)) t.natAbs e

/-- a + b, exactly; ∞ − ∞ is invalid (R92). -/
def addV : Fv → Fv → Fv × Flags
  | .nan, _ => (.nan, fNone)
  | _, .nan => (.nan, fNone)
  | .inf s, .inf t => if s = t then (.inf s, fNone) else (.nan, fInvalid)
  | .inf s, .fin .. => (.inf s, fNone)
  | .fin .., .inf t => (.inf t, fNone)
  | .fin s m e, .fin t n g =>
    if m = 0 ∧ n = 0 then (.fin (s && t) 0 0, fNone) else (addFin s m e t n g, fNone)

/-- a × b, exactly; 0 × ∞ is invalid (R92). -/
def mulV : Fv → Fv → Fv × Flags
  | .nan, _ => (.nan, fNone)
  | _, .nan => (.nan, fNone)
  | .inf s, .inf t => (.inf (s != t), fNone)
  | .inf s, .fin t n _ => if n = 0 then (.nan, fInvalid) else (.inf (s != t), fNone)
  | .fin s m _, .inf t => if m = 0 then (.nan, fInvalid) else (.inf (s != t), fNone)
  | .fin s m e, .fin t n g => (.fin (s != t) (m * n) (e + g), fNone)

/-- a × b + c, exactly. A NaN operand gives a NaN and no flag, also beside 0 × ∞ (R92, LOG 13). -/
def fmaV (a b c : Fv) : Fv × Flags :=
  if c.isNaN then (.nan, fNone)
  else
    let (p, f) := mulV a b
    if p.isNaN then (.nan, f) else addV p c

/-- a / b to 66 or more bits with a sticky bit below, which one rounding turns into the rounded exact quotient (R132). -/
def divV : Fv → Fv → Fv × Flags
  | .nan, _ => (.nan, fNone)
  | _, .nan => (.nan, fNone)
  | .inf _, .inf _ => (.nan, fInvalid)
  | .inf s, .fin t _ _ => (.inf (s != t), fNone)
  | .fin s _ _, .inf t => (.fin (s != t) 0 0, fNone)
  | .fin s m e, .fin t n g =>
    if n = 0 then (if m = 0 then (.nan, fInvalid) else (.inf (s != t), fDivZero))
    else if m = 0 then (.fin (s != t) 0 0, fNone)
    else
      let q := m * 2 ^ 96 / n
      let r := m * 2 ^ 96 % n
      (.fin (s != t) (2 * q + (if r = 0 then 0 else 1)) (e - g - 97), fNone)

/-- Integer square root, one result bit at a time from bit k − 1. -/
def isqrtAux (n : Nat) : Nat → Nat → Nat
  | 0, r => r
  | k + 1, r => isqrtAux n k (if (r + 2 ^ k) * (r + 2 ^ k) ≤ n then r + 2 ^ k else r)
def isqrt (n : Nat) : Nat := isqrtAux n (Nat.log2 n / 2 + 1) 0

/-- √x with a sticky bit, for a finite nonzero positive value. -/
def sqrtFin (m : Nat) (e : Int) : Fv :=
  let m' := if e % 2 = 0 then m * 2 ^ 64 else m * 2 ^ 65
  let e' := if e % 2 = 0 then e - 64 else e - 65
  let r := isqrt m'
  .fin false (2 * r + (if r * r = m' then 0 else 1)) (e' / 2 - 1)

/-- a < b, or a ≤ b, for values that are no NaN: the order of VCMPF (R127). -/
def ltV : Fv → Fv → Bool
  | .nan, _ => false
  | _, .nan => false
  | .inf s, .inf t => s && !t
  | .inf s, .fin .. => s
  | .fin .., .inf t => !t
  | .fin s m e, .fin t n g =>
    match addFin s m e (!t) n g with
    | .fin neg d _ => neg && d != 0
    | _ => false
def eqV : Fv → Fv → Bool
  | .nan, _ => false
  | _, .nan => false
  | .inf s, .inf t => s == t
  | .fin s m e, .fin t n g =>
    match addFin s m e (!t) n g with
    | .fin _ d _ => d == 0
    | _ => false
  | _, _ => false
def leV (a b : Fv) : Bool := ltV a b || eqV a b

end Sys2Proof.Machine
end

