-- ==== Sys2Proof/Machine/State.lean ====
section
/-! DEFINITION. Everything the spec gives the machine (INVENTORY.md, State), as plain data. -/

namespace Sys2Proof.Machine

/-! ### Outcomes -/

/-- Why the machine stops. -/
inductive Fault
  /-- Raised by step: THERMAL_SHUTDOWN stopped the package clock, and nothing runs until a reset (R418). Safe: the device stops too. -/
  | clockStopped
  deriving DecidableEq, Repr

/-- Why a step is not taken. -/
inductive Refusal
  /-- Raised by exec for an instruction that the model gives no meaning. Safe. -/
  | notModelled (mnemonic : String)
  /-- Raised by exec for an instruction word when the turn is no wave's: there is nobody to issue it (LOG 8). Safe. -/
  | noWave
  /-- Raised by exec for a step of the device named in a state in which the spec gives it no occasion (LOG 8). Safe. -/
  | notEnabled (step : String)
  deriving DecidableEq, Repr

/-! ### Labelled registers (R48, R50) -/

structure UReg where
  val : Word
  lab : Label
  deriving DecidableEq, Repr

/-- A vector register: 64 lanes and one label. -/
structure VReg where
  val : List Word
  lab : Label
  deriving DecidableEq, Repr

/-- A mask register. -/
structure MaskReg where
  val : BitVec 64
  lab : Label
  deriving DecidableEq, Repr

/-- An index register (R169). -/
structure XReg where
  val  : Word
  base : Nat
  len  : Nat
  lab  : Label
  deriving DecidableEq, Repr

/-- A hypervector register or Seedbank entry: 8,192 bits (R172, R180). -/
structure HReg where
  val : BitVec 8192
  lab : Label
  deriving DecidableEq, Repr

/-- A bundle accumulator (R172): `c` holds the counters from c[0]; counters it does not list are 0. -/
structure Accum where
  c   : List Int
  sat : Bool
  tie : TiePolicy
  tr  : Fin 16
  lab : Label
  deriving DecidableEq, Repr

def UReg.zero : UReg := ⟨0, 0⟩
def VReg.zero : VReg := ⟨List.replicate 64 0, 0⟩
def MaskReg.zero : MaskReg := ⟨0, 0⟩
def XReg.zero : XReg := ⟨0, 0, 0, 0⟩
def HReg.zero : HReg := ⟨0, 0⟩
def Accum.zero : Accum := ⟨[], false, .zero, 0, 0⟩

/-! ### Accesses and the return buffer -/

/-- Memory types (R186, R239). -/
inductive MemType | loc | peer | pod | host | mmio
  deriving DecidableEq, Repr

/-- The operation of an atomic (R227). -/
inductive AOp | arith (op : AtomOp) | bits (op : BitOp) | cas
  deriving DecidableEq, Repr

inductive AccKind | load | store | atomic | const
  deriving DecidableEq, Repr

/-- One lane's part of an access: address, data stored or operand, and the swap value of a VCAS. -/
structure LaneAcc where
  lane : Nat
  va   : Nat
  data : Nat
  swap : Nat
  deriving DecidableEq, Repr

/-- Where a result goes. -/
inductive Target | v (r : Nat) | s (r : Nat) | h (r : Nat)
  deriving DecidableEq, Repr

/-- A global access as issued: what a replay sends again (R271, R272). -/
structure Acc where
  kind  : AccKind
  n     : Nat
  lanes : List LaneAcc
  op    : AOp
  agg   : Bool
  dst   : List Target
  al    : Label
  dl    : Label
  of    : Bool
  nt    : Bool
  scope : Scope
  deriving DecidableEq, Repr

/-- What a replay sends again for an entry (R272). -/
inductive Job
  | none
  | acc (a : Acc)
  | release (pol src dst n : Nat) (al : Label)
  | lnch (p aqi q : Nat) (al : Label)
  | tset (d tid : Nat) (al : Label)
  deriving DecidableEq, Repr

/-- A failed access (R56): cause, faulting address, the labels that trap entry absorbs (R250), and R271's and R228's marks. -/
structure Fail where
  cause   : Nat
  addr    : Nat
  absorb  : Label
  replay  : Bool
  unknown : Bool
  deriving DecidableEq, Repr

/-- A register write that waits for a park: the lanes of a vector register, one word of a uniform one, or a hypervector. -/
structure RegWrite where
  tgt  : Target
  mask : BitVec 64
  vals : List Word
  big  : BitVec 8192
  lab  : Label
  live : Bool      -- false once cancelled (R54)
  deriving DecidableEq, Repr

/-- A return-buffer entry (`entry`), or a store, OBJECT, TSET, RELEASE or LNCH that the next park waits for. -/
structure Pend where
  id    : Nat
  entry : Bool
  sfu   : Bool
  left  : Nat        -- parts still outstanding: 0 once returned, or once checked and settled
  pc    : Nat
  ws    : List RegWrite
  flags : Flags
  flab  : Label
  fail  : Option Fail
  job   : Job
  lab   : Label      -- labels that a commit ORs into FFLAGS' label carry here
  tag   : String     -- mnemonic, for the debugger's records
  deriving DecidableEq, Repr

/-! ### Waves (R48, R66 to R68, R148, R265) -/

/-- What a wave waits for at an instruction that it does not leave meanwhile. -/
inductive Cond
  | untilCycle (c : Nat)                     -- R43
  | slotBusy (slot : Nat)                    -- R156, R159, R160
  | score (lo hi : List Nat)                 -- R198: byte ranges, lo paired with hi
  | scoreFull (need : Nat)                   -- R380
  | copyFull                                 -- R379
  | kinds (k : Kinds) (sc : Scope) (acks : Bool)   -- R225
  | fabric (n : Nat) (dsts : List Nat)       -- R394, R396, R397: tags and delivery contexts
  | barrier (sc : Scope) (acks : Bool)       -- R327: accesses and XSTs before the arrival
  | arrived (b : BarRef)                     -- R327: the wave has arrived in the open phase
  | phase (b : BarRef) (t : Nat)             -- R327
  | nredOut                                  -- R338
  | tidPending (ts : List Nat)               -- R361
  | macroBusy (m : Nat)                      -- R369
  | mmaFull                                  -- R371
  | tlb (inv : Nat)                          -- R260
  | cwait                                    -- R383
  | gate                                     -- R210: a RELEASE of the wave that the gate has not admitted yet
  deriving DecidableEq, Repr

/-- What follows a park. -/
inductive After
  | next                                     -- the next instruction
  | again (i : Instr)                        -- the instruction goes on (R43, R160, R274, R327)
  | issue                                    -- R55: the full buffer's instruction issues afresh
  | yielded                                  -- YIELD's park (R154, R320)
  | trap (cause pc addr : Nat) (absorb : Label)    -- a precise trap whose entry parks (R265, R269)
  | ended                                    -- every lane has exited (R153)
  deriving DecidableEq, Repr

/-- What a record of a trap that cannot enter the handler says (R270): FAILPC, UNKNOWN and HELD. -/
structure FailNote where
  failpc  : Nat
  unknown : Bool
  held    : Nat
  deriving DecidableEq, Repr

inductive WStatus
  | running
  | parked (a : After)
  | waiting (c : Cond) (i : Instr)
  | entering (cause pc addr : Nat) (defer : Bool) (absorb : Label) (n : FailNote)   -- trap entry waits for slot 15 (R267)
  | stopped                                  -- at a park point, for a save (R277)
  | ended
  deriving DecidableEq, Repr

structure Wave where
  s       : List UReg
  v       : List VReg
  m       : List MaskReg
  x       : List XReg
  pcs     : List Nat
  exited  : BitVec 64
  ctxlbl  : Label
  rlane   : UReg
  fflags  : UReg
  ocych   : Word
  lclkh   : Word
  overrun : Bool
  tcause  : Word
  tpc     : UReg
  taddr   : BitVec 64
  tpcv    : List Word
  intrap  : Bool
  rngkey  : BitVec 64
  rnglab  : Label
  rngctr  : List Word
  pend    : List Pend
  pathcnt : List Nat
  eseen   : BitVec 8
  claims  : Nat
  held    : List Pend                        -- R271
  status  : WStatus
  phase   : Nat                              -- progress within the instruction being waited in; 1 with requests held at YIELD's park (R272)
  target  : Nat                              -- R327: the phase waited for; R383: the counter read
  ready   : Nat                              -- earliest cycle of the next issue
  lastIss : Nat
  deriving DecidableEq, Repr

/-! ### Groups (R310 to R321) -/

inductive GState | starting | running | saving | saved | restoring | ending | ended
  deriving DecidableEq, Repr

/-- Core, positions, register base and window of a placed group (R312). -/
structure Place where
  core : Nat
  pos  : List Nat
  base : Nat
  win  : Option Nat
  deriving DecidableEq, Repr

/-- Bytes of a scratch window or exchange bank that are not zero, by offset. -/
abbrev Bytes := List (Nat × Byte)

/-- A buffered deterministic store byte, with its logical thread and the hint of its store (R203, R232). -/
structure DetByte where
  typ  : MemType
  pa   : Nat
  b    : Byte
  glane : Nat
  va   : Nat
  pc   : Nat                                 -- its instruction
  nt   : Bool
  deriving DecidableEq, Repr

/-- A deterministic atomic (R233). -/
structure DetAtom where
  gid   : Nat
  group : Nat
  wave  : Nat
  lane  : Nat
  seq   : Nat
  typ   : MemType
  va    : Nat
  pa    : Nat
  op    : AOp
  x     : Nat
  deriving DecidableEq, Repr

/-- A segment slot's contents that a restore loads again (R300). -/
structure SlotImage where
  slot  : Nat
  va    : Nat
  words : Nat
  deriving DecidableEq, Repr

/-- A matrix tile as saved (R368). -/
structure Tile where
  mac    : Nat
  fmt    : Nat
  src    : List Byte
  se     : Int
  be     : List Int
  lab    : Label
  deriving DecidableEq, Repr

structure Group where
  gid     : Nat
  kernel  : Nat
  ctx     : Nat
  owner   : Nat
  lin     : Nat
  waves   : List Wave
  nwaves  : Nat
  vdecl   : Nat
  hdecl   : Nat
  adecl   : Nat
  kib     : Nat
  xchg    : Bool
  det     : Bool
  st      : GState
  place   : Option Place
  former  : Option Place
  ocyc    : Nat
  counting : Option Nat                      -- cycle since which OCYC counts (R37)
  win     : Bytes
  wlab    : List Label
  front   : Bytes
  flab    : Label
  back    : Bytes
  blab    : Label
  backSrc : List (Nat × Nat)                 -- offset and member of each byte of the back bank (R337)
  h       : List HReg
  hnew    : List (Nat × HReg)                -- hypervector registers written by commits of the current cycle (R173)
  a       : List Accum
  cur     : Nat
  detBuf  : List DetByte
  sovf    : Bool
  mflags  : Flags
  msat    : Bool
  mlab    : Label
  eseq    : BitVec 8
  ekind   : Nat
  ecause  : Nat
  eaddr   : Nat
  elbl    : Label
  stop    : Bool                             -- a pre-emption is requested (R277)
  replay  : Bool                             -- replayable (R271)
  debug   : Bool                             -- saved by a BKPT stop (R276)
  victim  : Option Nat                       -- held back for a kernel (R317)
  frame   : Bool                             -- holds a save frame (R278)
  frameNo : Nat                              -- and which
  mode    : Nat                              -- settled by firmware: 1 REPLAY, 2 DELIVER (R272)
  detAtoms : List DetAtom                    -- deterministic atomics saved with it (R278)
  compact : Bool                             -- saved by a compaction (R316)
  images  : List SlotImage
  tiles   : List Tile
  savedAt : Nat
  stepLeft : Option (Nat × Nat)              -- lxdb step: its wave, and instructions left (R341)
  placedAt : Nat                             -- number of its latest placement (R317)
  begun   : Nat                              -- cycle of its start
  deriving DecidableEq, Repr

/-! ### Cores -/

inductive SlotState | empty | loading | held | present | failed
  deriving DecidableEq, Repr

/-- A load of a segment slot that waits for lanes to leave it (R156, R158): its wave, the image, and what it reads as. -/
structure HeldLoad where
  w     : WaveRef
  va    : Nat
  words : Nat
  vdecl : Nat
  owner : Nat
  ctx   : Nat
  det   : Bool
  deriving DecidableEq, Repr

/-- A segment slot (R156). -/
structure Slot where
  st     : SlotState
  words  : List Nat
  live   : List (Nat × BitVec 64)            -- liveness table: instruction index and mask (R83)
  lab    : Label
  kernel : Option Nat
  va     : Nat
  len    : Nat
  cause  : Nat
  addr   : Nat
  next   : Option HeldLoad                   -- the load that waits (HELD)
  load   : Nat                               -- the load in progress
  deriving DecidableEq, Repr

/-- A CIM macro (R368). -/
structure Macro where
  tile    : Tile
  tag     : Option Nat
  loading : Option Nat
  deriving DecidableEq, Repr

/-- A cached line with its timestamp pair (R211). -/
structure Line where
  pa    : Nat
  bytes : List Byte
  wts   : Nat
  rts   : Nat
  dirty : Bool
  typ   : MemType
  deriving DecidableEq, Repr

/-- A cached translation (R243): the combined result of R241. -/
structure Tlb where
  owner : Nat
  pasid : Nat
  va    : Nat        -- page base
  size  : Nat        -- bytes of the page
  pa    : Nat        -- its physical base
  typ   : MemType
  lab   : Label
  own   : Nat
  peer  : Nat
  r     : Bool
  w     : Bool
  deriving DecidableEq, Repr

/-- A range-scoreboard entry (R198). -/
structure Score where
  gid  : Nat
  copy : Nat
  lo   : Nat
  hi   : Nat
  deriving DecidableEq, Repr

/-- A requester tag that is in use, or held after a timeout (R397, R398). -/
structure TagUse where
  tag : Nat
  gen : Nat
  req : Option Nat
  till : Nat                                 -- end of the hold in the wall clock's time (R2), while req is none
  deriving DecidableEq, Repr

/-- A quarantined register block part of an ended or saved wave (R318). -/
structure Quar where
  base : Nat
  len  : Nat
  pend : List (Nat × Nat)                    -- the entries awaited, and how many parts of each are still to return
  deriving DecidableEq, Repr

structure Core where
  lclk   : Nat
  spS    : Nat
  spX    : Nat
  spF    : Nat
  spG    : Nat
  spW    : Nat                               -- waves per group of the split (R187)
  slots  : List Slot
  macros : List Macro
  score  : List Score
  detBuf : List DetAtom
  gens   : List (Nat × Nat)                  -- generations that are not 0, by tag
  tags   : List TagUse
  l1     : List Line
  cc     : List Line
  utlb   : List Tlb
  quar   : List Quar
  mmaSeq : Nat
  wback  : Bool                              -- write-back of a split change in progress (R306)
  errs   : Nat
  deriving DecidableEq, Repr

/-! ### Rota requests (R26 to R33) -/

/-- One stage of a request's way: an admission at a rota instance, a fixed number of cycles, or the turn to a response. -/
inductive Leg
  | rota (c : RotaClass) (i : RotaInst)
  | hold (n : Nat)
  | turn                                     -- the request has been served: from here on it is a response (R15)
  deriving DecidableEq, Repr

/-- What a request is for: what happens when its last leg completes. -/
inductive Purpose
  | entryPart (w : WaveRef) (id : Nat)       -- part of an entry or store check of a wave
  | wtStart (store : Nat)                    -- a store's way out of the core (R426)
  | wt (store : Nat)                         -- a line of a store's write-through
  | walk (walk : Nat)
  | chunk (copy : Nat)
  | release (rel : Nat)
  | lnch (l : Nat)
  | claim (m : Nat)
  | nred (c : Nat)
  | packet (slot n : Nat)                    -- a slot's read of its head packet, and of a dependence counter: the n-th read of the slot
  | depRead (slot n : Nat)
  | cwait (w : WaveRef) (n : Nat)
  | head (slot : Nat)                        -- a posted write of HEAD (R288)
  | step (i : Instr)                         -- a read or write of the hub, for a step of the device that goes on when it has returned
  | mldb (l : Nat)
  | mmaRow (mma row : Nat)
  | tset (t : Nat)
  | remote (f : Nat)                         -- a fabric request on its way to its home
  | reply (w : WaveRef) (f : Nat)            -- and its reply, to a load or an atomic
  | ackBack (f : Nat)                        -- and its acknowledgement, to a store
  | idle
  deriving DecidableEq, Repr

/-- What one read of an engine, the gate or the hub has given: a value; nothing yet, as its line comes from a home off the package
(the request, the address of its bytes and how many, and the virtual address); or a failure with its cause and address. -/
inductive EngVal
  | val (v : Nat)
  | away (fab pa n va : Nat)
  | bad (cause va : Nat)
  deriving DecidableEq, Repr

structure Req where
  id      : Nat
  owner   : Nat
  core    : Nat                              -- 512 for a request of the hub
  seq     : Nat
  ord     : Nat                              -- the issue order of the access that it is for (R29)
  legs    : List Leg                         -- the leg being waited for or served first
  resp    : Bool                             -- it is a response: on a mesh link it waits in the response class's buffer (R15)
  inp     : Nat                              -- input of a mesh router: local 0, north, east, south, west (R18); at the claim home's port
                                             -- the identity of the wave that a reply goes to (R360)
  entered : Nat                              -- cycle at which it entered the first leg's queue
  adm     : Option Nat                       -- first cycle of its slot, once admitted
  sys     : Bool
  purpose : Purpose
  deriving DecidableEq, Repr

/-- One instance: its round-robin pointer, the waiting requests in arrival order, and its next scheduled SLOT_START. -/
structure RotaQ where
  cls   : RotaClass
  inst  : RotaInst
  ptr   : Nat
  queue : List Nat
  next  : Option Nat
  deriving DecidableEq, Repr

/-- A captured commit: the tables and REPAIR (R35), and the owner that it creates (R424). -/
structure Captured where
  tables : List (BitVec 64)
  repair : Bool
  create : Option OwnerSpec
  deriving DecidableEq, Repr

/-- One leg in the rota trace (R208). -/
structure LegRec where
  core    : Nat
  ident   : Nat                              -- number of the entry, store, request or message that it serves
  leg     : Leg
  entered : Nat
  slot    : Nat
  done    : Nat
  deriving DecidableEq, Repr

structure Rota where
  staged  : List (BitVec 64)
  live    : List (BitVec 64)
  repair  : Bool
  pend    : Option Captured
  err     : Bool
  errcode : Nat
  retired : List Nat                         -- IDs whose entries the hub's own commit frees (R425)
  insts   : List RotaQ
  reqs    : List Req
  nextReq : Nat
  seq     : Nat
  trace   : List LegRec                      -- admissions of the captured requests, latest first (R208)
  deriving DecidableEq, Repr

/-! ### Owners (R45) -/

inductive OState | created | running | switching | retired
  deriving DecidableEq, Repr

structure Owner where
  id       : Nat
  st       : OState
  timed    : Bool
  repepoch : BitVec 8
  spec     : OwnerSpec
  stress   : Bool
  lease    : Nat
  resetReq : Bool
  swcap    : Nat
  patience : Nat
  auto     : Bool
  frag     : Bool
  fragcore : Nat
  gcore    : Nat
  ccore    : Nat                             -- the core of the compaction in progress
  cbusy    : Bool
  clbase   : Nat
  clcount  : Nat
  void     : Nat
  timeout  : Nat
  dcquota  : Nat
  dom      : Nat
  tlost    : Nat
  stale    : Nat
  bardiag  : Nat
  nredtimer : Nat
  reset    : Bool                            -- a timestamp reset is being prepared (R217)
  repAt    : Option Nat                      -- cycle of the latest REPAIRED (R44)
  heldAt   : Option Nat                      -- boundary at which a repair last held back its switches (R44)
  fragId   : Nat                             -- the waiter that FRAG is for (R315)
  fragNew  : Bool                            -- FRAG was set since the last super-frame boundary (R315)
  owed     : Nat                             -- clock steps whose REPAIRED waits for the switch's end (R44)
  switchAt : Option Nat                      -- end of the padded switch (R38)
  deriving DecidableEq, Repr

/-! ### Contexts (R262 to R270, R361) -/

inductive CState | free | bound | active | preempted | suspended | revoked
  deriving DecidableEq, Repr

/-- The descriptor's writable fields (R262). -/
structure CtxDesc where
  aqimask : BitVec 64
  frames  : Nat
  saveva  : Nat
  hndwords : Nat
  hndimg  : Nat
  s1root  : Nat
  debug   : Bool
  system  : Bool
  tenant  : Nat
  owner   : Nat
  pasid   : Nat
  deriving DecidableEq, Repr

inductive TidState | invalid (reason : Nat) | pending | valid
  deriving DecidableEq, Repr

/-- A tensor identifier entry (R361, R362). It is PENDING on the cores that have a TSET of it outstanding (Engines.tsets), which see no
old entry; here it holds what the other cores capture. -/
structure Tid where
  st     : TidState
  scratch : Bool
  rank   : Nat
  fmt    : Nat
  se     : Int
  stride : List Nat
  dim    : List Nat
  be     : Nat
  base   : Nat
  lab    : Label
  deriving DecidableEq, Repr

/-- A fault-log record (R270). -/
structure FaultRec where
  seq     : Nat
  addr    : Nat
  cause   : Nat
  group   : Nat
  wave    : Nat
  failpc  : Nat
  defer   : Bool
  unknown : Bool
  kind    : Nat
  held    : Nat
  deriving DecidableEq, Repr

structure Ctx where
  id      : Nat
  desc    : CtxDesc
  latched : CtxDesc
  st      : CState
  flog    : List FaultRec                    -- latest 256, newest first
  flogSeq : Nat
  segbase : Nat
  clwin   : Nat
  clpod   : Bool
  clslots : Nat
  tids    : List (Nat × Tid)
  podjob  : Option (Nat × Nat)               -- its pod job (R323), and the base added to GROUP for the member index (R342)
  deriving DecidableEq, Repr

/-! ### Queues and kernels (R282 to R309) -/

structure Aqi where
  id      : Nat
  errbase : Nat
  errtail : Nat
  errlog2 : Nat
  qcount  : Nat
  qtbase  : Nat
  pend    : List (Nat × Nat × Nat)           -- unmapped notified queues: q, pending tail, first pending time of the wall clock (R287)
  pendW1C : BitVec 64                        -- PENDING
  errs    : Nat
  deriving DecidableEq, Repr

inductive QState | free | idle | ready | blocked | dispatching | stalled | halted
  deriving DecidableEq, Repr

/-- A slot descriptor of a segment-table entry (R298). -/
structure SegDesc where
  valid   : Bool
  preload : Bool
  words   : Nat
  va      : Nat
  deriving DecidableEq, Repr

/-- What reaches a mapped queue's slot: an LNCH's packet, or a notify of a tail by a PASID. -/
inductive RingOp | lnch (l : Nat) | notify (tail pasid : Nat)
  deriving DecidableEq, Repr

structure QSlot where
  n       : Nat
  aqi     : Nat
  q       : Nat
  asel    : Nat                              -- QSLOT_n's AQI field, which a MAP takes
  qsel    : Nat                              -- QSLOTQ_n
  st      : QState
  known   : Bool                             -- its descriptor was read
  ctx     : Nat
  headc   : Nat
  tail    : Nat
  ringbase : Nat
  ringlog : Nat
  crbase  : Nat
  crlog   : Nat
  ctail   : Nat
  pkt     : List Byte                        -- the head packet, once read
  seq     : Nat
  readyAt : Nat                              -- time of the wall clock (R2, R292)
  idleAt  : Nat
  unmap   : Bool                             -- an UNMAP deferred to the end of the dispatch
  cur     : Option Nat                       -- the kernel being dispatched
  reread  : Option Nat
  vicFrom : Option Nat                       -- placements from this number on are no victims of its launch (R317)
  tok     : Nat                              -- number of its latest read of a packet or a counter: an earlier one returns to nobody
  segs    : List SegDesc                     -- the segments of its head packet's launch, once its checks have read them (R298)
  line    : List RingOp                      -- appends and notifies that wait for the append before them (R283, R307)
  deriving DecidableEq, Repr

inductive KState | preloading | dispatching | running | draining | complete | faulted | refused
  deriving DecidableEq, Repr

/-- A preload in progress on a core for a kernel (R300). -/
structure Preload where
  core  : Nat
  fetch : Nat                                -- its load of the core's slots
  left  : Nat
  fail  : Option (Nat × Nat)
  due   : Option Nat
  also  : Option Nat                         -- another kernel's load of slot 15 on the core that it waits for
  deriving DecidableEq, Repr

structure Kernel where
  id      : Nat
  ctx     : Nat
  owner   : Nat
  slot    : Nat
  aqi     : Nat
  q       : Nat
  index   : Nat
  prio    : Nat
  det     : Bool
  gridbar : Bool
  xchg    : Bool
  c       : Nat
  irq     : Bool
  entry   : Nat
  dx      : Nat
  dy      : Nat
  dz      : Nat
  waves   : Nat
  vregs   : Nat
  hregs   : Nat
  accs    : Nat
  scratch : Nat
  fifo    : Nat
  args    : Nat
  done    : Nat
  ivec    : Nat
  tag     : Nat
  arrival : Nat
  segs    : List SegDesc
  st      : KState
  start   : Nat
  next    : Nat                              -- groups from this GROUP on are not placed yet
  left    : Nat                              -- groups not ended
  loads   : List Preload
  dieSet  : Option Nat
  pkgSet  : Bool
  podjob  : Option (Nat × Nat)               -- the context's pod job at its dispatch (R323, R342)
  clbase  : Option Nat
  clslots : Nat
  detLog  : List DetAtom
  applied : Bool
  mixed   : Bool
  cause   : Nat
  reason  : Nat
  barred  : Bool                             -- its end has been reported (R294)
  deriving DecidableEq, Repr

/-- A packet that waits for its completion record (R294): a SIGNAL waits for the launches before it. -/
structure Packet where
  id     : Nat
  slot   : Nat
  aqi    : Nat
  q      : Nat
  ctx    : Nat
  index  : Nat
  done   : Nat
  irq    : Bool
  ivec   : Nat
  tag    : Nat
  status : Nat
  cause  : Nat
  reason : Nat
  mixed  : Bool
  waits  : List Nat                          -- kernels before a SIGNAL
  ready  : Bool
  stage  : Nat                               -- writes of its completion made (R294)
  bad    : Bool                              -- one of them timed out
  ring   : Option (Nat × Nat × Nat)          -- base, size and next index of its completion ring, once found
  deriving DecidableEq, Repr

/-- A line that a step of the device reads for the hub from a page off the package: its request, its bytes once they are there, or the
cause of its failure. -/
structure HubRead where
  step  : Instr
  typ   : MemType
  line  : Nat
  fab   : Nat
  bytes : List Byte
  bad   : Option Nat
  deriving DecidableEq, Repr

structure Hub where
  reads    : List HubRead
  aqis     : List Aqi
  slots    : List QSlot
  pendLim  : Nat
  starve   : Nat
  ageStep  : Nat
  irt      : List (Nat × BitVec 64)
  msix     : List (Nat × Nat)                -- messages sent: cycle and table entry
  errRecs  : List (Nat × BitVec 128)         -- error records appended: interface and record (R284)
  kernels  : List Kernel
  packets  : List Packet
  rings    : List (Nat × Nat × Nat × Nat × Nat)   -- completion rings of the queues of REVOKED contexts: interface, queue, base, size, next index
  seq      : Nat
  nextId   : Nat
  cmdCtx   : Nat
  cmdOp    : Nat                             -- OP of the last command (R263)
  cmdErr   : Nat
  cmdDone  : Bool
  barCtx   : Nat                             -- BARCMD (R333)
  barGroup : Nat
  barLevels : Nat
  barErr   : Bool
  barDone  : Bool
  status   : List String                     -- firmware status reports (R45, R424), newest first
  deriving DecidableEq, Repr

/-! ### Memory -/

/-- Timestamps of an owner's home line (R211, R216). -/
structure Stamp where
  own  : Nat
  line : Nat
  wts  : Nat
  rts  : Nat
  deriving DecidableEq, Repr

/-- An L2 slice's line: its sectors (R193). -/
structure L2Line where
  die   : Nat
  slice : Nat
  line  : Line
  nt    : Bool
  deriving DecidableEq, Repr

/-- A 256 B line of an owner in its home MSC slice (R196): its way, and whether it holds what HBM does not. -/
structure MscLine where
  own   : Nat
  block : Nat
  way   : Nat
  dirty : Bool
  deriving DecidableEq, Repr

/-- A page walk in progress (R244, R245). -/
structure Walk where
  id      : Nat
  core    : Nat
  owner   : Nat
  pasid   : Nat
  page    : Nat
  left    : Nat
  tlb     : Option Tlb
  waiters : List Nat                         -- requests held until it completes
  deriving DecidableEq, Repr

/-- A store to LOCAL memory or to a device register, until its write-through is acknowledged (R213, R426): its lines, and
whether each missed in the MSC. -/
structure Store where
  id     : Nat
  w      : WaveRef
  owner  : Nat
  kernel : Nat
  core   : Nat
  typ    : MemType
  lines  : List (Nat × Bool)
  left   : Nat
  started : Bool
  nt     : Bool
  merge  : Bool                              -- of a DET group's merge (R330)
  deriving DecidableEq, Repr

/-- Who makes a request that leaves the package: a wave, a DET group's merge (R232), an engine command of a KIND (R378), or the hub. -/
inductive FabSrc | wave | group | engine (kind cmd : Nat) | hub
  deriving DecidableEq, Repr

/-- A PEER, POD or HOST request that has not completed (R219 to R223, R394 to R402). -/
structure FabReq where
  id     : Nat
  src    : FabSrc
  w      : WaveRef
  pc     : Nat                               -- its instruction (R270)
  pend   : Nat                               -- its entry, for a load or an atomic
  core   : Nat
  owner  : Nat
  ctx    : Nat
  kernel : Nat
  typ    : MemType
  acc    : Acc                               -- the lanes of it alone
  pas    : List Nat                          -- and their physical addresses
  line   : Nat
  path   : Nat                               -- 4 while no path is valid
  key    : DcKey
  seq    : Nat
  dep    : Bool
  started : Bool                             -- has left the core
  atHome : Bool
  applied : Bool
  counted : Bool                             -- counts in PATHCNT
  issued : Nat                               -- time of the wall clock (R2)
  tag    : Nat                               -- 4,096 while it has none
  gen    : Nat
  gone   : Bool                              -- has timed out
  bound  : Option Bool                       -- TIMED: admitted, and whether the bound has passed (R401)
  back   : Bool                              -- the reply has arrived
  fill   : Option (List Byte)                -- the line that the reply to a load brings, unless it was invalidated meanwhile
  data   : List Byte                         -- what an engine's or the hub's read of the line has found
  job    : Purpose                           -- what such a read or write is for
  held   : Bool                              -- it may not be sent yet: its translation or its turn is still to come
  behind : Option Nat                        -- the request whose completion it waits for
  own    : List (Nat × Byte)                 -- bytes that the wave's own deterministic stores lay over what a load finds (R232)
  first  : Option Nat                        -- time of its first injection (R388)
  deriving DecidableEq, Repr

structure Mem where
  cells  : List Host.Cell                    -- LOCAL memory at its home
  remote : List Host.Cell                    -- PEER and POD lines at their Hazel home
  host   : List Host.Cell                    -- host memory
  mmio   : List (Nat × Nat × Nat)            -- MMIO writes performed: address, bytes, value (newest first)
  stamps : List Stamp
  mts    : List (Nat × Nat × Nat)            -- owner, slice, MTS
  l2     : List L2Line
  msc    : List MscLine                      -- most recently used first
  l2ways : List (Nat × Nat × Nat)            -- die, slice, disabled way
  qtlb   : List (Nat × Tlb)                  -- quad index in package
  pwc    : List (Nat × Nat × Nat × Nat × Nat × Nat)   -- die, owner, stage, PASID, level, table address + index
  walks  : List Walk
  stores : List Store
  fabs   : List FabReq
  invs   : List (Nat × TlbKind × Nat × Nat × Nat)  -- invalidations not complete: id, kind, va, key, size of the page that goes
  dtags  : List (MemType × Nat × Nat)        -- lines tagged by DET kernels (R234): type, line, kernel
  seed   : List (Nat × HReg)                 -- die × 16,384 + entry
  seedw  : List (Nat × Nat × HReg)           -- writes at the end of their issue cycle: cycle, entry, contents (R181)
  nextId : Nat
  reads  : Nat                               -- MMIO reads performed
  deriving DecidableEq, Repr

/-! ### Barriers, claims, reductions, engines -/

/-- A barrier instance (R325): its phase is a 32-bit number, its open phase's arrivals are those of this package's waves and of other packages'
(package, GROUP, WAVE). -/
structure BarInst where
  ref     : BarRef
  phase   : BitVec 32
  arr     : List WaveRef
  done    : Bool                             -- COMPLETE, release pending
  broken  : Bool
  brk     : Bool                             -- BROKEN in place of IDLE at the release
  swap    : Bool
  last    : List (WaveRef × BitVec 32)
  far     : List (Nat × Nat × Nat)
  clk     : Nat                              -- latest lease clock of the waves that have arrived, and what the latest release passes on (R328)
  rel     : Nat
  deriving DecidableEq, Repr

/-- An XST on its way to a peer's back bank (R336): the writer, its member index, the peer's kernel and GROUP. -/
structure Xst where
  id     : Nat
  w      : WaveRef
  member : Nat
  kernel : Nat
  lin    : Nat
  bytes  : List (Nat × Byte)
  lab    : Label
  deriving DecidableEq, Repr

/-- A claim message (R346). -/
inductive ClaimMsg
  | propose (slot ticket : Nat) (val : Word) (lab : Label) (pkg core pos : Nat) (t : Nat)
  | object (ticket : Nat) (lab : Label) (w : WaveRef) (pend : Nat)
  | query (ticket : Nat) (w : WaveRef) (pend : Nat)
  | read (slot : Nat) (w : WaveRef) (pend : Nat)
  | verdict (late : Bool) (ticket : Nat) (w : WaveRef) (pend : Nat)
  deriving DecidableEq, Repr

structure Proposal where
  ticket : Nat
  val    : Word
  lab    : Label
  t      : Nat
  pkg    : Nat
  core   : Nat
  pos    : Nat
  objected : Bool
  objlab : Label
  deriving DecidableEq, Repr

/-- A claim-store slot in use (R349). -/
structure ClaimSlot where
  n      : Nat
  kernel : Nat
  com    : Option (Word × Nat × Label)
  set    : List Proposal
  fin    : Nat
  deriving DecidableEq, Repr

/-- The outcome of a proposal (R349, R355): 0 while pending. -/
structure ClaimOut where
  kernel : Nat
  ticket : Nat
  code   : Nat
  lab    : Label
  deriving DecidableEq, Repr

/-- How the home answers an objection (R352). -/
inductive ClaimNote | recorded | late | void
  deriving DecidableEq, Repr

/-- What the home does at a claim slot (R359): a proposal arrives, and joins a set that closes at C (with a committed value in the slot or not)
or is LOST; an objection, a query or a
read arrives; a set closes, with the outcome of each ticket; a reply is admitted, to be delivered at a cycle. -/
inductive ClaimEvent
  | arrive (ticket t : Nat) (val : Word) (close : Option (Nat × Bool))
  | object (ticket : Nat) (note : ClaimNote)
  | query (ticket : Nat) (held : Bool)
  | read (core : Nat)
  | close (outs : List (Nat × Nat)) (com : Bool)
  | reply (core code due : Nat)
  | verdict (core ticket : Nat) (note : ClaimNote) (due : Nat)
  | value (core due : Nat)
  deriving DecidableEq, Repr

/-- An event of the home's debug log: its cycle, context, kernel, the kernel's slot number, the claim-store slot and the kernel's start (R359). -/
structure ClaimLog where
  cycle  : Nat
  ctx    : Nat
  kernel : Nat
  slot   : Nat
  store  : Nat
  start  : Nat
  event  : ClaimEvent
  deriving DecidableEq, Repr

/-- A reply of the home that waits at its port: its request, the core and entry it goes to, and what the log takes at its admission. -/
structure ClaimReply where
  req   : Nat
  core  : Nat
  pend  : Nat
  note  : Option ClaimLog
  deriving DecidableEq, Repr

structure Claims where
  slots : List ClaimSlot
  outs  : List ClaimOut                      -- newest first
  held  : List (Nat × Nat × WaveRef × Nat)   -- kernel, ticket, wave, entry of queries that wait
  msgs  : List (Nat × Nat × ClaimMsg)        -- id, kernel, message
  log   : List ClaimLog                      -- newest first (R359)
  replies : List ClaimReply                  -- replies that wait at the home's port
  deriving DecidableEq, Repr

/-- A contribution (R338): of one of this package's waves, or of another package's, for whose result nothing waits here. -/
structure NredC where
  id  : Nat
  w   : WaveRef
  pend : Nat
  kernel : Nat
  job : Option Nat
  pkg : Nat
  grp : Nat
  fn  : RedOp
  n   : Nat
  x   : Word
  lab : Label
  deriving DecidableEq, Repr

structure NredInst where
  kernel : Nat
  job    : Option Nat
  inst   : Nat
  fn     : RedOp
  n      : Nat
  cs     : List NredC
  deriving DecidableEq, Repr

structure TsetJob where
  id   : Nat
  w    : WaveRef
  pend : Nat
  ctx  : Nat
  tid  : Nat
  core : Nat
  got  : EngVal                              -- the descriptor
  lab  : Label
  deriving DecidableEq, Repr

structure MldbJob where
  id   : Nat
  gid  : Nat
  core : Nat
  mac  : Nat
  ent  : Tid
  org  : List Nat
  vals : List EngVal                         -- its reads, in order
  tlab : Label                               -- the tile's label
  left : Nat
  lab  : Label                               -- labels of its operands and its entry, which a failure's trap absorbs (R250)
  deriving DecidableEq, Repr

inductive MmaState | queued | running | saved
  deriving DecidableEq, Repr

/-- A row in a stage of a running MMA: row, stage, and the C being carried. -/
structure MmaRow where
  row   : Nat
  stage : Nat
  c     : List Word
  deriving DecidableEq, Repr

/-- A row of A: its reads in order, and once they are there the elements of every k-block in turn with their block exponents; parts not
yet returned, and whether it is present. -/
structure ARow where
  row   : Nat
  vals  : List EngVal
  codes : List Byte
  bes   : List Int
  lab   : Label
  left  : Nat
  here  : Bool
  deriving DecidableEq, Repr

structure Mma where
  id     : Nat
  gid    : Nat
  core   : Nat
  w      : WaveRef
  seq    : Nat
  issued : Nat
  param  : List Byte
  ent    : Tid
  macs   : List Nat
  tiles  : List Tile
  lab    : Label
  ctxl   : Label
  rows   : Nat
  done   : List Nat                          -- ROWSDONE by stage
  adata  : List ARow
  asked  : Bool                              -- the reads of A were issued
  flight : List MmaRow
  flags  : Flags
  sat    : Bool
  st     : MmaState
  stopping : Bool
  next   : Nat                               -- cycle of the next stage opportunity, while running
  hold   : List Nat                          -- MLDB jobs waited for
  deriving DecidableEq, Repr

structure Copy where
  id    : Nat
  gid   : Nat
  w     : WaveRef
  core  : Nat
  quad  : Nat
  owner : Nat
  ctx   : Nat
  kernel : Nat
  src   : Tid
  dst   : Tid
  org   : List Nat
  q     : Nat
  rel   : Bool
  acq   : Bool
  scope : Scope
  lab   : Label
  ctxl  : Label
  pos   : Nat                                -- elements done
  moving : Bool
  vals  : Option (List EngVal)               -- the reads of the chunk being served, while some are still to come
  vlab  : Label
  deriving DecidableEq, Repr

/-- A segment image to be read into a slot (R83, R158): whether a table follows its words, and the VDECL that it must state. -/
structure ImageJob where
  slot  : Nat
  va    : Nat
  words : Nat
  table : Bool
  vdecl : Option Nat
  deriving DecidableEq, Repr

/-- A load of segment slots by the copy engine (R158, R300, R379), by CFETCH or as a preload of a kernel: the images still to be read,
the chunks and the reads of the first of them so far, and the slots as they will stand. -/
structure Fetch where
  id     : Nat
  quad   : Nat
  owner  : Nat
  core   : Nat
  kernel : Option Nat
  w      : WaveRef
  ctx    : Nat
  det    : Bool
  turn   : Option Nat                        -- its number in the engine's order, once it has entered the engine
  moving : Bool
  asking : Bool                              -- the reads of the chunk being served are still to come
  imgs   : List ImageJob
  chunk  : Nat
  vals   : List EngVal
  lab    : Label
  slots  : List (Nat × Slot)
  deriving DecidableEq, Repr

structure Engines where
  tsets  : List TsetJob
  mldbs  : List MldbJob
  mmas   : List Mma
  copies : List Copy
  fetch  : List Fetch
  ghosts : List Group                        -- groups that ended at once whose issued copies and buffered stores go on (R268)
  deriving DecidableEq, Repr

/-! ### Gate (R252 to R256, R416) -/

structure Policy where
  body  : List Byte
  valid : Bool
  relcnt : Nat
  bytecnt : Nat
  denycnt : Nat
  reason : Nat
  lastowner : Nat
  bucket : List Nat
  deriving DecidableEq, Repr

structure Release where
  id   : Nat
  w    : WaveRef
  pend : Nat
  owner : Nat
  ctx  : Nat
  pol  : Nat
  src  : Nat
  dst  : Nat
  n    : Nat
  al   : Label
  pc   : Nat
  core : Nat
  vals : List EngVal                         -- the source's 8-byte units as read, and the labels of its pages
  lab  : Label
  served : Bool                              -- admitted by the gate
  fail : Option Fail
  deriving DecidableEq, Repr

/-- An LNCH admitted or waiting (R307): its packet as read, the label of the ring write, and once admitted the cycle from which it may
complete and, until its ring write is performed, the packet's index in its queue. -/
structure LnchJob where
  id   : Nat
  w    : WaveRef
  pend : Nat
  ctx  : Nat
  aqi  : Nat
  q    : Nat
  pkt  : EngVal
  lab  : Label
  absorb : Label
  due  : Option Nat
  ring : Option Nat
  deriving DecidableEq, Repr

structure Gate where
  body  : List Byte
  sigs  : List (Nat × List Byte)
  pol   : Nat
  op    : Nat
  busy  : Bool
  done  : Bool
  err   : Nat
  pols  : List (Nat × Policy)
  tenkeys : List (Nat × List Byte)
  rels  : List Release
  lnchs : List LnchJob
  deriving DecidableEq, Repr

/-! ### Link (R386 to R403) -/

inductive PState | down | training | up | degraded | failed
  deriving DecidableEq, Repr

structure Port where
  st     : PState
  enable : Bool
  lanes  : List Nat
  spares : Nat
  aged   : Nat
  txblame : Nat
  hdrop  : Nat
  failed : List Nat                          -- lanes that take no part any more
  bad    : List Nat                          -- working lanes whose failure the retraining is for
  tries  : Nat                               -- attempts of the training that failed (R390)
  ready  : Bool                              -- retrained: its lanes change at the next boundary that allows it (R414)
  replay : List Flit                         -- the link replay buffer: flits sent that the hop has not acknowledged (R389), oldest first
  used   : List (VChan × Nat)                -- the partner's buffers in use, by channel (R392)
  wait   : List Flit                         -- flits that wait for a credit of their channel, oldest first
  wire   : List (Nat × Nat × Byte)           -- the latest flit on the wire: lane, beat and byte (R386, R387)
  deriving DecidableEq, Repr

structure SendDc where
  key  : DcKey
  seq  : Nat
  last : Nat                                     -- time of the wall clock (R2)
  deriving DecidableEq, Repr

structure RecvDc where
  key  : DcKey
  base : Nat
  map  : List Nat
  held : List Flit
  last : Nat                                     -- time of the wall clock (R2)
  deriving DecidableEq, Repr

/-- A packet sent and not acknowledged (R395). -/
structure Sent where
  id   : Nat
  flit : Flit
  store : Nat
  last : Nat                                     -- time of the wall clock (R2)
  deriving DecidableEq, Repr

/-- A group of a pod job's member kernel in another package: its waves that have not ended. -/
structure PodPeer where
  job   : Nat
  pkg   : Nat
  grp   : Nat
  waves : List Nat
  deriving DecidableEq, Repr

structure Link where
  pkgId : Nat
  ports : List Port
  route : List (Nat × Nat × Nat × Bool × Nat)    -- package, path, PORT, VALID, RTBOUND
  send  : List SendDc
  recv  : List RecvDc
  sent  : List Sent
  out   : List Flit                              -- flits put on the ports, newest first
  peers : List PodPeer                           -- live member waves of pod jobs in other packages (R324)
  dropped : Nat
  corrected : Nat
  hdm   : List (Nat × Nat × Nat)                 -- LOCAL ranges exposed to the host (R404): number, base and size
  ide   : List (Nat × Nat)                       -- IDE keys of CXL.io, CXL.cache and CXL.mem, as firmware set them (R404)
  deriving DecidableEq, Repr

/-! ### Reliability (R410 to R419) -/

/-- An event record (R412). -/
structure EventRec where
  seq    : Nat
  cycle  : Nat
  owners : BitVec 8
  mhz    : Nat
  unit   : Nat
  kind   : Nat
  deriving DecidableEq, Repr

structure Rel where
  events : List EventRec                         -- latest 256, newest first
  seq    : Nat
  errors : List (String × Nat × Nat)             -- lifetime record: unit kind, unit, count
  spares : List (Nat × Nat × Nat)                -- KIND, UNIT, spare in use
  frames : List Nat                              -- frames poisoned
  shutdowns : List Nat                           -- cycles of THERMAL_SHUTDOWN
  repairs : List (Nat × Nat)                     -- repairs waiting for a boundary: KIND and UNIT
  moves   : List (Nat × Option Nat × Nat)        -- spare take-overs of slices or MSC ways (R195, R196): owner, die of a slice set, new set
  images : List FirmwareImage                    -- the images that run, at most one for each hub controller (R8, R415)
  rollback : BitVec 32
  wilroth : List Byte
  idkey  : List Byte
  quote  : List Byte                             -- the last quote
  hist   : List (Nat × Nat × Nat)                -- histograms: sensor (a die, or 4 the package's power), bin, seconds
  secs   : Nat                                   -- seconds counted into them
  deriving DecidableEq, Repr

/-! ### Tools (R71, R208, R341) -/

/-- A capture point's copy of a wave (R208), and the ranges of numbers that its instruction's requests took. -/
structure Capture where
  cycle : Nat
  gid   : Nat
  lin   : Nat
  wave  : Nat
  core  : Nat
  pc    : Nat
  w     : Wave
  h     : List HReg
  a     : List Accum
  ocyc  : Nat
  start : Nat                                    -- its kernel's start
  nums  : List (Nat × Nat)
  deriving DecidableEq, Repr

structure Dbg where
  attach : List (Nat × Nat)                      -- package, context
  sel    : Nat
  breaks : List (Nat × Nat)                      -- package and instruction address
  caps   : List Capture                          -- at most 64, oldest first
  drops  : Nat
  cur    : Nat
  stop   : List WaveRef                          -- the waves that stand stopped, the latest stop first
  passed : List WaveRef                          -- waves that go on past the mark at which they stopped
  base   : Option Nat                            -- start of the run's first kernel
  first  : Option (Nat × Nat × Nat)              -- and which it is: its interface, queue and packet index
  starts : List (Nat × Nat)                      -- starts of the groups whose stores were recorded (R408)
  watch  : Bool
  elog   : List (Nat × String)
  saves  : List String
  fwatch : List Nat
  flog   : List (Nat × String)
  out    : List String                           -- what the last command printed
  deriving DecidableEq, Repr

/-- What a symbol of assembly source is relative to: a code segment of a kernel, or a data section (R77, R87). -/
inductive Sec | code (kernel slot : Nat) | const | data
  deriving DecidableEq, Repr

/-- A code segment of an object file: its slot, its words and its liveness table (R83, R87). -/
structure ObjSeg where
  slot   : Nat
  system : Bool
  words  : List Nat
  live   : List Byte
  deriving DecidableEq, Repr

structure ObjKernel where
  name  : String
  entry : Nat                                    -- instruction address (R47)
  segs  : List ObjSeg
  deriving DecidableEq, Repr

/-- A field of a data section that the loader fills with the address of a byte of a section (R77). -/
structure Reloc where
  site : Sec
  off  : Nat
  size : Nat
  dest : Sec
  add  : Int
  deriving DecidableEq, Repr

/-- The records of an object file (R87). -/
structure ObjFile where
  kernels  : List ObjKernel
  const    : List Byte
  data     : List Byte
  relocs   : List Reloc
  tensors  : List (String × Sec × Nat)           -- 64 B at an offset of a section
  launches : List (String × Sec × Nat)
  syms     : List (String × Option Sec × Int)
  deriving DecidableEq, Repr

/-- What lxas has written: objects and listings by file name, and the diagnostics and exit status of its last run (R71, R86, R87). -/
structure Lxas where
  files    : List (String × ObjFile)
  listings : List (String × List String)
  diags    : List String
  exit     : Nat
  deriving DecidableEq, Repr

/-! ### The machine -/

structure Clk where
  cycle    : Nat
  boundary : Nat                                 -- cycle of the next super-frame boundary
  mhz      : Nat
  stopped  : Bool
  trip     : Bool                                -- thermal trip waiting for its boundary
  step     : Option Nat                          -- clock step waiting for its boundary
  ref      : Nat                                 -- the wall-clock reference at refAt, in ticks (R2)
  refAt    : Nat                                 -- cycle of the latest clock step
  deriving DecidableEq, Repr

/-- Who moves next (LOG 1): a wave that issues, a wave that goes on with an instruction it waited in, or the agenda. -/
inductive Turn
  | issue (w : WaveRef)
  | resume (w : WaveRef)
  | event
  deriving DecidableEq, Repr

structure State where
  clk    : Clk
  agenda : List (Nat × Instr)
  turn   : Turn
  free   : Nat
  rota   : Rota
  owners : List Owner
  ctxs   : List Ctx
  hub    : Hub
  groups : List Group
  cores  : List (Nat × Core)
  mem    : Mem
  bars   : List BarInst
  xsts   : List Xst
  nreds  : List NredInst
  ncs    : List NredC
  claims : Claims
  eng    : Engines
  gate   : Gate
  link   : Link
  rel    : Rel
  dbg    : Dbg
  lxas   : Lxas
  deriving DecidableEq, Repr

namespace State

/-! One setter per component; Laws/State.lean says what each leaves alone. -/

def setClk (s : State) (x : Clk) : State := { s with clk := x }
def setAgenda (s : State) (x : List (Nat × Instr)) : State := { s with agenda := x }
def setTurn (s : State) (x : Turn) : State := { s with turn := x }
def setFree (s : State) (x : Nat) : State := { s with free := x }
def setRota (s : State) (x : Rota) : State := { s with rota := x }
def setOwners (s : State) (x : List Owner) : State := { s with owners := x }
def setCtxs (s : State) (x : List Ctx) : State := { s with ctxs := x }
def setHub (s : State) (x : Hub) : State := { s with hub := x }
def setGroups (s : State) (x : List Group) : State := { s with groups := x }
def setCores (s : State) (x : List (Nat × Core)) : State := { s with cores := x }
def setMem (s : State) (x : Mem) : State := { s with mem := x }
def setBars (s : State) (x : List BarInst) : State := { s with bars := x }
def setXsts (s : State) (x : List Xst) : State := { s with xsts := x }
def setNreds (s : State) (x : List NredInst) : State := { s with nreds := x }
def setNcs (s : State) (x : List NredC) : State := { s with ncs := x }
def setClaims (s : State) (x : Claims) : State := { s with claims := x }
def setEng (s : State) (x : Engines) : State := { s with eng := x }
def setGate (s : State) (x : Gate) : State := { s with gate := x }
def setLink (s : State) (x : Link) : State := { s with link := x }
def setRel (s : State) (x : Rel) : State := { s with rel := x }
def setDbg (s : State) (x : Dbg) : State := { s with dbg := x }
def setLxas (s : State) (x : Lxas) : State := { s with lxas := x }

end State

/-! ### Defaults of sparse components, at reset -/

def Tile.none : Tile := ⟨0, 0, [], 0, [], 0⟩
def Slot.empty : Slot := ⟨.empty, [], [], 0, none, 0, 0, 0, 0, none, 0⟩
def Macro.empty : Macro := ⟨Tile.none, none, none⟩

/-- A core at reset: LCLK 0 (R211), DASPLIT 40 banks of L1 (R189), everything else empty. -/
def Core.reset : Core :=
  { lclk := 0, spS := 0, spX := 0, spF := 0, spG := 0, spW := 0, slots := List.replicate 16 Slot.empty,
    macros := List.replicate 4 Macro.empty, score := [], detBuf := [], gens := [], tags := [], l1 := [], cc := [],
    utlb := [], quar := [], mmaSeq := 0, wback := false, errs := 0 }

def CtxDesc.reset : CtxDesc :=
  { aqimask := 0, frames := 0, saveva := 0, hndwords := 0, hndimg := 0, s1root := 0, debug := false, system := false,
    tenant := 0, owner := 0, pasid := 0 }

/-- A context at reset: FREE, every register 0 (R262, R297, R344). -/
def Ctx.reset (id : Nat) : Ctx :=
  { id, desc := .reset, latched := .reset, st := .free, flog := [], flogSeq := 0, segbase := 0, clwin := 0,
    clpod := false, clslots := 0, tids := [], podjob := none }

def Aqi.reset (id : Nat) : Aqi :=
  { id, errbase := 0, errtail := 0, errlog2 := 0, qcount := 0, qtbase := 0, pend := [], pendW1C := 0, errs := 0 }

def QSlot.reset (n : Nat) : QSlot :=
  { n, aqi := 0, q := 0, asel := 0, qsel := 0, st := .free, known := false, ctx := 0, headc := 0, tail := 0, ringbase := 0, ringlog := 0, crbase := 0,
    crlog := 0, ctail := 0, pkt := [], seq := 0, readyAt := 0, idleAt := 0, unmap := false, cur := none, reread := none, vicFrom := none, tok := 0,
    segs := [], line := [] }

/-- A port at reset: DOWN, disabled, lanes 0 to 15 its working set, 16 and 17 its spares (R386, R403). -/
def Port.reset : Port :=
  { st := .down, enable := false, lanes := List.range 16, spares := 2, aged := 0, txblame := 0, hdrop := 0, failed := [], bad := [], tries := 0, ready := false, replay := [],
    used := [], wait := [], wire := [] }

def Tid.reset : Tid :=
  { st := .invalid 1, scratch := false, rank := 0, fmt := 0, se := 0, stride := [], dim := [], be := 0,
    base := 0, lab := 0 }

/-- ROTA_TBL at reset: every slot SYS (R34). -/
def rotaReset : BitVec 64 := 0x9999_9999_9999_9999

/-- The lifetime record and what is fused into the hub, as first powered on (LOG 3). -/
def Rel.reset : Rel :=
  { events := [], seq := 0, errors := [], spares := [], frames := [], shutdowns := [], repairs := [], moves := [], images := [],
    rollback := 0, wilroth := [], idkey := [], quote := [], hist := [], secs := 0 }

/-- The machine right after reset (R419): every rota slot SYS, no owner, every context FREE, every queue slot FREE.
Registers that the spec gives no reset value stand as LOG 3 says. -/
def State.reset : State :=
  { clk := { cycle := 0, boundary := 256, mhz := 3600, stopped := false, trip := false, step := none, ref := 0, refAt := 0 }
    agenda := [], turn := .event, free := 0
    rota := { staged := List.replicate 9 rotaReset, live := List.replicate 9 rotaReset, repair := false, pend := none,
              err := false, errcode := 0, retired := [], insts := [], reqs := [], nextReq := 0, seq := 0, trace := [] }
    owners := [], ctxs := []
    hub := { reads := [], aqis := [], slots := [], pendLim := 200, starve := 100, ageStep := 2, irt := [], msix := [], errRecs := [],
             kernels := [], packets := [], seq := 1, nextId := 1, cmdCtx := 0, cmdOp := 0, rings := [], cmdErr := 0, cmdDone := false, barCtx := 0, barGroup := 0, barLevels := 0,
             barErr := false, barDone := false, status := [] }
    groups := [], cores := []
    mem := { cells := [], remote := [], host := [], mmio := [], stamps := [], mts := [], l2 := [], msc := [], l2ways := [],
             qtlb := [], pwc := [], walks := [], stores := [], fabs := [], invs := [], dtags := [], seed := [], seedw := [], nextId := 1, reads := 0 }
    bars := [], xsts := [], nreds := [], ncs := []
    claims := { slots := [], outs := [], held := [], msgs := [], log := [], replies := [] }
    eng := { tsets := [], mldbs := [], mmas := [], copies := [], fetch := [], ghosts := [] }
    gate := { body := [], sigs := [], pol := 0, op := 0, busy := false, done := false, err := 0, pols := [], tenkeys := [],
              rels := [], lnchs := [] }
    link := { pkgId := 0, ports := List.replicate 18 Port.reset, route := [], send := [], recv := [], sent := [], out := [], peers := [],
              dropped := 0, corrected := 0, hdm := [], ide := [] }
    rel := Rel.reset
    dbg := { attach := [], sel := 0, breaks := [], caps := [], drops := 0, cur := 0, stop := [], passed := [], base := none, first := none, starts := [], watch := false,
             elog := [], saves := [], fwatch := [], flog := [], out := [] }
    lxas := { files := [], listings := [], diags := [], exit := 0 } }

end Sys2Proof.Machine
end

