-- ==== Sys2Proof/Machine/AsmText.lean ====
section
/-! DEFINITION. lxas, the text of its sources: lines, numbers and expressions, macros and included files
(spec/04_assembler.md R72, R73, R76). -/

namespace Sys2Proof.Machine

/-! ### Diagnostics (R86) -/

/-- A diagnostic: the place in the joined source, the file and line, its code and its text. -/
structure Diag where
  pos  : Nat
  file : String
  line : Nat
  code : String
  text : String
  deriving DecidableEq, Repr

def Diag.isWarning (d : Diag) : Bool := d.code.toList.head? == some 'W'

/-- `file:line: error Ennn: text`, or `warning Wnnn`. -/
def Diag.show (werror : Bool) (d : Diag) : String :=
  d.file ++ ":" ++ toString d.line ++ ": " ++ (if d.isWarning && !werror then "warning " else "error ") ++ d.code ++ ": " ++ d.text

/-- What each error code says (R86). -/
def errText : String → String
  | "E101" => "unknown mnemonic, register or special-register name"
  | "E102" => "suffix unknown for the mnemonic, repeated, or .P not last"
  | "E103" => "wrong operand count or kind, or a route where none is allowed"
  | "E104" => "register beyond its declared count"
  | "E105" => "odd register in an even field"
  | "E106" => "immediate, offset or data value out of range or misaligned"
  | "E107" => "branch target outside the segment"
  | "E108" => "segment overflow or fall-off at word 2,047"
  | "E109" => "scope missing, reserved, or not taken by the instruction"
  | "E110" => "time-dependent operation in a .det kernel"
  | "E111" => "undefined symbol, redefinition, or division by zero"
  | "E112" => "directive or instruction in the wrong place, or unknown directive"
  | "E113" => "kernel or launch setting out of range"
  | "E114" => ".include file not found, or nesting deeper than 16"
  | "E115" => "macro error"
  | "E116" => "privileged or non-writable special-register use"
  | _ => "store to constant space"

/-! ### Characters and fields of a line (R72) -/

def isSp (c : Char) : Bool := c == ' ' || c == '\t' || c == '\r'
def trimC (s : List Char) : List Char := ((s.dropWhile isSp).reverse.dropWhile isSp).reverse
def upC (s : List Char) : String := String.ofList (s.map Char.toUpper)
def symStart (c : Char) : Bool := c.isAlpha || c == '_'
def symChar (c : Char) : Bool := c.isAlphanum || c == '_' || c == '.'

/-- The line without its comment, which a string or a character in quotes may hide; the flag says whether a string is open. -/
def stripComment : Bool → List Char → List Char
  | _, [] => []
  | false, ';' :: _ => []
  | false, '/' :: '/' :: _ => []
  | false, '\'' :: x :: '\'' :: r => '\'' :: x :: '\'' :: stripComment false r
  | q, c :: r => c :: stripComment (q != (c == '"')) r

/-- The fields between top-level commas; the flag says whether a string is open. -/
def splitComma : Nat → Bool → List Char → List Char → List (List Char)
  | _, _, acc, [] => [trimC acc.reverse]
  | d, false, acc, '\'' :: x :: '\'' :: r => splitComma d false ('\'' :: x :: '\'' :: acc) r
  | d, false, acc, c :: r =>
    if c == ',' && d == 0 then trimC acc.reverse :: splitComma 0 false [] r
    else if c == '(' || c == '[' then splitComma (d + 1) false (c :: acc) r
    else if c == ')' || c == ']' then splitComma (d - 1) false (c :: acc) r
    else splitComma d (c == '"') (c :: acc) r
  | d, true, acc, c :: r => splitComma d (c != '"') (c :: acc) r

def fieldsOf (s : List Char) : List (List Char) := if (trimC s).isEmpty then [] else splitComma 0 false [] (trimC s)

/-- The texts between occurrences of a character. -/
def splitChar (k : Char) : List Char → List (List Char)
  | [] => [[]]
  | c :: r =>
    if c == k then [] :: splitChar k r
    else match splitChar k r with
      | x :: xs => (c :: x) :: xs
      | [] => [[c]]

/-- A label and what follows it. -/
def splitLabel (s : List Char) : Option String × List Char :=
  let n := s.takeWhile symChar
  if (s.head?.map symStart).getD false && (s.drop n.length).head? == some ':' then
    (some (String.ofList n), (s.drop (n.length + 1)).dropWhile isSp)
  else (none, s)

/-! ### Numbers (R73) -/

def digitVal (c : Char) : Option Nat :=
  if '0' ≤ c ∧ c ≤ '9' then some (c.toNat - 48)
  else if 'a' ≤ c ∧ c ≤ 'f' then some (c.toNat - 87)
  else if 'A' ≤ c ∧ c ≤ 'F' then some (c.toNat - 55)
  else none

/-- Digits of a base; an underscore stands between two digits only. -/
def digitsVal (base : Nat) : Nat → Bool → List Char → Option Nat
  | acc, d, [] => if d then some acc else none
  | acc, d, c :: r =>
    if c == '_' then (if d then digitsVal base acc false r else none)
    else match digitVal c with
      | some v => if v < base then digitsVal base (acc * base + v) true r else none
      | none => none

def numVal : List Char → Option Nat
  | '0' :: 'x' :: r => digitsVal 16 0 false r
  | '0' :: 'b' :: r => digitsVal 2 0 false r
  | r => digitsVal 10 0 false r

/-! ### Expressions (R73) -/

inductive Tok | num (n : Nat) | id (s : String) | op (s : String)
  deriving DecidableEq, Repr

/-- The tokens of an expression; the first argument is more than its length. A character beyond ASCII stands for its code point modulo 256
(LOG 34). -/
def toksOf : Nat → List Char → Option (List Tok)
  | 0, _ => none
  | _, [] => some []
  | f + 1, c :: r =>
    if isSp c then toksOf f r
    else if c.isDigit then
      let n := (c :: r).takeWhile fun x => x.isAlphanum || x == '_'
      match numVal n, toksOf f ((c :: r).drop n.length) with
      | some v, some ts => some (.num v :: ts)
      | _, _ => none
    else if symStart c then
      let n := (c :: r).takeWhile symChar
      (toksOf f ((c :: r).drop n.length)).map (.id (String.ofList n) :: ·)
    else match c, r with
      | '\'', x :: '\'' :: r => (toksOf f r).map (.num (x.toNat % 256) :: ·)
      | '<', '<' :: r => (toksOf f r).map (.op "<<" :: ·)
      | '>', '>' :: r => (toksOf f r).map (.op ">>" :: ·)
      | c, r => if "()+-*/%&^|~".toList.contains c then (toksOf f r).map (.op (String.ofList [c]) :: ·) else none

/-- A value: a number, what it is relative to, and whether a symbol in it is not known. -/
structure EV where
  n    : Int
  base : Option Sec := none
  unk  : Bool := false
  deriving DecidableEq, Repr

/-- 64-bit two's complement. -/
def wrap64 (i : Int) : Int := (BitVec.ofInt 64 i).toInt

/-- Addresses in data sections are known only to the loader; instruction addresses are numbers (R77). -/
def EV.loose (v : EV) : Bool :=
  match v.base with
  | some (.code _ _) => false
  | b => b.isSome

/-- One operator of two operands. A shift count is taken as an unsigned 64-bit number, and a remainder has the sign of its dividend
(LOG 34). -/
def binOp (o : String) (a b : EV) : Except String EV :=
  let unk := a.unk || b.unk
  let num (i : Int) : Except String EV := .ok { n := wrap64 i, unk }
  let bits (f : BitVec 64 → BitVec 64 → BitVec 64) : Except String EV :=
    .ok { n := (f (BitVec.ofInt 64 a.n) (BitVec.ofInt 64 b.n)).toInt, unk }
  if a.loose || b.loose then
    if o == "+" && !(a.loose && b.loose) then .ok { n := wrap64 (a.n + b.n), base := if a.loose then a.base else b.base, unk }
    else if o == "-" && a.base == b.base then num (a.n - b.n)
    else if o == "-" && !b.loose then .ok { n := wrap64 (a.n - b.n), base := a.base, unk }
    else .error "E103"
  else match o with
    | "+" => .ok { n := wrap64 (a.n + b.n), base := if a.base.isSome then a.base else b.base, unk }
    | "-" => .ok { n := wrap64 (a.n - b.n), base := if a.base == b.base then none else a.base, unk }
    | "*" => num (a.n * b.n)
    | "/" => if b.n = 0 then (if unk then num 0 else .error "E111") else num (a.n.tdiv b.n)
    | "%" => if b.n = 0 then (if unk then num 0 else .error "E111") else num (a.n.tmod b.n)
    | "<<" => bits fun x y => x <<< y.toNat
    | ">>" => bits fun x y => x.sshiftRight y.toNat
    | "&" => bits fun x y => x &&& y
    | "^" => bits fun x y => x ^^^ y
    | _ => bits fun x y => x ||| y

/-- The binary operators of a level, loosest first. -/
def levelOps : Nat → List String
  | 0 => ["|"]
  | 1 => ["^"]
  | 2 => ["&"]
  | 3 => ["<<", ">>"]
  | 4 => ["+", "-"]
  | _ => ["*", "/", "%"]

def unaryOp (o : String) (a : EV) : Except String EV :=
  if a.loose then .error "E103"
  else .ok { n := match o with
    | "-" => wrap64 (-a.n)
    | "~" => -a.n - 1
    | "lo" => a.n % 2 ^ 16
    | _ => a.n / 2 ^ 16 % 2 ^ 16, unk := a.unk }

/-- What the parser is at: an operand, the operators of a level, or the rest of a level after its left operand. -/
inductive ExpAt | prim | level (l : Nat) | rest (l : Nat) (left : EV)

/-- Parse and evaluate: the first argument bounds the depth, `look` gives the symbols. A number of 2^64 or more is E106 (LOG 34). -/
def evalAt (look : String → Option EV) : Nat → ExpAt → List Tok → Except String (EV × List Tok)
  | 0, _, _ => .error "E103"
  | f + 1, .level l, ts =>
    match evalAt look f (if l = 5 then .prim else .level (l + 1)) ts with
    | .ok (v, ts) => evalAt look f (.rest l v) ts
    | .error e => .error e
  | f + 1, .rest l v, ts =>
    match ts with
    | .op o :: r =>
      if (levelOps l).contains o then
        match evalAt look f (if l = 5 then .prim else .level (l + 1)) r with
        | .ok (w, ts) => match binOp o v w with
          | .ok x => evalAt look f (.rest l x) ts
          | .error e => .error e
        | .error e => .error e
      else .ok (v, ts)
    | ts => .ok (v, ts)
  | f + 1, .prim, ts =>
    let paren (ts : List Tok) : Except String (EV × List Tok) :=
      match evalAt look f (.level 0) ts with
      | .ok (v, .op ")" :: r) => .ok (v, r)
      | .ok _ => .error "E103"
      | .error e => .error e
    let unary (o : String) (x : Except String (EV × List Tok)) : Except String (EV × List Tok) :=
      match x with
      | .ok (v, r) => (unaryOp o v).map fun u => (u, r)
      | .error e => .error e
    match ts with
    | .num n :: r => if n < 2 ^ 64 then .ok ({ n := wrap64 n }, r) else .error "E106"
    | .op "(" :: r => paren r
    | .op "-" :: r => unary "-" (evalAt look f .prim r)
    | .op "~" :: r => unary "~" (evalAt look f .prim r)
    | .id "lo" :: .op "(" :: r => unary "lo" (paren r)
    | .id "hi" :: .op "(" :: r => unary "hi" (paren r)
    | .id s :: r => .ok ((look s).getD { n := 0, unk := true }, r)
    | _ => .error "E103"

/-- The value of an expression's text. -/
def evalText (look : String → Option EV) (s : List Char) : Except String EV :=
  match toksOf (s.length + 1) s with
  | none => .error "E103"
  | some ts => match evalAt look (10 * ts.length + 10) (.level 0) ts with
    | .ok (v, []) => .ok v
    | .ok _ => .error "E103"
    | .error e => .error e

/-! ### Decimal numbers of `.f32` and `.lt8` (R77) -/

/-- A decimal number as sign, digits and power of ten. -/
def decimalVal (s : List Char) : Option (Bool × Nat × Int) :=
  let (neg, s) := match s with
    | '-' :: r => (true, r)
    | '+' :: r => (false, r)
    | r => (false, r)
  let mant := s.takeWhile fun c => c != 'e' && c != 'E'
  let ex := s.drop (mant.length + 1)
  let int := mant.takeWhile (· != '.')
  let frac := mant.drop (int.length + 1)
  let exp : Option Int := if s.length = mant.length then some 0 else match ex with
    | '-' :: r => (digitsVal 10 0 false r).map fun n => -(n : Int)
    | '+' :: r => (digitsVal 10 0 false r).map fun n => (n : Int)
    | r => (digitsVal 10 0 false r).map fun n => (n : Int)
  match digitsVal 10 0 false (int ++ frac), exp with
  | some n, some e => if e.natAbs ≤ 5000 then some (neg, n, e - (frac.length : Int)) else none
  | _, _ => none

/-! ### Statements, included files and macros (R72, R76, R77) -/

/-- A line of source as it is read. -/
structure RawLine where
  file : String
  line : Nat
  text : List Char
  mac  : Bool
  deriving DecidableEq, Repr

/-- A statement: its label, its mnemonic or directive as written, and its operands. -/
structure Stmt where
  pos   : Nat
  file  : String
  line  : Nat
  mac   : Bool
  label : Option String
  head  : List Char
  ops   : List (List Char)
  deriving DecidableEq, Repr

structure MacroDef where
  name   : String
  params : List String
  body   : List RawLine
  deriving DecidableEq, Repr

/-- The reading of the source: macros so far, one under definition, expansions made, statements (last first), diagnostics. -/
structure Reading where
  macros : List MacroDef
  cur    : Option MacroDef
  count  : Nat
  out    : List Stmt
  diags  : List Diag
  ended  : Bool
  deriving DecidableEq, Repr

def Reading.err (e : Reading) (r : RawLine) (code : String) : Reading :=
  { e with diags := e.diags ++ [⟨e.out.length, r.file, r.line, code, errText code⟩] }

/-- A body line with its arguments in place: `%%` is the expansion's number, `%p` the text of argument p. -/
def substMacro (n : Nat) (args : List (String × List Char)) : Nat → List Char → List Char
  | 0, s => s
  | _, [] => []
  | f + 1, '%' :: '%' :: r => (toString n).toList ++ substMacro n args f r
  | f + 1, '%' :: r =>
    -- the longest parameter name that the text goes on with
    let w := r.takeWhile symChar
    match ((List.range w.length).map (w.length - ·)).findSome? fun k => (args.lookup (String.ofList (w.take k))).map fun t => (k, t) with
    | some (k, t) => t ++ substMacro n args f (r.drop k)
    | none => '%' :: substMacro n args f r
  | f + 1, c :: r => c :: substMacro n args f r

/-- The directory of a file name, with its slash. -/
def dirOf (file : String) : String := String.ofList (file.toList.reverse.dropWhile (· != '/')).reverse

def rawLines (file : String) (mac : Bool) (ls : List String) : List RawLine := ls.mapIdx fun k t => ⟨file, k + 1, t.toList, mac⟩

def quoted (s : List Char) : Option String :=
  match s with
  | '"' :: r => if r.reverse.head? == some '"' then some (String.ofList (r.reverse.drop 1).reverse) else none
  | _ => none

/-- The directives of R77. -/
def directives : List String :=
  [".KERNEL", ".SEGMENT", ".REGS", ".HREGS", ".SCRATCH", ".FIFO", ".XCHG", ".DET", ".CONST", ".DATA", ".TENSOR", ".EQU", ".MACRO", ".ENDM",
   ".ALIGN", ".BYTE", ".HALF", ".WORD", ".DWORD", ".F32", ".LT8", ".HV", ".LIVE", ".LAUNCH", ".INCLUDE", ".END"]

/-- What reading needs from outside: the files there are, the search path, the mnemonics. -/
structure ReadCtx where
  fs       : List (String × List String)
  dirs     : List String
  mnemonic : String → Bool

/-- Open a macro definition. -/
def openMacro (c : ReadCtx) (r : RawLine) (rest : List Char) (e : Reading) : Reading :=
  let name := String.ofList (rest.takeWhile symChar)
  let params := (fieldsOf (rest.drop name.length)).map String.ofList
  let e := if c.mnemonic (upC name.toList) || directives.contains (upC name.toList) || !(name.toList.head?.map symStart).getD false then e.err r "E115"
    else e
  { e with cur := some ⟨name, params, []⟩ }

/-- One line. Macro names are case-sensitive, and of two macros of one name the first stands; a label on the line of an `.endm` is dropped
(LOG 34). `rec` reads the lines that a macro or an included file puts in its place. -/
def readLine (c : ReadCtx) (rec : Nat → Nat → List RawLine → Reading → Reading) (md inc : Nat) (r : RawLine) (e : Reading) : Reading :=
  let text := trimC (stripComment false r.text)
  let (label, body) := splitLabel text
  let head := body.takeWhile fun x => !isSp x
  let rest := trimC (body.drop head.length)
  let dir := upC head
  let labelOnly (e : Reading) : Reading :=
    if label.isSome then { e with out := ⟨e.out.length, r.file, r.line, r.mac, label, [], []⟩ :: e.out } else e
  if e.ended then e
  else if r.text.length > 1024 then e.err r "E103"
  else match e.cur with
  | some m =>
    if dir == ".ENDM" then { (if rest.isEmpty then e else e.err r "E103") with cur := none, macros := e.macros ++ [m] }
    else if dir == ".MACRO" then e.err r "E115"
    else { e with cur := some { m with body := m.body ++ [r] } }
  | none =>
    if dir == ".MACRO" then openMacro c r rest (labelOnly e)
    else if dir == ".ENDM" then e.err r "E115"
    else if dir == ".END" then { (if rest.isEmpty then labelOnly e else (labelOnly e).err r "E103") with ended := true }
    else if dir == ".INCLUDE" then
      let e := labelOnly e
      match quoted rest with
      | none => e.err r "E103"
      | some f =>
        match ((dirOf r.file :: c.dirs.map (· ++ "/")).map (· ++ f)).findSome? fun p => (c.fs.lookup p).map fun ls => (p, ls) with
        | none => e.err r "E114"
        | some (p, ls) => if inc ≥ 16 then e.err r "E114" else rec md (inc + 1) (rawLines p r.mac ls) e
    else match e.macros.find? fun m => m.name == String.ofList head with
      | some m =>
        let args := fieldsOf rest
        let e := labelOnly e
        if args.length ≠ m.params.length then e.err r "E115"
        else if md ≥ 64 then e.err r "E115"
        else
          let body := m.body.map fun b =>
            ({ r with text := substMacro e.count (m.params.zip args) (b.text.length + 1) b.text, mac := true } : RawLine)
          rec (md + 1) inc body { e with count := e.count + 1 }
      | none =>
        if head.isEmpty then labelOnly e
        else { e with out := ⟨e.out.length, r.file, r.line, r.mac, label, head, fieldsOf rest⟩ :: e.out }

/-- Read lines; the first argument bounds the nesting. -/
def readLines (c : ReadCtx) : Nat → Nat → Nat → List RawLine → Reading → Reading
  | 0, _, _, _, e => e
  | f + 1, md, inc, ls, e => ls.foldl (fun e r => readLine c (readLines c f) md inc r e) e

/-- The statements of the sources, joined in order. -/
def readSource (c : ReadCtx) (srcs : List (String × List String)) : List Stmt × List Diag :=
  let ls := srcs.flatMap fun x => rawLines x.1 false x.2
  let e := readLines c 82 0 0 ls ⟨[], none, 0, [], [], false⟩
  let e := match e.cur, ls.reverse.head? with
    | some _, some r => e.err r "E115"
    | _, _ => e
  (e.out.reverse, e.diags)

end Sys2Proof.Machine
end

