-- ==== Sys2Proof/Machine/AsmInstr.lean ====
section
/-! DEFINITION. lxas, one instruction: its suffixes, operands and fields, and the registers it reads and writes
(spec/04_assembler.md R74, R75, R81; the written forms stand at each instruction's entry). -/

namespace Sys2Proof.Machine

/-! ### Suffixes (R74) -/

def routeNames : List (String × Route) :=
  [("BFLY1", .bfly1), ("BFLY2", .bfly2), ("BFLY4", .bfly4), ("BFLY8", .bfly8), ("ROT8", .rot8), ("REV", .rev), ("REP", .rep)]
def fpNames : List (String × FpType) := [("F32", .f32), ("F16X2", .f16x2), ("BF16X2", .bf16x2)]
def condINames : List (String × CondI) :=
  [("EQ", .eq), ("NE", .ne), ("LT", .lt), ("LE", .le), ("LTN", .ltn), ("LEN", .len), ("BITS", .bits)]
def condFNames : List (String × CondF) := [("EQ", .eq), ("NE", .ne), ("LT", .lt), ("LE", .le), ("UN", .un), ("ORD", .ord)]
def condSNames : List (String × CondS) := [("EQ", .eq), ("NE", .ne), ("LT", .lt), ("LE", .le), ("LTN", .ltn), ("LEN", .len)]
def redNames : List (String × RedOp) :=
  [("ADD", .add), ("FADD", .fadd), ("MIN", .min), ("MAX", .max), ("MINN", .minn), ("MAXN", .maxn), ("AND", .and), ("OR", .or)]
def atomNames : List (String × AtomOp) :=
  [("ADD", .add), ("FADD", .fadd), ("MIN", .min), ("MAX", .max), ("MINN", .minn), ("MAXN", .maxn), ("FMIN", .fmin), ("FMAX", .fmax)]
def bitNames : List (String × BitOp) := [("AND", .and), ("OR", .or), ("XOR", .xor), ("EXCH", .exch)]
def satomNames : List (String × SatomOp) :=
  atomNames.map (fun x => (x.1, .arith x.2)) ++ bitNames.map (fun x => (x.1, .bits x.2))
def sizeNames : List (String × Size) := [("B", .b), ("H", .h), ("W", .w), ("D", .d)]
def spaceNames : List (String × Space) := [("G", .global), ("S", .scratch), ("K", .const)]
def scopeNames : List (String × Scope) :=
  [("WAVE", .wave), ("GRP", .grp), ("QUAD", .quad), ("DIE", .die), ("PKG", .pkg), ("POD", .pod), ("SYS", .sys)]
def byteNames : List (String × Fin 4) := [("B0", 0), ("B1", 1), ("B2", 2), ("B3", 3)]
def halfNames : List (String × Bool) := [("LO", false), ("HI", true)]
def taperedNames : List (String × Tapered) := [("LT8", .lt8), ("LT6", .lt6)]
def barKinds : List (String × BarKind) := [("ARRIVE", .arrive), ("WAIT", .wait), ("BOTH", .both), ("SWAP", .swap)]
def tlbKinds : List (String × TlbKind) := [("PAGE", .page), ("PASID", .pasid), ("OWNER", .owner), ("ALL", .all)]
def tieNames : List (String × TiePolicy) := [("ZERO", .zero), ("ONE", .one), ("REG", .reg)]
def mqryNames : List (String × MqryWhat) :=
  [("MSTAT", .mstat), ("ESTAT", .estat), ("EADDRL", .eaddrl), ("EADDRH", .eaddrh), ("COPIES", .copies)]
def laneNames : List (String × LaneReg) := [("LANE", .lane), ("GLANE", .glane), ("PCV", .pcv), ("TRAPPCV", .trappcv), ("RNGCTR", .rngctr)]

/-- Kind suffixes of FENCE: the letters L, S, A, E in that order (R225). -/
def fenceKinds : List (String × Kinds) :=
  ((List.range 16).filter (· > 0)).map fun n =>
    let k : Kinds := { l := n % 2 == 1, s := n / 2 % 2 == 1, a := n / 4 % 2 == 1, e := n / 8 % 2 == 1 }
    ((if k.l then "L" else "") ++ (if k.s then "S" else "") ++ (if k.a then "A" else "") ++ (if k.e then "E" else ""), k)

/-- Names of the uniform special registers (R67). -/
def specialNames : List (String × SpecialReg) :=
  [("OCYCL", .ocycl), ("OCYCH", .ocych), ("OWNER", .owner), ("OMODE", .omode), ("RPHASE", .rphase),
   ("SLOTMAP_MESH", .slotmap .mesh), ("SLOTMAP_D2D", .slotmap .d2d), ("SLOTMAP_MSC", .slotmap .msc), ("SLOTMAP_HBM", .slotmap .hbm),
   ("SLOTMAP_COPY", .slotmap .copy), ("SLOTMAP_FAB", .slotmap .fab), ("SLOTMAP_HOST", .slotmap .host), ("SLOTMAP_WALK", .slotmap .walk),
   ("SLOTMAP_CLAIM", .slotmap .claim),
   ("WAVE", .wave), ("GROUP", .group), ("CLUSTER", .cluster), ("GRIDX", .gridx), ("GRIDY", .gridy), ("GRIDZ", .gridz),
   ("NGROUPS", .ngroups), ("WAVES", .waves), ("RLANE", .rlane), ("FFLAGS", .fflags), ("DETSTAT", .detstat), ("LCLKL", .lclkl),
   ("LCLKH", .lclkh), ("CLWIN", .clwin), ("TRAPCAUSE", .trapcause), ("TRAPPC", .trappc), ("TRAPADDRL", .trapaddrl),
   ("TRAPADDRH", .trapaddrh), ("PATHCNT0", .pathcnt 0), ("PATHCNT1", .pathcnt 1), ("PATHCNT2", .pathcnt 2), ("PATHCNT3", .pathcnt 3),
   ("OUTSTND", .outstnd), ("CTXLBL", .ctxlbl)]

/-! ### Mnemonics of one written form -/

/-- `MNEMONIC vd, va, vb[:route]`. -/
def formB : List (String × (Bool → Reg → Reg → Reg → Route → Instr)) :=
  [("VADD", .vadd), ("VSUB", .vsub), ("VADDS", .vadds), ("VSUBS", .vsubs), ("VADDSN", .vaddsn), ("VSUBSN", .vsubsn), ("VABSD", .vabsd),
   ("VMUL", .vmul), ("VMULH", .vmulh), ("VMULHN", .vmulhn), ("VMAD", .vmad), ("VDOT4", .vdot4), ("VDOT4N", .vdot4n), ("VMIN", .vmin),
   ("VMAX", .vmax), ("VMINN", .vminn), ("VMAXN", .vmaxn), ("VAND", .vand), ("VOR", .vor), ("VXOR", .vxor), ("VANDN", .vandn),
   ("VSHL", .vshl), ("VSHR", .vshr), ("VSRA", .vsra), ("VROTL", .vrotl), ("VFDIV", .vfdiv), ("VPERM", .vperm)]
/-- `MNEMONIC vd, vb[:route]`. -/
def formU : List (String × (Bool → Reg → Reg → Route → Instr)) :=
  [("VABS", .vabs), ("VNEG", .vneg), ("VNOT", .vnot), ("VMOV", .vmov), ("VPOPC", .vpopc), ("VCLZ", .vclz), ("VBREV", .vbrev),
   ("VFABS", .vfabs), ("VFNEG", .vfneg), ("VFCLASS", .vfclass), ("VFRNDN", .vfrndn), ("VFRNDZ", .vfrndz), ("VFRNDD", .vfrndd),
   ("VFRNDU", .vfrndu), ("VRCP", .vrcp), ("VRSQ", .vrsq), ("VSQRT", .vsqrt), ("VEXP2", .vexp2), ("VLOG2", .vlog2), ("VSIN", .vsin),
   ("VCOS", .vcos), ("VTANH", .vtanh)]
/-- `MNEMONIC.type vd, va, vb[:route]`. -/
def formFp : List (String × (Bool → FpType → Reg → Reg → Reg → Route → Instr)) :=
  [("VFADD", .vfadd), ("VFSUB", .vfsub), ("VFMUL", .vfmul), ("VFMA", .vfma), ("VFNMA", .vfnma), ("VFMS", .vfms), ("VFNMS", .vfnms),
   ("VFMIN", .vfmin), ("VFMAX", .vfmax)]
/-- Immediate forms of the V and U sets: the LIT consumer, whether zero-extended, and the short form. -/
def formI : List (String × LitOp × Bool × (Bool → Reg → Reg → BitVec 12 → Instr)) :=
  [("VADDI", .vaddi, false, .vaddi), ("VANDI", .vandi, true, .vandi), ("VORI", .vori, true, .vori), ("VXORI", .vxori, true, .vxori),
   ("SADDI", .saddi, false, .saddi), ("SANDI", .sandi, true, .sandi), ("SORI", .sori, true, .sori), ("SXORI", .sxori, true, .sxori)]
def formShift : List (String × (Bool → Reg → Reg → Fin 32 → Instr)) :=
  [("VSHLI", .vshli), ("VSHRI", .vshri), ("VSRAI", .vsrai), ("SSHLI", .sshli), ("SSHRI", .sshri), ("SSRAI", .ssrai)]
/-- `MNEMONIC sd, sa, sb`. -/
def formS : List (String × (Bool → Reg → Reg → Reg → Instr)) :=
  [("SADD", .sadd), ("SSUB", .ssub), ("SMUL", .smul), ("SMULH", .smulh), ("SMULHN", .smulhn), ("SAND", .sand), ("SOR", .sor),
   ("SXOR", .sxor), ("SSHL", .sshl), ("SSHR", .sshr), ("SSRA", .ssra), ("SMIN", .smin), ("SMAX", .smax), ("SMINN", .sminn),
   ("SMAXN", .smaxn), ("SROTL", .srotl), ("CLAIM", .claim)]
/-- `MNEMONIC sd, sa`. -/
def formS2 : List (String × (Bool → Reg → Reg → Instr)) := [("SCLZ", .sclz), ("SPOPC", .spopc), ("CLWAIT", .clwait), ("CLRD", .clrd), ("CWAIT", .cwait)]
/-- `MNEMONIC sd, ma`. -/
def formM : List (String × (Bool → Reg → MReg → Instr)) :=
  [("MRDL", .mrdl), ("MRDH", .mrdh), ("MPOP", .mpop), ("MFFS", .mffs), ("VANY", .vany), ("VALL", .vall)]
def formM3 : List (String × (Bool → MReg → MReg → MReg → Instr)) := [("MAND", .mand), ("MOR", .mor), ("MXOR", .mxor)]
/-- `MNEMONIC sa`. -/
def formS1 : List (String × (Bool → Reg → Instr)) := [("RET", .ret), ("OBJECT", .object), ("MMA", .mma), ("RNGKEY", .rngkey)]
def form0 : List (String × (Bool → Instr)) := [("EXIT", .exit), ("YIELD", .yield), ("NOP", .nop), ("RTE", .rte)]

/-! ### Which suffixes a mnemonic takes -/

/-- The suffix groups of a mnemonic: a word takes one suffix of each at most. -/
def suffixGroups (mn : String) : Option (List (List String)) :=
  let names {α : Type} (t : List (String × α)) : List String := t.map (·.1)
  if (formB.lookup mn).isSome || (formU.lookup mn).isSome || (formI.lookup mn).isSome || (formShift.lookup mn).isSome
      || (formS.lookup mn).isSome || (formS2.lookup mn).isSome || (formM.lookup mn).isSome || (formM3.lookup mn).isSome
      || (formS1.lookup mn).isSome || (form0.lookup mn).isSome then some []
  else if (formFp.lookup mn).isSome then some [names fpNames]
  else match mn with
    | "VBCAST" | "VSREG" | "VLI" | "VSEL" | "VCOMP" | "VEXPD" | "VSLUP" | "VSLDN" | "VMOVX" | "VMOVXW" | "SLIL" | "SLIH" | "SSEL" | "SRD"
    | "SWR" | "MWR" | "MNOT" | "BR" | "BRZ" | "JMP" | "JMPF" | "CALL" | "VBR" | "CFETCH" | "CFWAIT" | "TRAP" | "BKPT" | "TSET" | "MLDB"
    | "LNCH" | "RELEASE" | "VLANE" | "HLD" | "HST" | "HBIND" | "HPERM" | "HCOPY" | "HBUND" | "HCLR" | "HTHR" | "HSIM" | "HNEAR" | "HWR"
    | "HRD" => some []
    | "VCVT" => some [["F2I", "F2IZ", "I2F", "N2F", "F2H", "H2F", "F2B", "B2F"], names halfNames]
    | "VPKT" | "VUPKT" => some [names taperedNames, names byteNames]
    | "VCVTI" => some [["NB", "NH", "SB", "ZB", "SH", "ZH"], names byteNames, names halfNames]
    | "VCMPI" => some [names condINames]
    | "VCMPF" => some [names condFNames]
    | "SSET" => some [names condSNames]
    | "VRNG" => some [["F32"]]
    | "VSCAN" | "VRED" | "NRED" => some [names redNames]
    | "VLD" => some [names sizeNames, names spaceNames, ["NT"]]
    | "VST" => some [names sizeNames, names spaceNames, ["NT"], ["OF"]]
    | "XST" => some [names sizeNames]
    | "SLD" => some [names sizeNames, names spaceNames]
    | "SST" => some [names sizeNames, names spaceNames, ["OF"]]
    | "VATOM" | "VAGG" => some [names atomNames, names scopeNames, ["G", "S"]]
    | "VATOMB" => some [names bitNames, names scopeNames, ["G", "S"]]
    | "VCAS" => some [names scopeNames, ["G", "S"]]
    | "SATOM" => some [names satomNames, names scopeNames, ["G"]]
    | "FENCE" | "FENCEA" => some [names scopeNames, names fenceKinds]
    | "BAR" => some [names barKinds]
    | "FRAMEW" => some [["UNTIL"]]
    | "MQRY" => some [["CLR"]]
    | "CPY" => some [["ACQ"], ["REL"], names scopeNames]
    | "LBLRD" => some [["S", "V", "M", "H", "A"]]
    | "PROBE" => some [["PA"]]
    | "TLBINV" => some [names tlbKinds]
    | "XSET" => some [["VAL", "ADD"]]
    | "HTIE" => some [names tieNames]
    | _ => none

def isMnemonic (mn : String) : Bool := (suffixGroups mn).isSome

/-- The first thing wrong with the suffixes of a word. -/
def suffixError (mn : String) (groups : List (List String)) (sf : List String) : Option String :=
  sf.findSome? fun t =>
    if groups.any (·.contains t) then none
    else if t == "K" && ["VST", "XST", "SST", "VATOM", "VATOMB", "VAGG", "VCAS", "SATOM"].contains mn then some "E117"
    else if (scopeNames.lookup t).isSome then some "E109"
    else some "E102"

/-- Two suffixes of one group. -/
def suffixTwice (groups : List (List String)) (sf : List String) : Bool :=
  sf.length != sf.eraseDups.length || groups.any fun g => (sf.filter (g.contains ·)).length > 1

/-- The suffix of a group that the word holds. -/
def pick {α : Type} (t : List (String × α)) (sf : List String) : Option α := sf.findSome? fun x => t.lookup x

/-! ### Operands (R74) -/

inductive Opd
  | v (n : Reg) (r : Option Route) | s (n : Reg) | m (n : MReg) | x (n : Fin 4) | h (n : Fin 16) | a (n : Fin 4)
  | memV (base : Option Reg) (idx : Reg)
  | memS (base : Reg) (off : List Char)
  | text (t : List Char)
  | bad (code : String)
  deriving DecidableEq, Repr

/-- A register's letter and number. -/
def regName (t : List Char) : Option (Char × Nat) :=
  match t with
  | k :: d =>
    let k := k.toLower
    if "vsmxha".toList.contains k && !d.isEmpty && d.all Char.isDigit then (digitsVal 10 0 false d).map fun n => (k, n) else none
  | [] => none

def regOpd (k : Char) (n : Nat) : Opd :=
  let lim (m : Nat) (o : Opd) : Opd := if n < m then o else .bad "E101"
  if k == 'v' then lim 64 (.v (Fin.ofNat 64 n) none)
  else if k == 's' then lim 64 (.s (Fin.ofNat 64 n))
  else if k == 'm' then lim 8 (.m (Fin.ofNat 8 n))
  else if k == 'x' then lim 4 (.x (Fin.ofNat 4 n))
  else if k == 'h' then lim 16 (.h (Fin.ofNat 16 n))
  else lim 4 (.a (Fin.ofNat 4 n))

/-- `[sN+vM]`, `[vM]`, `[sN]`, `[sN+e]`. -/
def memOpd (inner : List Char) : Opd :=
  let b := trimC (inner.takeWhile fun c => c != '+' && c != '-')
  let rest := inner.dropWhile fun c => c != '+' && c != '-'
  match (regName b).map fun x => regOpd x.1 x.2 with
  | some (.v n _) => if rest.isEmpty then .memV none n else .bad "E103"
  | some (.s n) =>
    match rest with
    | [] => .memS n []
    | '+' :: e => match (regName (trimC e)).map fun x => regOpd x.1 x.2 with
      | some (.v k _) => .memV (some n) k
      | some (.bad c) => .bad c
      | some _ => .bad "E103"
      | none => .memS n e
    | e => .memS n e
  | some (.bad c) => .bad c
  | _ => .bad "E103"

def parseOpd (t : List Char) : Opd :=
  match t with
  | '[' :: r => if r.reverse.head? == some ']' then memOpd (trimC (r.reverse.drop 1).reverse) else .bad "E103"
  | _ =>
    let name := t.takeWhile (· != ':')
    match regName (trimC name) with
    | none => .text t
    | some (k, n) =>
      if name.length = t.length then regOpd k n
      else match regOpd k n, routeNames.lookup (upC (trimC (t.drop (name.length + 1)))) with
        | .v n _, some r => .v n (some r)
        | .bad c, _ => .bad c
        | _, _ => .bad "E103"

/-! ### Building an instruction -/

/-- Where an instruction stands: its kernel, slot and word, whether its immediate needs LIT already, and what is asked of it. -/
structure AsmAt where
  look   : String → Option EV
  kernel : Nat
  slot   : Nat
  word   : Nat
  lit    : Bool
  noLit  : Bool
  system : Bool
  final  : Bool

/-- The value of a text; in the last pass every symbol is known. -/
def AsmAt.eval (c : AsmAt) (t : List Char) : Except String EV :=
  match evalText c.look t with
  | .ok v => if v.unk && c.final then .error "E111" else .ok v
  | .error e => .error e

/-- A text's number; a label in a data section gives its offset there (LOG 34). -/
def AsmAt.num (c : AsmAt) (t : List Char) : Except String Int := (c.eval t).map (·.n)

/-- Whether a symbol of a text has no value yet. -/
def AsmAt.open_ (c : AsmAt) (t : List Char) : Bool :=
  match evalText c.look t with
  | .ok v => v.unk
  | .error _ => false

/-- A constant of n values, 0 to n − 1. -/
def AsmAt.const (c : AsmAt) (n : Nat) (t : List Char) : Except String Nat :=
  match c.num t with
  | .ok i => if 0 ≤ i ∧ i < n then .ok i.toNat else .error "E106"
  | .error e => .error e

/-- An immediate of a LIT consumer (R75): imm12 when it fits, a LIT group when it does not. -/
def AsmAt.imm (c : AsmAt) (p : Bool) (op : LitOp) (zero : Bool) (d a : Reg) (short : BitVec 12 → Instr) (t : List Char) : Except String Instr :=
  match c.num t with
  | .error e => .error e
  | .ok i =>
    let fits := if zero then decide (0 ≤ i ∧ i ≤ 4095) else decide (-2048 ≤ i ∧ i ≤ 2047)
    if (fits || c.open_ t) && !c.lit then .ok (short (BitVec.ofInt 12 i))
    else if c.noLit then .error "E106"
    else if -2 ^ 31 ≤ i ∧ i < 2 ^ 32 then .ok (.lit p op d a (BitVec.ofInt 32 i))
    else .error "E106"

/-- A branch target's offset: a code label of the same segment (R80). -/
def AsmAt.target (c : AsmAt) (t : List Char) : Except String (BitVec 18) :=
  match c.eval t with
  | .error e => .error e
  | .ok v =>
    if v.unk then .ok 0
    else
      let here := match v.base with
        | some (.code k s) => k == c.kernel && s == c.slot
        | none => true
        | _ => false
      if here && decide (v.n / 2048 = c.slot) then .ok (BitVec.ofInt 18 (v.n % 2048 - c.word)) else .error "E107"

/-- A fenced jump's target: a code label of the kernel at a multiple of 8 words (R160). -/
def AsmAt.far (c : AsmAt) (t : List Char) : Except String (Fin 16 × Fin 256) :=
  match c.eval t with
  | .error e => .error e
  | .ok v =>
    let here := match v.base with
      | some (.code k _) => k == c.kernel
      | none => true
      | _ => false
    if v.unk then .ok (0, 0)
    else if !here || v.n < 0 || v.n ≥ 2 ^ 15 then .error "E107"
    else if v.n % 8 ≠ 0 then .error "E106"
    else .ok (Fin.ofNat 16 (v.n / 2048).toNat, Fin.ofNat 256 (v.n % 2048 / 8).toNat)

/-- The byte offset of a U-M operand in units of the access (R75). -/
def AsmAt.offset (c : AsmAt) (sz : Size) (t : List Char) : Except String (BitVec 6) :=
  if t.isEmpty then .ok 0
  else match c.num t with
    | .error e => .error e
    | .ok i =>
      let n : Int := sz.bytes
      if i % n = 0 ∧ -32 ≤ i / n ∧ i / n ≤ 31 then .ok (BitVec.ofInt 6 (i / n)) else .error "E106"

/-- The registers of even fields (R59), for E105. -/
def evenFields : Instr → List Reg
  | .vld _ _ sb .. | .vst _ _ sb .. | .xst _ _ sb .. => [sb]
  | .vatom _ _ _ _ sb _ | .vatomb _ _ _ _ sb _ | .vagg _ _ _ _ sb _ | .vcas _ _ _ sb _ | .satom _ _ _ _ sb => [sb]
  | .sld _ d sb sz _ _ => if sz == .d then [d, sb] else [sb]
  | .sst _ d sb sz _ _ _ => if sz == .d then [d, sb] else [sb]
  | .framew _ _ s => [s]
  | .cfetch _ a _ _ | .tset _ a _ | .lnch _ a _ _ | .rngkey _ a => [a]
  | .nred _ _ d _ _ => [d]
  | .clrd _ d _ => [d]
  | .cwait _ a b | .release _ a b _ _ | .probe _ _ a b => [a, b]
  | .tlbinv _ _ a _ => [a]
  | .hld _ _ s | .hst _ _ s | .hnear _ _ s => [s]
  | _ => []

/-- What is wrong with an instruction that no word encodes (R81): for the forms that the rule does not list, the code is the model's
choice (LOG 34). -/
def formError (sys : Bool) (i : Instr) : Option String :=
  if i.privileged && !sys then some "E116"
  else if (evenFields i).any fun r => !even r then some "E105"
  else if wf i then none
  else match i with
    | .swr .. => some "E116"
    | .cpy _ a .. => if a.val % 8 == 0 then some "E109" else some "E105"
    | .vatom .. | .vatomb .. | .vagg .. | .vcas .. => some "E109"
    | .vld .. | .vst .. | .sst .. | .bar .. | .mqry .. => some "E102"
    | .mldb .. => some "E101"
    | _ => some "E106"

/-- A barrier's name: its level's letter, which is its scope, and its number (R81, R322, R326). -/
def barName (t : List Char) : Except String (BarLevel × Fin 16) :=
  match t with
  | k :: d =>
    if k.isDigit then .error "E109"
    else match [('g', BarLevel.grp), ('q', .quad), ('d', .die), ('k', .pkg), ('p', .pod)].lookup k.toLower, digitsVal 10 0 false d with
    | some l, some n => if n < l.count then .ok (l, Fin.ofNat 16 n) else .error "E101"
    | _, _ => .error "E101"
  | [] => .error "E109"

/-- The base and lane offset of a global or constant V-M operand, or of a scratch one. With s0 as base the word of an atomic is that of the
scratch form (LOG 34). -/
def vmBase (scratch : Bool) : Opd → Except String (Reg × Reg)
  | .memV (some s) v => if scratch then .error "E103" else .ok (s, v)
  | .memV none v => if scratch then .ok (0, v) else .error "E103"
  | .bad e => .error e
  | _ => .error "E103"

/-- A required suffix. -/
def req {α : Type} (code : String) (o : Option α) : Except String α :=
  match o with
  | some x => .ok x
  | none => .error code

/-- VCVT's form, from its suffixes and operands (R123). -/
def buildCvt (p : Bool) (sf : List String) (ops : List Opd) : Except String Instr :=
  let hi := (pick halfNames sf).getD false
  let half := (pick halfNames sf).isSome
  let form := sf.find? fun x => (halfNames.lookup x).isNone
  match form, ops with
  | some "F2H", [.v d none, .v a none, .v b r] => if half then .error "E102" else .ok (.vcvt p (.f2h b (r.getD .none)) d a)
  | some "F2B", [.v d none, .v a none, .v b r] => if half then .error "E102" else .ok (.vcvt p (.f2b b (r.getD .none)) d a)
  | some "H2F", [.v d none, .v a none] => .ok (.vcvt p (.h2f hi) d a)
  | some "B2F", [.v d none, .v a none] => .ok (.vcvt p (.b2f hi) d a)
  | some f, [.v d none, .v a none] =>
    match [("F2I", CvtForm.f2i), ("F2IZ", .f2iz), ("I2F", .i2f), ("N2F", .n2f)].lookup f with
    | some c => if half then .error "E102" else .ok (.vcvt p c d a)
    | none => .error "E103"
  | none, _ => .error "E102"
  | _, _ => .error "E103"

/-- VCVTI's form (R126). -/
def buildCvti (p : Bool) (sf : List String) (ops : List Opd) : Except String Instr :=
  let form := sf.find? fun x => (halfNames.lookup x).isNone && (byteNames.lookup x).isNone
  let f : Option CvtiForm := match form, pick byteNames sf, pick halfNames sf with
    | some "NB", some j, none => some (.nb j)
    | some "SB", some j, none => some (.sb j)
    | some "ZB", some j, none => some (.zb j)
    | some "NH", none, some h => some (.nh h)
    | some "SH", none, some h => some (.sh h)
    | some "ZH", none, some h => some (.zh h)
    | _, _, _ => none
  match f, ops with
  | some f, [.v d none, .v a none] => .ok (.vcvti p f d a)
  | none, _ => .error "E102"
  | _, _ => .error "E103"

/-- Loads, stores and atomics. -/
def buildMem (c : AsmAt) (mn : String) (sf : List String) (p : Bool) (ops : List Opd) : Except String Instr := do
  let sp := (pick spaceNames sf).getD .global
  let nt := sf.contains "NT"
  let of := sf.contains "OF"
  match mn, ops with
  | "VLD", [.v t none, m] =>
    let sz ← req "E102" (pick sizeNames sf)
    let (sb, vo) ← vmBase (sp == .scratch) m
    return .vld p t sb vo sz sp nt
  | "VST", [.v t none, m] =>
    let sz ← req "E102" (pick sizeNames sf)
    let (sb, vo) ← vmBase (sp == .scratch) m
    if sp == .const then throw "E117"
    return .vst p t sb vo sz sp of nt
  | "XST", [.v t none, m] =>
    let sz ← req "E102" (pick sizeNames sf)
    let (sb, vo) ← vmBase false m
    return .xst p t sb vo sz
  | "SLD", [.s d, .memS sb e] =>
    let sz ← req "E102" (pick sizeNames sf)
    return .sld p d sb sz sp (← c.offset sz e)
  | "SST", [.s d, .memS sb e] =>
    let sz ← req "E102" (pick sizeNames sf)
    if sp == .const then throw "E117"
    return .sst p d sb sz sp of (← c.offset sz e)
  | "SATOM", [.s d, .memS sb e] =>
    let sc ← req "E109" (pick scopeNames sf)
    let op ← req "E102" (pick satomNames sf)
    if e.isEmpty then return .satom p op sc d sb else throw "E103"
  | _, [.v d none, m] =>
    let sc ← req "E109" (pick scopeNames sf)
    let (sb, vo) ← vmBase (sp == .scratch) m
    if sp == .scratch && sc != .wave && sc != .grp then throw "E109"
    match mn with
    | "VATOM" => return .vatom p (← req "E102" (pick atomNames sf)) sc d sb vo
    | "VAGG" => return .vagg p (← req "E102" (pick atomNames sf)) sc d sb vo
    | "VATOMB" => return .vatomb p (← req "E102" (pick bitNames sf)) sc d sb vo
    | "VCAS" => return .vcas p sc d sb vo
    | _ => throw "E103"
  | _, _ => throw "E103"

/-- Control flow, the U set's other forms, engines and hypervectors. -/
def buildOther (c : AsmAt) (mn : String) (sf : List String) (p : Bool) (ops : List Opd) : Except String Instr := do
  match mn, ops with
  | "VBCAST", [.v d none, .s s] => return .vbcast p d s
  | "VSREG", [.v d none, .text t] => return .vsreg p d (← req "E101" (laneNames.lookup (upC t)))
  | "VLI", [.v d none, .text t] => c.imm p .vli false d 0 (.vli p d) t
  | "VPKT", [.v d none, .v a none] =>
    return .vpkt p (← req "E102" (pick taperedNames sf)) (← req "E102" (pick byteNames sf)) d a
  | "VUPKT", [.v d none, .v a none] =>
    return .vupkt p (← req "E102" (pick taperedNames sf)) (← req "E102" (pick byteNames sf)) d a
  | "VCMPI", [.m m, .v a none, .v b r] => return .vcmpi p (← req "E102" (pick condINames sf)) m a b (r.getD .none)
  | "VCMPF", [.m m, .v a none, .v b r] => return .vcmpf p (← req "E102" (pick condFNames sf)) m a b (r.getD .none)
  | "VSEL", [.v d none, .v a none, .v b r, .m k] => return .vsel p d a b (r.getD .none) k
  | "VRNG", [.v d none, .text t] => return .vrng p (sf.contains "F32") d (Fin.ofNat 64 (← c.const 64 t))
  | "VCOMP", [.v d none, .v a none, .m k] => return .vcomp p d a k
  | "VEXPD", [.v d none, .v a none, .m k] => return .vexpd p d a k
  | "VSLUP", [.v d none, .v a none, .s s] => return .vslup p d a s
  | "VSLDN", [.v d none, .v a none, .s s] => return .vsldn p d a s
  | "VSCAN", [.v d none, .v a none] => return .vscan p (← req "E102" (pick redNames sf)) d a
  | "VMOVX", [.v d none, .x k, .text t] =>
    let i ← c.num t
    if -2048 ≤ i ∧ i ≤ 2047 then return .vmovx p d k (BitVec.ofInt 12 i) else throw "E106"
  | "VMOVXW", [.v d none, .x k, .text t] =>
    let i ← c.num t
    if -2048 ≤ i ∧ i ≤ 2047 then return .vmovxw p d k (BitVec.ofInt 12 i) else throw "E106"
  | "SSET", [.s d, .s a, .s b] => return .sset p (← req "E102" (pick condSNames sf)) d a b
  | "SLIL", [.s d, .text t] => return .slil p d (BitVec.ofNat 16 (← c.const (2 ^ 16) t))
  | "SLIH", [.s d, .text t] => return .slih p d (BitVec.ofNat 16 (← c.const (2 ^ 16) t))
  | "SSEL", [.s d, .s a, .s b, .s k] => return .ssel p d a b k
  | "SRD", [.s d, .text t] => return .srd p d (← req "E101" (specialNames.lookup (upC t)))
  | "SWR", [.text t, .s a] => return .swr p (← req "E101" (specialNames.lookup (upC t))) a
  | "MWR", [.m d, .s a, .s b] => return .mwr p d a b
  | "MNOT", [.m d, .m a] => return .mnot p d a
  | "BR", [.s s, .text t] => return .br p s (← c.target t)
  | "BRZ", [.s s, .text t] => return .brz p s (← c.target t)
  | "JMP", [.text t] => return .jmp p (← c.target t)
  | "CALL", [.s s, .text t] => return .call p s (← c.target t)
  | "VBR", [.m k, .text t] => return .vbr p k (← c.target t)
  | "JMPF", [.text t] => let (n, w) ← c.far t; return .jmpf p 0 n w
  | "JMPF", [.text t, .s s] => let (n, w) ← c.far t; return .jmpf p s n w
  | "CFETCH", [.text t, .s a, .s b] => return .cfetch p a b (Fin.ofNat 16 (← c.const 16 t))
  | "CFWAIT", [.text t] => return .cfwait p (Fin.ofNat 16 (← c.const 16 t))
  | "TRAP", [.text t] => return .trap p (BitVec.ofNat 8 (← c.const 256 t))
  | "BKPT", [.text t] => return .bkpt p (BitVec.ofNat 8 (← c.const 256 t))
  | "FRAMEW", [] => if sf.contains "UNTIL" then throw "E103" else return .framew p false 0
  | "FRAMEW", [.s s] => if sf.contains "UNTIL" then return .framew p true s else throw "E103"
  | "FENCE", [] => return .fence p (← req "E109" (pick scopeNames sf)) ((pick fenceKinds sf).getD ⟨true, true, true, true⟩)
  | "FENCEA", [] => return .fencea p (← req "E109" (pick scopeNames sf)) ((pick fenceKinds sf).getD ⟨true, true, true, true⟩)
  | "BAR", [] => throw "E109"
  | "BAR", [.text t] => let (l, n) ← barName t; return .bar p ((pick barKinds sf).getD .both) l n
  | "NRED", [.s d, .s a, .s b] => return .nred p (← req "E102" (pick redNames sf)) d a b
  | "VRED", [.s d, .v a none] => return .vred p (← req "E102" (pick redNames sf)) d a
  | "TSET", [.text t, .memS a []] => return .tset p a (Fin.ofNat 256 (← c.const 256 t))
  | "MLDB", [.text m, .text t, .s a] => return .mldb p a (Fin.ofNat 4 (← c.const 4 m)) (Fin.ofNat 256 (← c.const 256 t))
  | "MQRY", [.s d, .text t] => return .mqry p (sf.contains "CLR") d (← req "E101" (mqryNames.lookup (upC t)))
  | "CPY", [.s a] =>
    let rel := sf.contains "REL"
    let acq := sf.contains "ACQ"
    match pick scopeNames sf with
    | some sc => if rel || acq then return .cpy p a sc rel acq else throw "E109"
    | none => if rel || acq then throw "E109" else return .cpy p a .wave rel acq
  | "LNCH", [.text t, .memS a [], .s b] => return .lnch p a b (Fin.ofNat 64 (← c.const 64 t))
  | "RELEASE", [.text t, .memS b [], .memS a [], .s l] => return .release p a b (Fin.ofNat 64 (← c.const 64 t)) l
  | "LBLRD", [.s d, o] =>
    match sf, o with
    | ["S"], .s n => return .lblrd p d (.s n)
    | ["V"], .v n none => return .lblrd p d (.v n)
    | ["M"], .m n => return .lblrd p d (.m n)
    | ["H"], .h n => return .lblrd p d (.h n)
    | ["A"], .a n => return .lblrd p d (.a n)
    | [], _ => throw "E102"
    | _, _ => throw "E103"
  | "PROBE", [.s b, .memS a []] => return .probe p (sf.contains "PA") a b
  | "TLBINV", [] => if pick tlbKinds sf == some .all then return .tlbinv p .all 0 0 else throw "E103"
  | "TLBINV", [.s b] =>
    match pick tlbKinds sf with
    | some .pasid => return .tlbinv p .pasid 0 b
    | some .owner => return .tlbinv p .owner 0 b
    | none => throw "E102"
    | _ => throw "E103"
  | "TLBINV", [.s b, .memS a []] => if pick tlbKinds sf == some .page then return .tlbinv p .page a b else throw "E103"
  | "XSET", [.x k, .s a, .s b] => if sf.isEmpty then return .xset p .set k a b else throw "E103"
  | "XSET", [.x k, .s a] =>
    match sf with
    | ["VAL"] => return .xset p .val k a 0
    | ["ADD"] => return .xset p .add k a 0
    | _ => throw "E103"
  | "VLANE", [.s d, .v a none, .s b] => return .vlane p d a b
  | "HLD", [.h h, .memS s []] => return .hld p h s
  | "HST", [.h h, .memS s []] => return .hst p h s
  | "HBIND", [.h d, .h a, .h b] => return .hbind p d a b
  | "HPERM", [.h d, .h a, .s s] => return .hperm p d a s
  | "HCOPY", [.h d, .h a] => return .hcopy p d a
  | "HBUND", [.a k, .h a] => return .hbund p k a
  | "HCLR", [.a k] => return .hclr p k
  | "HTHR", [.h h, .a k] => return .hthr p k h 0
  | "HTHR", [.h h, .a k, .s s] => return .hthr p k h s
  | "HTIE", [.a k] =>
    match pick tieNames sf with
    | some .zero => return .htie p k .zero 0
    | some .one => return .htie p k .one 0
    | none => throw "E102"
    | _ => throw "E103"
  | "HTIE", [.a k, .h b] => if pick tieNames sf == some .reg then return .htie p k .reg b else throw "E103"
  | "HSIM", [.s s, .h a, .h b] => return .hsim p a b s
  | "HNEAR", [.s s, .h a] => return .hnear p a s
  | "HWR", [.h a, .s s] => return .hwr p a s
  | "HRD", [.h d, .s s] => return .hrd p d s
  | _, _ => throw "E103"

/-- An instruction from its parts. -/
def buildInstr (c : AsmAt) (mn : String) (sf : List String) (p : Bool) (ops : List Opd) : Except String Instr :=
  match ops.findSome? (fun | .bad e => some e | _ => none) with
  | some e => .error e
  | none =>
    if let some f := formB.lookup mn then match ops with
      | [.v d none, .v a none, .v b r] => .ok (f p d a b (r.getD .none))
      | _ => .error "E103"
    else if let some f := formU.lookup mn then match ops with
      | [.v d none, .v b r] => .ok (f p d b (r.getD .none))
      | _ => .error "E103"
    else if let some f := formFp.lookup mn then match ops with
      | [.v d none, .v a none, .v b r] => .ok (f p ((pick fpNames sf).getD .f32) d a b (r.getD .none))
      | _ => .error "E103"
    else if let some (op, zero, f) := formI.lookup mn then
      match mn.toList.head? == some 'V', ops with
      | true, [.v d none, .v a none, .text t] => c.imm p op zero d a (f p d a) t
      | false, [.s d, .s a, .text t] => c.imm p op zero d a (f p d a) t
      | _, _ => .error "E103"
    else if let some f := formShift.lookup mn then
      match mn.toList.head? == some 'V', ops with
      | true, [.v d none, .v a none, .text t] => (c.const 32 t).map fun n => f p d a (Fin.ofNat 32 n)
      | false, [.s d, .s a, .text t] => (c.const 32 t).map fun n => f p d a (Fin.ofNat 32 n)
      | _, _ => .error "E103"
    else if let some f := formS.lookup mn then match ops with
      | [.s d, .s a, .s b] => .ok (f p d a b)
      | _ => .error "E103"
    else if let some f := formS2.lookup mn then match ops with
      | [.s d, .s a] => .ok (f p d a)
      | _ => .error "E103"
    else if let some f := formM.lookup mn then match ops with
      | [.s d, .m a] => .ok (f p d a)
      | _ => .error "E103"
    else if let some f := formM3.lookup mn then match ops with
      | [.m d, .m a, .m b] => .ok (f p d a b)
      | _ => .error "E103"
    else if let some f := formS1.lookup mn then match ops with
      | [.s a] => .ok (f p a)
      | _ => .error "E103"
    else if let some f := form0.lookup mn then (if ops.isEmpty then .ok (f p) else .error "E103")
    else if ["VLD", "VST", "XST", "SLD", "SST", "SATOM", "VATOM", "VATOMB", "VAGG", "VCAS"].contains mn then buildMem c mn sf p ops
    else if mn == "VCVT" then buildCvt p sf ops
    else if mn == "VCVTI" then buildCvti p sf ops
    else buildOther c mn sf p ops

/-- The operands of a word: a target is an expression, whatever its symbol looks like. -/
def opdsOf (mn : String) (ops : List (List Char)) : List Opd :=
  if ["BR", "BRZ", "CALL", "VBR"].contains mn then
    match ops with
    | [a, t] => [parseOpd a, .text t]
    | ops => ops.map parseOpd
  else if mn == "JMP" || mn == "JMPF" then
    match ops with
    | t :: r => .text t :: r.map parseOpd
    | [] => []
  else ops.map parseOpd

/-- The instruction of a statement (R74): mnemonic, suffixes, operands. -/
def asmInstr (c : AsmAt) (head : List Char) (ops : List (List Char)) : Except String Instr :=
  match (splitChar '.' head).map upC with
  | [] => .error "E101"
  | mn :: sf =>
    match suffixGroups mn with
    | none => .error "E101"
    | some groups =>
      let p := sf.getLast? == some "P"
      let sf := if p then sf.dropLast else sf
      if sf.contains "P" then .error "E102"
      else match suffixError mn groups sf with
        | some e => .error e
        | none =>
          if suffixTwice groups sf then .error "E102"
          else match buildInstr c mn sf p (opdsOf mn ops) with
            | .error e => .error e
            | .ok i => match formError c.system i with
              | some e => .error e
              | none => .ok i

/-! ### Every error of a statement (R86) -/

/-- The required suffixes that a word lacks. -/
def missingSuffixes (mn : String) (sf : List String) : List String :=
  let need {α : Type} (code : String) (t : List (String × α)) : List String := if (pick t sf).isSome then [] else [code]
  match mn with
  | "VLD" | "VST" | "XST" | "SLD" | "SST" => need "E102" sizeNames
  | "VATOM" | "VAGG" => need "E109" scopeNames ++ need "E102" atomNames
  | "VATOMB" => need "E109" scopeNames ++ need "E102" bitNames
  | "SATOM" => need "E109" scopeNames ++ need "E102" satomNames
  | "VCAS" | "FENCE" | "FENCEA" => need "E109" scopeNames
  | "VPKT" | "VUPKT" => need "E102" taperedNames ++ need "E102" byteNames
  | "VCMPI" => need "E102" condINames
  | "VCMPF" => need "E102" condFNames
  | "SSET" => need "E102" condSNames
  | "VSCAN" | "VRED" | "NRED" => need "E102" redNames
  | _ => []

/-- A required suffix of each group of which the word has none. -/
def defaultSuffixes (mn : String) (sf : List String) : List String :=
  let need {α : Type} (t : List (String × α)) : List String := if (pick t sf).isSome then [] else (t.take 1).map (·.1)
  match mn with
  | "VLD" | "VST" | "XST" | "SLD" | "SST" => need sizeNames
  | "VATOM" | "VAGG" => need scopeNames ++ need atomNames
  | "VATOMB" => need scopeNames ++ need bitNames
  | "SATOM" => need scopeNames ++ need satomNames
  | "VCAS" | "FENCE" | "FENCEA" => need scopeNames
  | "VPKT" | "VUPKT" => need taperedNames ++ need byteNames
  | "VCMPI" => need condINames
  | "VCMPF" => need condFNames
  | "SSET" => need condSNames
  | "VSCAN" | "VRED" | "NRED" => need redNames
  | _ => []

/-- The suffixes of a word without those that are wrong, and with those that it lacks. -/
def soundSuffixes (mn : String) (groups : List (List String)) (sf : List String) : List String :=
  let known := sf.eraseDups.filter fun t => groups.any (·.contains t)
  let once := known.foldl (fun l t => if groups.any fun g => g.contains t && l.any (g.contains ·) then l else l ++ [t]) []
  once ++ defaultSuffixes mn once

/-- An operand with a sound expression or name in place of what is written. -/
def soundOpd (c : AsmAt) (mn : String) (o : Opd) : Opd :=
  match o with
  | .memS b _ => .memS b []
  | .text _ => .text (match mn with
    | "BR" | "BRZ" | "JMP" | "CALL" | "VBR" => (toString (2048 * c.slot + c.word)).toList
    | "JMPF" => (toString (2048 * c.slot)).toList
    | "BAR" => "g0".toList
    | "SRD" | "SWR" => "RLANE".toList
    | "VSREG" => "LANE".toList
    | "MQRY" => "MSTAT".toList
    | _ => ['0'])
  | o => o

/-- What is wrong with an instruction that is built, each error once for each place. -/
def formErrors (sys : Bool) (i : Instr) : List String :=
  let l := (if i.privileged && !sys then ["E116"] else []) ++ ((evenFields i).filter fun r => !even r).map fun _ => "E105"
  if l.isEmpty then (formError sys i).toList else l

/-- The errors of a statement that is no instruction (R86): of its mnemonic, of each suffix, of each operand, of the whole. -/
def asmErrors (c : AsmAt) (head : List Char) (ops : List (List Char)) : List String :=
  match (splitChar '.' head).map upC with
  | [] => ["E101"]
  | mn :: sf =>
    let opds := opdsOf mn ops
    let operands := opds.filterMap fun | .bad e => some e | _ => none
    match suffixGroups mn with
    | none => "E101" :: operands
    | some groups =>
      let p := sf.getLast? == some "P"
      let sf := if p then sf.dropLast else sf
      let unknown := (sf.filter (· != "P")).filterMap fun t => suffixError mn groups [t]
      let twice := if sf.contains "P" || suffixTwice groups (sf.filter (· != "P")) then ["E102"] else []
      let suffixes := unknown ++ twice ++ missingSuffixes mn sf
      let good := soundSuffixes mn groups sf
      suffixes ++ operands ++ (if !operands.isEmpty then []
        else match buildInstr c mn good p (opds.map (soundOpd c mn)) with
          | .error e => if suffixes.contains e then [] else [e]
          | .ok i =>
            -- each operand is judged with sound ones in place of the others
            let own := (List.range opds.length).filterMap fun k =>
              match buildInstr c mn good p (opds.mapIdx fun j o => if j = k then o else soundOpd c mn o) with
              | .error e => some e
              | .ok _ => none
            let whole := match own, buildInstr c mn good p opds with
              | [], .ok j => formErrors c.system j
              | _, _ => formErrors c.system i
            own ++ whole)

/-- The instruction whose registers an erroneous statement names (R79), where its operands are registers and expressions. -/
def shapeOf (c : AsmAt) (head : List Char) (ops : List (List Char)) : Option Instr :=
  match (splitChar '.' head).map upC with
  | [] => none
  | mn :: sf => (suffixGroups mn).bind fun groups =>
    match buildInstr c mn (soundSuffixes mn groups sf) false ((opdsOf mn ops).map (soundOpd c mn)) with
    | .ok i => some i
    | .error _ => none

/-! ### Registers read and written (R79, R82, R85) -/

/-- Vector, uniform and hypervector registers that an instruction reads and writes, mask registers it writes, accumulators it names;
whether it reads every declared vector register, and whether its results are long-latency (R51). -/
structure Use where
  rv   : List Nat := []
  wv   : List Nat := []
  rs   : List Nat := []
  ws   : List Nat := []
  wm   : List Nat := []
  rh   : List Nat := []
  wh   : List Nat := []
  as   : List Nat := []
  all  : Bool := false
  long : Bool := false
  deriving DecidableEq, Repr

/-- An even register and the next. -/
def two (r : Reg) : List Nat := [r.val, r.val + 1]
def spaceBase (sp : Space) (sb : Reg) : List Nat := if sp == .scratch then [] else two sb
def atomBase (sb : Reg) : List Nat := if sb.val = 0 then [] else two sb
def vData (sz : Size) (t : Reg) : List Nat := if sz == .d then two t else [t.val]
def litRead (op : LitOp) (a : Reg) : List Nat := if op == .vli then [] else [a.val]

def useB (d a b : Reg) : Use := { rv := [a.val, b.val], wv := [d.val] }
def useBD (d a b : Reg) : Use := { rv := [a.val, b.val, d.val], wv := [d.val] }
def useU (d b : Reg) : Use := { rv := [b.val], wv := [d.val] }
def useS (d a b : Reg) : Use := { rs := [a.val, b.val], ws := [d.val] }
def useS2 (d a : Reg) : Use := { rs := [a.val], ws := [d.val] }

def useOf : Instr → Use
  | .vadd _ d a b _ | .vsub _ d a b _ | .vadds _ d a b _ | .vsubs _ d a b _ | .vaddsn _ d a b _ | .vsubsn _ d a b _ | .vabsd _ d a b _
  | .vmul _ d a b _ | .vmulh _ d a b _ | .vmulhn _ d a b _ | .vmin _ d a b _ | .vmax _ d a b _ | .vminn _ d a b _ | .vmaxn _ d a b _
  | .vand _ d a b _ | .vor _ d a b _ | .vxor _ d a b _ | .vandn _ d a b _ | .vshl _ d a b _ | .vshr _ d a b _ | .vsra _ d a b _
  | .vrotl _ d a b _ | .vperm _ d a b _ | .vsel _ d a b _ _ => useB d a b
  | .vfadd _ _ d a b _ | .vfsub _ _ d a b _ | .vfmul _ _ d a b _ | .vfmin _ _ d a b _ | .vfmax _ _ d a b _ => useB d a b
  | .vmad _ d a b _ | .vdot4 _ d a b _ | .vdot4n _ d a b _ => useBD d a b
  | .vfma _ _ d a b _ | .vfnma _ _ d a b _ | .vfms _ _ d a b _ | .vfnms _ _ d a b _ => useBD d a b
  | .vfdiv _ d a b _ => { useB d a b with long := true }
  | .vabs _ d b _ | .vneg _ d b _ | .vnot _ d b _ | .vmov _ d b _ | .vpopc _ d b _ | .vclz _ d b _ | .vbrev _ d b _ | .vfabs _ d b _
  | .vfneg _ d b _ | .vfclass _ d b _ | .vfrndn _ d b _ | .vfrndz _ d b _ | .vfrndd _ d b _ | .vfrndu _ d b _ => useU d b
  | .vrcp _ d b _ | .vrsq _ d b _ | .vsqrt _ d b _ | .vexp2 _ d b _ | .vlog2 _ d b _ | .vsin _ d b _ | .vcos _ d b _
  | .vtanh _ d b _ => { useU d b with long := true }
  | .vbcast _ d s => { rs := [s.val], wv := [d.val] }
  | .vsreg _ d _ | .vli _ d _ | .vrng _ _ d _ => { wv := [d.val] }
  | .vaddi _ d a _ | .vandi _ d a _ | .vori _ d a _ | .vxori _ d a _ | .vshli _ d a _ | .vshri _ d a _ | .vsrai _ d a _
  | .vupkt _ _ _ d a | .vcomp _ d a _ | .vexpd _ d a _ | .vscan _ _ d a => useU d a
  | .vpkt _ _ _ d a => { rv := [a.val, d.val], wv := [d.val] }
  | .vcvt _ f d a => match f with
    | .f2h b _ | .f2b b _ => useB d a b
    | _ => useU d a
  | .vcvti _ f d a => match f with
    | .nb _ | .nh _ => { rv := [a.val, d.val], wv := [d.val] }
    | _ => useU d a
  | .vcmpi _ _ m a b _ => { rv := [a.val, b.val], wm := [m.val] }
  | .vcmpf _ _ m a b _ => { rv := [a.val, b.val], wm := [m.val] }
  | .vslup _ d a s | .vsldn _ d a s => { rv := [a.val], rs := [s.val], wv := [d.val] }
  | .vmovx _ d _ _ => { wv := [d.val], all := true }
  | .vmovxw _ d _ _ => { rv := [d.val] }
  | .vld _ t sb vo sz sp _ => { rv := [vo.val], rs := spaceBase sp sb, wv := vData sz t, long := true }
  | .vst _ t sb vo sz sp _ _ => { rv := vo.val :: vData sz t, rs := spaceBase sp sb }
  | .xst _ t sb vo sz => { rv := vo.val :: vData sz t, rs := [sb.val] }
  | .vatom _ _ _ d sb vo | .vatomb _ _ _ d sb vo | .vagg _ _ _ d sb vo =>
    { rv := [vo.val, d.val], rs := atomBase sb, wv := [d.val], long := true }
  | .vcas _ _ d sb vo => { rv := vo.val :: two d, rs := atomBase sb, wv := [d.val], long := true }
  | .sadd _ d a b | .ssub _ d a b | .smul _ d a b | .smulh _ d a b | .smulhn _ d a b | .sand _ d a b | .sor _ d a b | .sxor _ d a b
  | .sshl _ d a b | .sshr _ d a b | .ssra _ d a b | .smin _ d a b | .smax _ d a b | .sminn _ d a b | .smaxn _ d a b
  | .srotl _ d a b | .sset _ _ d a b => useS d a b
  | .sclz _ d a | .spopc _ d a => useS2 d a
  | .saddi _ d a _ | .sandi _ d a _ | .sori _ d a _ | .sxori _ d a _ | .sshli _ d a _ | .sshri _ d a _ | .ssrai _ d a _ => useS2 d a
  | .lit _ op d a _ => if op.code < 64 then { rv := litRead op a, wv := [d.val] } else useS2 d a
  | .slil _ d _ | .srd _ d _ => { ws := [d.val] }
  | .slih _ d _ => useS2 d d
  | .ssel _ d a b c => { rs := [a.val, b.val, c.val], ws := [d.val] }
  | .swr _ _ a => { rs := [a.val] }
  | .mrdl _ d _ | .mrdh _ d _ | .mpop _ d _ | .mffs _ d _ | .vany _ d _ | .vall _ d _ => { ws := [d.val] }
  | .mwr _ d a b => { rs := [a.val, b.val], wm := [d.val] }
  | .mand _ d _ _ | .mor _ d _ _ | .mxor _ d _ _ | .mnot _ d _ => { wm := [d.val] }
  | .br _ s _ | .brz _ s _ | .jmpf _ s _ _ | .ret _ s => { rs := [s.val] }
  | .call _ s _ => { ws := [s.val] }
  | .cfetch _ a b _ => { rs := b.val :: two a }
  | .framew _ u s => { rs := if u then two s else [] }
  | .sld _ d sb sz sp _ => { rs := if sp == .scratch then [sb.val] else two sb, ws := vData sz d, long := true }
  | .sst _ d sb sz sp _ _ => { rs := (if sp == .scratch then [sb.val] else two sb) ++ vData sz d }
  | .satom _ _ _ d sb => { rs := d.val :: two sb, ws := [d.val], long := true }
  | .nred _ _ d a b => { rs := [a.val, b.val], ws := two d, long := true }
  | .vred _ _ d a => { rv := [a.val], ws := [d.val] }
  | .claim _ d a b => { useS d a b with long := true }
  | .object _ a | .mma _ a => { rs := [a.val] }
  | .clwait _ d a => { useS2 d a with long := true }
  | .clrd _ d b => { rs := [b.val], ws := two d, long := true }
  | .tset _ a _ | .rngkey _ a => { rs := two a }
  | .mldb _ a _ _ => { rs := (List.range 5).map (a.val + ·) }
  | .mqry _ _ d _ => { ws := [d.val], long := true }
  | .cpy _ a _ _ _ => { rs := (List.range 8).map (a.val + ·) }
  | .cwait _ a b => { rs := two a ++ two b }
  | .lnch _ a b _ => { rs := b.val :: two a }
  | .release _ a b _ l => { rs := l.val :: two a ++ two b }
  | .lblrd _ d x => match x with
    | .s r => useS2 d r
    | .v r => { rv := [r.val], ws := [d.val] }
    | .m _ => { ws := [d.val] }
    | .h r => { rh := [r.val], ws := [d.val] }
    | .a r => { as := [r.val], ws := [d.val] }
  | .probe _ _ a b => { rs := two a, ws := two b, long := true }
  | .tlbinv _ k a b => { rs := match k with
    | .page => b.val :: two a
    | .all => []
    | _ => [b.val] }
  | .xset _ mode _ a b => { rs := if mode == .set then [a.val, b.val] else [a.val] }
  | .vlane _ d a b => { rv := [a.val], rs := [b.val], ws := [d.val] }
  | .hld _ h s => { rs := two s, wh := [h.val], long := true }
  | .hst _ h s => { rs := two s, rh := [h.val] }
  | .hbind _ d a b => { rh := [a.val, b.val], wh := [d.val] }
  | .hperm _ d a s => { rh := [a.val], rs := [s.val], wh := [d.val] }
  | .hcopy _ d a => { rh := [a.val], wh := [d.val] }
  | .hbund _ k a => { rh := [a.val], as := [k.val] }
  | .hclr _ k => { as := [k.val] }
  | .hthr _ k h s => { as := [k.val], wh := [h.val], ws := if s.val = 0 then [] else [s.val] }
  | .htie _ k pol b => { as := [k.val], rh := if pol == .reg then [b.val] else [] }
  | .hsim _ a b s => { rh := [a.val, b.val], ws := [s.val] }
  | .hnear _ a s => { rh := [a.val], rs := two s, ws := two s, long := true }
  | .hwr _ a s => { rh := [a.val], rs := [s.val] }
  | .hrd _ d s => { rs := [s.val], wh := [d.val], long := true }
  | _ => {}

/-- Whether the instruction ends with a park, or parks before its transfer or at the trap entry or stop that it brings (R53, R55, R273). -/
def parksAlways : Instr → Bool
  | .exit _ | .bar .. | .yield _ | .framew .. | .jmpf .. | .rte _ | .trap .. | .bkpt .. => true
  | _ => false

/-- The instructions that take an entry of the SFU queue (R51). -/
def usesSfu : Instr → Bool
  | .vfdiv .. | .vrcp .. | .vrsq .. | .vsqrt .. | .vexp2 .. | .vlog2 .. | .vsin .. | .vcos .. | .vtanh .. => true
  | _ => false

/-- Word 30 of an instruction's last word: the park bit. -/
def parkWord (ws : List Nat) : List Nat :=
  match ws.reverse with
  | w :: r => ((if w / 2 ^ 30 % 2 = 1 then w else w + 2 ^ 30) :: r).reverse
  | [] => []

def parkBit (ws : List Nat) : Bool := ((ws.getLast?.getD 0) / 2 ^ 30) % 2 == 1

/-- The words of R80 that may stand at word 2,047. -/
def transfers : Instr → Bool
  | .jmp .. | .jmpf .. | .ret .. | .exit _ | .rte _ => true
  | _ => false

/-- The branch offset of an instruction that has one. -/
def branchOff : Instr → Option Int
  | .br _ _ o | .brz _ _ o | .jmp _ o | .call _ _ o | .vbr _ _ o => some o.toInt
  | _ => none

/-- Whether execution may go on to the next word (R82). -/
def fallsOn : Instr → Bool
  | .jmp .. | .jmpf .. | .ret .. | .exit _ | .rte _ | .call .. => false
  | _ => true

/-- Operations of R84. -/
def timeDependent : Instr → Bool
  | .srd _ _ n => match n with
    | .ocycl | .ocych | .rphase | .lclkl | .lclkh | .pathcnt _ | .outstnd => true
    | _ => false
  | .mqry .. | .framew .. => true
  | _ => false

end Sys2Proof.Machine
end

