-- ==== Sys2Proof/Machine/Fp.lean ====
section
/-! DEFINITION. Floating-point operations on encodings: arithmetic, conversions, tapered formats and special functions
(spec/05_numbers.md R90 to R101; spec/06_vector_ops.md R120 to R132). -/

namespace Sys2Proof.Machine

/-- Round an operation's exact value to the format and join the flags of both. -/
def finish (f : Fmt) (r : Fv × Flags) : Nat × Flags :=
  let (b, fl) := roundF f r.1
  (b, r.2 ||| fl)

def fAdd (f : Fmt) (a b : Nat) : Nat × Flags := finish f (addV (decodeF f a) (decodeF f b))
def fSub (f : Fmt) (a b : Nat) : Nat × Flags := finish f (addV (decodeF f a) (decodeF f b).neg)
def fMul (f : Fmt) (a b : Nat) : Nat × Flags := finish f (mulV (decodeF f a) (decodeF f b))
/-- The FMA forms: (±a) × b + (±c) (R121). -/
def fFma (f : Fmt) (negA negC : Bool) (a b c : Nat) : Nat × Flags :=
  let x := decodeF f a
  let z := decodeF f c
  finish f (fmaV (if negA then x.neg else x) (decodeF f b) (if negC then z.neg else z))
def fDiv (a b : Nat) : Nat × Flags := finish f32 (divV (decodeF f32 a) (decodeF f32 b))

/-- VFMIN and VFMAX: one of the operands bit for bit, −0 below +0, a NaN only beside a NaN (R93). -/
def fMinMax (f : Fmt) (isMax : Bool) (a b : Nat) : Nat :=
  let x := decodeF f a
  let y := decodeF f b
  if x.isNaN then (if y.isNaN then f.nanBits else b)
  else if y.isNaN then a
  else
    let aFirst := ltV x y || (eqV x y && a / f.signBit % 2 == 1)
    if isMax then (if aFirst then b else a) else (if aFirst then a else b)

/-- One element operation on a lane of the given type: once, or once for each half (R90, R120). -/
def perElem (ty : FpType) (op : Fmt → Nat → Nat → Nat → Nat × Flags) (a b c : Word) : Word × Flags :=
  match ty with
  | .f32 =>
    let (x, fl) := op f32 a.toNat b.toNat c.toNat
    (BitVec.ofNat 32 x, fl)
  | .f16x2 => halves f16
  | .bf16x2 => halves bf16
where
  halves (f : Fmt) : Word × Flags :=
    let (x0, f0) := op f (fld a.toNat 0 16) (fld b.toNat 0 16) (fld c.toNat 0 16)
    let (x1, f1) := op f (fld a.toNat 16 16) (fld b.toNat 16 16) (fld c.toNat 16 16)
    (BitVec.ofNat 32 (x0 + x1 * 2 ^ 16), f0 ||| f1)

/-! ### Single-operand F32 operations (R122) -/

def signF32 : Nat := 2 ^ 31

def fAbs (b : Nat) : Nat := if (decodeF f32 b).isNaN then f32.nanBits else b % 2 ^ 31
def fNeg (b : Nat) : Nat := if (decodeF f32 b).isNaN then f32.nanBits else if b < 2 ^ 31 then b + 2 ^ 31 else b - 2 ^ 31

/-- VFCLASS's one-hot class mask. -/
def fClass (b : Nat) : Nat :=
  let s := decide (b ≥ 2 ^ 31)
  match decodeF f32 b with
  | .nan => 2 ^ 8
  | .inf s => if s then 2 ^ 0 else 2 ^ 7
  | .fin _ m _ =>
    if m = 0 then (if s then 2 ^ 3 else 2 ^ 4)
    else if m < 2 ^ 23 then (if s then 2 ^ 2 else 2 ^ 5)
    else (if s then 2 ^ 1 else 2 ^ 6)

inductive Rounding | near | zero | down | up
  deriving DecidableEq, Repr

/-- The integer that m × 2^e rounds to in magnitude, for a value of sign s, and whether it differs. -/
def roundInt (md : Rounding) (s : Bool) (m : Nat) (e : Int) : Nat × Bool :=
  if 0 ≤ e then (m * 2 ^ e.toNat, false)
  else
    let k := (-e).toNat
    let q := m / 2 ^ k
    let r := m % 2 ^ k
    let up := match md with
      | .near => 2 * r > 2 ^ k || (2 * r == 2 ^ k && q % 2 == 1)
      | .zero => false
      | .down => s && r != 0
      | .up => !s && r != 0
    (if up then q + 1 else q, r != 0)

/-- VFRNDN, VFRNDZ, VFRNDD, VFRNDU: a zero keeps the sign of b. -/
def fRound (md : Rounding) (b : Nat) : Nat × Flags :=
  match decodeF f32 b with
  | .nan => (f32.nanBits, fNone)
  | .inf _ => (b, fNone)
  | .fin s m e =>
    let (n, inex) := roundInt md s m e
    ((roundF f32 (.fin s n 0)).1, if inex then fInexact else fNone)

/-! ### Conversions (R94, R123) -/

def i32Max : Int := 2 ^ 31 - 1
def i32Min : Int := -2 ^ 31
/-- SatS (R70). -/
def satS (i : Int) (m : Nat) : Int := max (-2 ^ (m - 1)) (min i (2 ^ (m - 1) - 1))
/-- SatU (R70). -/
def satU (i : Int) (m : Nat) : Int := max 0 (min i (2 ^ m - 1))

/-- F32 to I32, saturating; a NaN or a value beyond the bounds raises invalid alone. -/
def fToInt (md : Rounding) (a : Nat) : Word × Flags :=
  match decodeF f32 a with
  | .nan => (0, fInvalid)
  | .inf s => (BitVec.ofInt 32 (if s then i32Min else i32Max), fInvalid)
  | .fin s m e =>
    let (n, inex) := roundInt md s m e
    let i : Int := if s then -(n : Int) else n
    if i > i32Max ∨ i < i32Min then (BitVec.ofInt 32 (satS i 32), fInvalid)
    else (BitVec.ofInt 32 i, if inex then fInexact else fNone)

def intToF (i : Int) : Nat × Flags := roundF f32 (Fv.ofInt i)
/-- Narrow an F32 to F16 or BF16. -/
def fNarrow (f : Fmt) (a : Nat) : Nat × Flags := roundF f (decodeF f32 a)
/-- Widen an F16 or BF16 to F32, exactly. -/
def fWiden (f : Fmt) (a : Nat) : Nat := (roundF f32 (decodeF f a)).1

/-! ### Tapered formats (R97 to R101) -/

def Tapered.bodyBits : Tapered → Nat
  | .lt8 => 7
  | .lt6 => 5

/-- Length of the run of bits equal to `one` from bit i − 1 of x downward. -/
def runLen (x : Nat) (one : Bool) : Nat → Nat
  | 0 => 0
  | i + 1 => if (x / 2 ^ i % 2 == 1) == one then runLen x one i + 1 else 0

/-- The value of sign s and nonzero body b of n bits: fields of R97. -/
def taperedBody (n : Nat) (s : Bool) (b : Nat) : Fv :=
  let one := b / 2 ^ (n - 1) % 2 == 1
  let m := runLen b one n
  let k : Int := if one then (m : Int) - 1 else -(m : Int)
  let left := n - m - 1
  let e := if left = 0 then 0 else b / 2 ^ (left - 1) % 2
  let fw := left - 1
  .fin s (2 ^ fw + b % 2 ^ fw) (2 * k + e - fw)

/-- The value of a byte in a tapered format; NaR is a NaN. -/
def taperedV (t : Tapered) (byte : Nat) : Fv :=
  let n := Tapered.bodyBits t
  let b := byte % 2 ^ n
  let s := byte / 2 ^ n % 2 == 1
  if b = 0 then (if s then .nan else .zero) else taperedBody n s b

/-- DecodeLT8 and DecodeLT6: the exact F32 encoding (R100). -/
def decodeLT (t : Tapered) (byte : Nat) : Nat := (roundF f32 (taperedV t byte)).1

/-- RoundLT8 and RoundLT6: sign and body, and flags (R101). -/
def roundLT (t : Tapered) (x : Fv) : Nat × Flags :=
  let n := Tapered.bodyBits t
  match x with
  | .nan => (2 ^ n, fInvalid)
  | .inf _ => (2 ^ n, fInvalid)
  | .fin s m ex =>
    if m = 0 then (0, fNone)
    else
      let sb := if s then 2 ^ n else 0
      let l := Nat.log2 m
      let ee : Int := l + ex
      let lim : Int := 2 * n - 2
      if ee > lim ∨ (ee = lim ∧ m ≠ 2 ^ l) then (sb + (2 ^ n - 1), fOverflow ||| fInexact)
      else if ee < -lim then (sb + 1, fUnderflow ||| fInexact)
      else
        let k := ee.fdiv 2
        let e := (ee - 2 * k).toNat
        let (reg, rl) : Nat × Nat :=
          if 0 ≤ k then ((2 ^ (k.toNat + 1) - 1) * 2, k.toNat + 2) else (1, (-k).toNat + 1)
        let total := rl + 1 + l
        let stream := (reg * 2 + e) * 2 ^ l + (m - 2 ^ l)
        if total ≤ n then (sb + stream * 2 ^ (n - total), fNone)
        else
          let (body, inex) := rneShift stream (total - n)
          (sb + body, if inex then fInexact else fNone)

/-! ### Special functions (R129 to R131)

For the functions whose results the spec bounds but does not fix, a proposal of Config.sfu is delivered when it lies within
the bound, and else the rounded value of a reference that the integer algorithms below compute to some 2^-90 (LOG 9). -/

/-- Fixed-point fraction bits of the references. -/
def fxBits : Nat := 96
def fxOne : Nat := 2 ^ 96

/-- √2, √√2, … in fixed point, multiplied in where bits of the fraction f (64 bits) are 1: 2^f (R130 fn 3). -/
def exp2Aux (f : Nat) : Nat → Nat → Nat → Nat
  | 0, _, acc => acc
  | k + 1, c, acc => exp2Aux f k (isqrt (c * fxOne)) (if f / 2 ^ k % 2 = 1 then acc * c / fxOne else acc)
/-- 2^(f / 2^64) for f < 2^64, in fixed point. -/
def exp2Frac (f : Nat) : Nat := exp2Aux f 64 (isqrt (2 * fxOne * fxOne)) fxOne

/-- Fraction bits of log2 of a fixed-point x in [1, 2), by squaring. -/
def log2Aux : Nat → Nat → Nat → Nat
  | 0, _, acc => acc
  | k + 1, x, acc =>
    let y := x * x / fxOne
    if y ≥ 2 * fxOne then log2Aux k (y / 2) (2 * acc + 1) else log2Aux k y (2 * acc)
/-- log2 x to 64 fraction bits, for fixed-point x in [1, 2). -/
def log2Frac (x : Nat) : Nat := log2Aux 64 x 0

/-- π × 2^128. -/
def piFx : Nat := 1069028584064966747859680373161870783300
/-- 2^128 / ln 2. -/
def log2eFx : Nat := 490923683258796565746369346286093237521

/-- Alternating Taylor sum: term t, then t·x²/((n+1)(n+2)), …, at scale 2^128. -/
def taylor (x2 : Nat) : Nat → Nat → Nat → Int
  | 0, _, _ => 0
  | k + 1, n, t => (t : Int) - taylor x2 k (n + 2) (t * x2 / 2 ^ 128 / ((n + 1) * (n + 2)))
/-- sin(π·u / 2^64) at scale 2^128, for u ≤ 2^63: reference for half-turns up to 1/2. -/
def sinPiFx (u : Nat) : Nat :=
  let x := piFx * u / 2 ^ 64
  (taylor (x * x / 2 ^ 128) 24 1 x).toNat

/-- The value of a proposal minus the reference r·2^q: within b·2^q' ? All at the scale of an integer grid 2^q. -/
def withinFx (y : Fv) (neg : Bool) (r : Nat) (q : Int) (bound : Nat) : Bool :=
  match y with
  | .fin s m e =>
    match addFin s m e (!neg) r q with
    | .fin _ d g => if d = 0 then true else
        let g' := min g q
        decide (d * 2 ^ (g - g').toNat ≤ bound * 2 ^ (q - g').toNat)
    | _ => false
  | _ => false

/-- Exponent of one unit in the last place of an F32 result of magnitude r·2^q. -/
def ulpExp (r : Nat) (q : Int) : Int := max ((Nat.log2 r : Int) + q) (-126) - 23

/-- The delivered result of a bounded function: the proposal when it is finite and within the bound, which is given in units
of 2^q, else the reference rounded. Inexact is raised, and underflow when the result is tiny (R95, R130). -/
def deliver (fn : Nat) (x : Nat) (neg : Bool) (r : Nat) (q : Int) (bound : Nat) : Nat × Flags :=
  let ref := (roundF f32 (.fin neg r q)).1
  let y := (Config.sfu fn (BitVec.ofNat 32 x)).toNat
  let res := if withinFx (decodeF f32 y) neg r q bound then y else ref
  let tiny := decide (res % 2 ^ 31 < 2 ^ 23)
  (res, if tiny then fUnderflow ||| fInexact else fInexact)

/-- n units in the last place of r·2^q, in units of 2^q. -/
def ulps (n r : Nat) (q : Int) : Nat := n * 2 ^ (ulpExp r q - q).toNat

def one32 : Nat := 0x3F80_0000
def half32 : Nat := 0x3F00_0000

def vrcp (x : Nat) : Nat × Flags := finish f32 (divV (.fin false 1 0) (decodeF f32 x))

def vsqrt (x : Nat) : Nat × Flags :=
  match decodeF f32 x with
  | .nan => (f32.nanBits, fNone)
  | .inf s => if s then (f32.nanBits, fInvalid) else (x, fNone)
  | .fin s m e =>
    if m = 0 then (x, fNone) else if s then (f32.nanBits, fInvalid) else roundF f32 (sqrtFin m e)

def vrsq (x : Nat) : Nat × Flags :=
  match decodeF f32 x with
  | .nan => (f32.nanBits, fNone)
  | .inf s => if s then (f32.nanBits, fInvalid) else (0, fNone)
  | .fin s m e =>
    if m = 0 then (f32.infBits + (if s then signF32 else 0), fDivZero)
    else if s then (f32.nanBits, fInvalid)
    else
      let l := Nat.log2 m
      let ee : Int := e + l
      if m = 2 ^ l ∧ ee % 2 = 0 then roundF f32 (.fin false 1 (-(ee / 2)))
      else
        -- 1/√(m·2^e) = √(2^(2k) / (m·2^e)) / 2^k
        let g := if e % 2 = 0 then m else 2 * m
        let h := if e % 2 = 0 then e / 2 else (e - 1) / 2
        let r := isqrt (2 ^ 256 / g)
        let q := -h - 128
        deliver 1 x false r q (ulps 1 r q)

/-- VEXP2 (R130). A subnormal result raises underflow as R130 says, also where it is exact and R95 by itself would raise nothing; such a result
raises underflow alone (LOG 33). -/
def vexp2 (x : Nat) : Nat × Flags :=
  match decodeF f32 x with
  | .nan => (f32.nanBits, fNone)
  | .inf s => (if s then 0 else f32.infBits, fNone)
  | .fin s m e =>
    if m = 0 then (one32, fNone)
    else
      let i := (roundInt .down s m e).1
      let n : Int := if s then -(i : Int) else i
      if n ≥ 128 then (f32.infBits, fOverflow ||| fInexact)
      else if n < -200 then
        deliver 3 x false 1 (-200) (2 ^ 52)
      else if 0 ≤ e ∨ m % 2 ^ (-e).toNat = 0 then
        if n < -149 then deliver 3 x false 1 n (2 * 2 ^ (-149 - n).toNat)
        else ((roundF f32 (.fin false 1 n)).1, if n < -126 then fUnderflow else fNone)
      else
        -- x = n + f, 0 < f < 1
        let num : Int := (if s then -(m : Int) else m) - n * 2 ^ (-e).toNat
        let f := num.toNat * 2 ^ 64 / 2 ^ (-e).toNat
        let r := exp2Frac f
        let q := n - 96
        deliver 3 x false r q (ulps 2 r q)

def vlog2 (x : Nat) : Nat × Flags :=
  match decodeF f32 x with
  | .nan => (f32.nanBits, fNone)
  | .inf s => if s then (f32.nanBits, fInvalid) else (x, fNone)
  | .fin s m e =>
    if m = 0 then (f32.infBits + signF32, fDivZero)
    else if s then (f32.nanBits, fInvalid)
    else
      let l := Nat.log2 m
      let ee : Int := e + l
      if m = 2 ^ l then roundF f32 (Fv.ofInt ee)
      else
        let fr := log2Frac (m * fxOne / 2 ^ l)
        let v : Int := ee * 2 ^ 64 + fr
        let bound := if ee = 0 ∨ ee = -1 then 2 ^ 42 else ulps 2 v.natAbs (-64)
        deliver 4 x (decide (v < 0)) v.natAbs (-64) bound

/-- sin(π·u/2^64) for u in half-turns at scale 2^64, u < 2^65: sign and magnitude at scale 2^128. -/
def sinTurn (u : Nat) : Bool × Nat :=
  let neg := decide (u ≥ 2 ^ 64)
  let v := u % 2 ^ 64
  (neg, sinPiFx (if v > 2 ^ 63 then 2 ^ 64 - v else v))

/-- VSIN (cosine false) and VCOS (cosine true), in half-turns. -/
def vsincos (cosine : Bool) (x : Nat) : Nat × Flags :=
  match decodeF f32 x with
  | .nan => (f32.nanBits, fNone)
  | .inf _ => (f32.nanBits, fInvalid)
  | .fin s m e =>
    -- x mod 2, in units of 2^-149
    let t := m * 2 ^ (e + 149).toNat % 2 ^ 150
    let u := if s ∧ t ≠ 0 then 2 ^ 150 - t else t
    let one := 2 ^ 149
    let fn := if cosine then 6 else 5
    if !cosine && m == 0 then (x, fNone)
    else if u % one = 0 then
      if cosine then (if u = 0 then one32 else one32 + signF32, fNone) else (0, fNone)
    else if u % (one / 2) = 0 then
      if cosine then (0, fNone) else (if u < one then one32 else one32 + signF32, fNone)
    else
      let w := (if cosine then u + one / 2 else u) % 2 ^ 150
      let (neg, r) := sinTurn (w / 2 ^ 85)
      deliver fn x neg r (-128) (2 ^ 106)

def vtanh (x : Nat) : Nat × Flags :=
  match decodeF f32 x with
  | .nan => (f32.nanBits, fNone)
  | .inf s => (one32 + (if s then signF32 else 0), fNone)
  | .fin s m e =>
    if m = 0 then (x, fNone)
    else if (Nat.log2 m : Int) + e < -12 then (x, if m < 2 ^ 23 then fUnderflow ||| fInexact else fInexact)
    else
      -- (1 − 2^-t)/(1 + 2^-t), t = 2|x| log2 e, at scale 2^64
      let t := if (Nat.log2 m : Int) + e ≥ 6 then 128 * 2 ^ 64
        else m * 2 ^ (e + 149).toNat * 2 * log2eFx / 2 ^ 213
      let fr := t % 2 ^ 64
      let w := if fr = 0 then fxOne / 2 ^ (t / 2 ^ 64) else exp2Frac (2 ^ 64 - fr) / 2 ^ (t / 2 ^ 64 + 1)
      -- below 1 whatever x is, so that its last place is that of a value below 1
      let r := min ((fxOne - w) * fxOne / (fxOne + w)) (fxOne - 1)
      deliver 7 x s r (-96) (ulps 2 r (-96))

/-- The special function of code fn (R130). -/
def sfu (fn : Nat) (x : Nat) : Nat × Flags :=
  match fn with
  | 0 => vrcp x
  | 1 => vrsq x
  | 2 => vsqrt x
  | 3 => vexp2 x
  | 4 => vlog2 x
  | 5 => vsincos false x
  | 6 => vsincos true x
  | _ => vtanh x

end Sys2Proof.Machine
end

