-- ==== Sys2Proof/Machine/AsmObject.lean ====
section
/-! DEFINITION. lxas, the passes over the statements: directives, segments and data, tensor descriptors and launch images
(spec/04_assembler.md R75, R77, R78, R80; spec/14_queue.md R289; spec/21_engines.md R362). -/

namespace Sys2Proof.Machine

/-! ### What a pass builds -/

/-- An instruction, or padding, in a segment. -/
structure AItem where
  pos   : Nat
  file  : String
  line  : Nat
  mac   : Bool
  src   : String
  word  : Nat
  words : List Nat
  instr : Option Instr
  shape : Option Instr                           -- what R79 judges: the instruction, or that whose registers an erroneous statement names
  live  : Option (List Nat)
  deriving DecidableEq, Repr

structure ASeg where
  slot   : Nat
  system : Bool
  len    : Nat
  items  : List AItem
  deriving DecidableEq, Repr

structure AKernel where
  name    : String
  entry   : List Char
  pos     : Nat
  file    : String
  line    : Nat
  regs    : Nat := 16
  hregs   : Nat := 0
  accs    : Nat := 0
  scratch : Nat := 0
  fifo    : Nat := 0
  fifoAt  : Option (Nat × String × Nat) := none  -- the place of its `.fifo`
  xchg    : Bool := false
  det     : Bool := false
  segs    : List ASeg := []
  deriving DecidableEq, Repr

/-- A line of a data section, for the listing. -/
structure ListRow where
  pos   : Nat
  mac   : Bool
  src   : String
  off   : Nat
  bytes : List Byte
  reloc : List (Nat × Nat)                       -- offset and size of what the loader fills
  deriving DecidableEq, Repr

structure Asm where
  kernels  : List AKernel := []
  cur      : Option Sec := none
  const    : List Byte := []
  data     : List Byte := []
  relocs   : List Reloc := []
  tensors  : List (String × Sec × Nat) := []
  launches : List (String × Sec × Nat) := []
  syms     : List (String × EV) := []
  live     : Option (List Nat) := none
  lits     : List Nat := []
  rows     : List ListRow := []
  diags    : List Diag := []
  deriving DecidableEq, Repr

/-- What a pass has from the pass before it. -/
structure PassEnv where
  prev    : List (String × EV)
  kernels : List AKernel
  lits    : List Nat
  noLit   : Bool
  final   : Bool

/-! ### Text for the listing (R74, R77) -/

def asmDigit (n : Nat) : Char := "0123456789ABCDEF".toList.getD n '0'
/-- w hexadecimal digits of n. -/
def asmHex (w n : Nat) : String := String.ofList ((List.range w).map fun k => asmDigit (n / 16 ^ (w - 1 - k) % 16))
def wordText (n : Nat) : String := "0x" ++ asmHex 4 (n / 2 ^ 16) ++ "_" ++ asmHex 4 n

/-- A mnemonic as listings print it: in capitals, without `.G`. -/
def headText (h : List Char) : String := String.intercalate "." (((splitChar '.' h).map upC).filter (· != "G"))

/-- An operand as listings print it (R72): register names in capitals, and the special register that SRD, SWR or VSREG names; an expression
and its symbols stand as they are. -/
def opText (mn : String) (o : Opd) (t : List Char) : String :=
  match o with
  | .memS .. =>
    let base := t.takeWhile fun c => c != '+' && c != '-'
    upC base ++ String.ofList (t.drop base.length)
  | .text _ => if ["SRD", "SWR", "VSREG"].contains mn then upC t else String.ofList t
  | .bad _ => String.ofList t
  | _ => upC t

def stmtText (s : Stmt) : String :=
  let dir := s.head.head? == some '.'
  let head := if dir then upC s.head else headText s.head
  let mn := upC (s.head.takeWhile (· != '.'))
  let ops := if dir then s.ops.map fun t => if upC s.head == ".LIVE" then upC t else String.ofList t
    else ((opdsOf mn s.ops).zip s.ops).map fun e => opText mn e.1 e.2
  if s.ops.isEmpty then head else head ++ " " ++ String.intercalate ", " ops

/-! ### Small steps of a pass -/

def Asm.err (a : Asm) (s : Stmt) (code : String) : Asm := { a with diags := a.diags ++ [⟨s.pos, s.file, s.line, code, errText code⟩] }

def Asm.look (a : Asm) (e : PassEnv) (n : String) : Option EV :=
  match a.syms.lookup n with
  | some v => some v
  | none => e.prev.lookup n

def Asm.evalAt (a : Asm) (e : PassEnv) : AsmAt := ⟨a.look e, 0, 0, 0, false, e.noLit, false, e.final⟩

/-- Define a symbol; a second definition is E111. -/
def Asm.define (a : Asm) (s : Stmt) (n : String) (v : EV) : Asm :=
  if (a.syms.lookup n).isSome then a.err s "E111" else { a with syms := a.syms ++ [(n, v)] }

/-- The segment in which code goes: its kernel's place, and the segment. -/
def Asm.seg (a : Asm) : Option (Nat × ASeg) :=
  match a.cur with
  | some (.code k slot) => ((a.kernels[k]?).bind fun x => x.segs.find? (·.slot == slot)).map fun g => (k, g)
  | _ => none

def Asm.updSeg (a : Asm) (k slot : Nat) (f : ASeg → ASeg) : Asm :=
  { a with kernels := a.kernels.modify k fun x => { x with segs := x.segs.map fun g => if g.slot == slot then f g else g } }

/-- Put words in the current segment. -/
def Asm.putWords (a : Asm) (s : Stmt) (src : String) (words : List Nat) (i shape : Option Instr) (live : Option (List Nat)) : Asm :=
  match a.seg with
  | some (k, g) => a.updSeg k g.slot fun g =>
      { g with len := g.len + words.length, items := g.items ++ [⟨s.pos, s.file, s.line, s.mac, src, g.len, words, i, shape, live⟩] }
  | none => a

/-- The location counter: bytes in data, words in code. -/
def Asm.loc (a : Asm) : Nat :=
  match a.cur with
  | some .const => a.const.length
  | some .data => a.data.length
  | _ => (a.seg.map fun x => x.2.len).getD 0

/-- Put bytes in the current data section. -/
def Asm.putBytes (a : Asm) (bs : List Byte) : Asm :=
  match a.cur with
  | some .const => { a with const := a.const ++ bs }
  | some .data => { a with data := a.data ++ bs }
  | _ => a

def Asm.inData (a : Asm) : Bool := a.cur == some .const || a.cur == some .data

/-- The value of a label here. -/
def Asm.here (a : Asm) : Option EV :=
  match a.cur with
  | some (.code k slot) => some { n := 2048 * slot + a.loc, base := some (.code k slot) }
  | some b => some { n := a.loc, base := some b }
  | none => none

def bytesOf (size : Nat) (v : Int) : List Byte := (List.range size).map fun k => BitVec.ofInt 8 (v / 2 ^ (8 * k))

/-- Pad the location counter to a multiple of n: zero bytes in data, NOP words in code (R77). -/
def Asm.pad (a : Asm) (s : Stmt) (n : Nat) : Asm :=
  let k := (n - a.loc % n) % n
  if a.inData then a.putBytes (List.replicate k 0)
  else (List.range k).foldl (fun a _ => a.putWords s "NOP" (encode (.nop false)) (some (.nop false)) (some (.nop false)) none) a

/-- A row of the listing for what a directive put at an offset. -/
def Asm.row (a : Asm) (s : Stmt) (off : Nat) : Asm :=
  let sec := if a.cur == some .const then a.const else a.data
  let rel := (a.relocs.filter fun r => some r.site == a.cur && r.off ≥ off).map fun r => (r.off, r.size)
  { a with rows := a.rows ++ [⟨s.pos, s.mac, stmtText s, off, sec.drop off, rel⟩] }

/-- A field of size bytes at the location counter: a number, or a place that the loader fills. -/
def Asm.putValue (a : Asm) (s : Stmt) (size : Nat) (v : EV) : Asm :=
  match v.loose, a.cur, v.base with
  | true, some site, some dest =>
    let a := { a with relocs := a.relocs ++ [(⟨site, a.loc, size, dest, v.n⟩ : Reloc)] }
    a.putBytes (List.replicate size 0)
  | _, _, _ =>
    if size = 8 || (-2 ^ (8 * size - 1) ≤ v.n ∧ v.n < 2 ^ (8 * size)) then a.putBytes (bytesOf size v.n) else a.err s "E106"

/-! ### Key and value lists (R77, R78) -/

def keyValue (t : List Char) : String × List Char :=
  let k := t.takeWhile (· != '=')
  (upC (trimC k), trimC (t.drop (k.length + 1)))

/-- The numbers of `(x, y, z)`. -/
def tripleOf (c : AsmAt) (t : List Char) : Except String (List Int) :=
  match t with
  | '(' :: r => (fieldsOf (r.reverse.drop 1).reverse).mapM c.num
  | _ => .error "E113"

/-! ### Tensor descriptors (R362) -/

def formatNames : List (String × Nat) := [("INT8", 0), ("INT4", 1), ("LT8", 2), ("LT6", 3), ("B8", 4), ("B16", 5), ("B32", 6), ("B64", 7)]

/-- The keys of `.tensor`: the first bit and the width of the field, and whether its value is signed. -/
def tensorKeys : List (String × Nat × Nat × Bool) :=
  [("SE", 480, 8, true), ("STRIDE4", 432, 48, true), ("STRIDE3", 384, 48, true), ("STRIDE2", 336, 48, true), ("STRIDE1", 288, 48, true),
   ("DIM4", 256, 32, false), ("DIM3", 224, 32, false), ("DIM2", 192, 32, false), ("DIM1", 160, 32, false), ("DIM0", 128, 32, false)]

/-- A descriptor under construction: its bits above the two addresses, and the addresses. -/
structure TensorDesc where
  fields : List (Nat × Nat × Nat)                -- first bit, width, value
  base   : EV
  plane  : EV
  rank   : Nat

/-- Give a field its value; of a key given twice the last value stands (LOG 34). -/
def TensorDesc.put (lo w n : Nat) (d : TensorDesc) : TensorDesc := { d with fields := d.fields.filter (·.1 != lo) ++ [(lo, w, n)] }

def tensorKey (c : AsmAt) (d : TensorDesc) (kv : List Char) : Except String TensorDesc :=
  let (k, v) := keyValue kv
  match k with
  | "BASE" => (c.eval v).map fun x => { d with base := x }
  | "BEPLANE" => (c.eval v).map fun x => { d with plane := x }
  | "FORMAT" => match formatNames.lookup (upC v) with
    | some n => .ok (d.put 488 4 n)
    | none => .error "E113"
  | "SPACE" => match c.num v with
    | .ok n => if n = 0 ∨ n = 1 then .ok (d.put 495 1 n.toNat) else .error "E113"
    | .error e => .error e
  | "RANK" => match c.num v with
    | .ok n => if 1 ≤ n ∧ n ≤ 5 then .ok { d.put 492 3 n.toNat with rank := n.toNat } else .error "E113"
    | .error e => .error e
  | k => match tensorKeys.lookup k, c.num v with
    | some (lo, w, sg), .ok n =>
      if (if sg then -2 ^ (w - 1) ≤ n ∧ n < 2 ^ w else 0 ≤ n ∧ n < 2 ^ w) then
        .ok (d.put lo w (n % 2 ^ w).toNat)
      else .error "E113"
    | none, _ => .error "E113"
    | _, .error e => .error e

def TensorDesc.empty : TensorDesc := ⟨[], ⟨0, none, false⟩, ⟨0, none, false⟩, 0⟩

/-- A field that is not named is zero, but for an extent at or above the rank, which is 1 (R362). -/
def tensorDesc (c : AsmAt) (kvs : List (List Char)) : Except String TensorDesc :=
  match kvs.foldlM (tensorKey c) TensorDesc.empty with
  | .ok d =>
    if d.rank = 0 then .error "E113"
    else .ok ((List.range 5).foldl (fun d k =>
      if k < d.rank || d.fields.any (·.1 == 128 + 32 * k) then d else d.put (128 + 32 * k) 32 1) d)
  | .error e => .error e

/-- The error of a value. -/
def errOf {α : Type} : Except String α → List String
  | .error e => [e]
  | .ok _ => []
/-- The errors of a key and value list, each key's own (R86). -/
def listErrors {α : Type} (key : α → List Char → Except String α) (d : α) (kvs : List (List Char)) : List String :=
  kvs.flatMap fun kv => errOf (key d kv)
/-- What the keys without an error give. -/
def goodKeys {α : Type} (key : α → List Char → Except String α) (d : α) (kvs : List (List Char)) : α :=
  kvs.foldl (fun d kv => match key d kv with
    | .ok d => d
    | .error _ => d) d
def Asm.errs (a : Asm) (s : Stmt) (codes : List String) : Asm := codes.foldl (fun a c => a.err s c) a

def dirTensor (e : PassEnv) (a : Asm) (s : Stmt) : Asm :=
  match s.ops with
  | name :: kvs =>
    match tensorDesc (a.evalAt e) kvs, a.here, a.cur with
    | .ok d, some h, some sec =>
      let off := a.loc
      let a := a.define s (String.ofList name) h
      let v := d.fields.foldl (fun n x => n + x.2.2 * 2 ^ (x.1 - 128)) 0
      let a := { a with tensors := a.tensors ++ [(String.ofList name, sec, off)] }
      (((a.putValue s 8 d.base).putValue s 8 d.plane).putBytes (bytesOf 48 v)).row s off
    | .error c, _, _ =>
      let key := tensorKey (a.evalAt e)
      let l := listErrors key TensorDesc.empty kvs
      let named := kvs.any fun kv => (keyValue kv).1 == "RANK"
      a.errs s (if l.isEmpty then [c] else l ++ (if named then [] else ["E113"]))
    | _, _, _ => a.err s "E112"
  | [] => a.err s "E103"

/-! ### Launch images (R78, R289) -/

structure LaunchKeys where
  grid    : List Int
  waves   : Int
  cluster : Int
  prio    : Int
  args    : EV
  done    : EV
  gridbar : Int

/-- One key of `.launch`; of a key given twice the last value stands (LOG 34). -/
def launchKey (c : AsmAt) (l : LaunchKeys) (kv : List Char) : Except String LaunchKeys :=
  let (k, v) := keyValue kv
  match k with
  | "GRID" => (tripleOf c v).map fun x => { l with grid := x }
  | "WAVES" => (c.num v).map fun x => { l with waves := x }
  | "CLUSTER" => (c.num v).map fun x => { l with cluster := x }
  | "PRIO" => (c.num v).map fun x => { l with prio := x }
  | "ARGS" => (c.eval v).map fun x => { l with args := x }
  | "DONE" => (c.eval v).map fun x => { l with done := x }
  | "GRIDBAR" => if v.isEmpty then .ok { l with gridbar := 1 } else (c.num v).map fun x => { l with gridbar := x }
  | _ => .error "E113"

/-- Whether a kernel's windows, exchange pairs and FIFO banks fit (R78, R187). -/
def AKernel.banksOk (k : AKernel) : Bool := decide ((k.scratch + 7) / 8 + (if k.xchg then 2 else 0) + k.fifo ≤ 38)

def LaunchKeys.empty : LaunchKeys := ⟨[1, 1, 1], 1, 1, 0, ⟨0, none, false⟩, ⟨0, none, false⟩, 0⟩

/-- The errors of the ranges of R78 and R289, and of the banks of R187, which are judged at the kernel's `.fifo` where it has one. -/
def launchErrors (k : AKernel) (l : LaunchKeys) : List String :=
  let bad := fun (p : Bool) => if p then [] else ["E113"]
  (match l.grid with
    | [x, y, z] => bad (decide (1 ≤ x ∧ x < 2 ^ 32)) ++ bad (decide (1 ≤ y ∧ y < 2 ^ 16)) ++ bad (decide (1 ≤ z ∧ z < 2 ^ 16))
    | _ => ["E113"])
  ++ bad (decide (1 ≤ l.waves ∧ l.waves ≤ 16)) ++ bad (decide (1 ≤ l.cluster ∧ l.cluster ≤ 4)) ++ bad (decide (0 ≤ l.prio ∧ l.prio ≤ 31))
  ++ bad (decide (l.gridbar = 0 ∨ l.gridbar = 1)) ++ bad (k.fifoAt.isSome || k.banksOk)

/-- The errors of the keys: those of a grid's three values each for itself. -/
def launchKeyErrors (c : AsmAt) (kvs : List (List Char)) : List String :=
  kvs.flatMap fun kv =>
    let (k, v) := keyValue kv
    match k == "GRID", v with
    | true, '(' :: r => (fieldsOf (r.reverse.drop 1).reverse).flatMap fun t => errOf (c.num t)
    | _, _ => errOf (launchKey c LaunchKeys.empty kv)

def dirLaunch (e : PassEnv) (a : Asm) (s : Stmt) : Asm :=
  match s.ops with
  | name :: kvs =>
    let c := a.evalAt e
    match e.kernels.find? fun k => k.name == String.ofList name with
    | none =>
      let a := a.putBytes (List.replicate 64 0)
      if e.final then a.err s "E111" else a
    | some k =>
      match kvs.foldlM (launchKey c) LaunchKeys.empty, evalText c.look k.entry, a.cur with
      | .ok l, .ok en, some sec =>
        if !(launchErrors k l).isEmpty then a.errs s (launchErrors k l)
        else
          let b := fun n : Bool => if n then (1 : Int) else 0
          let off := a.loc
          let g := fun n => l.grid.getD n 0
          let a := { a with launches := a.launches ++ [(k.name, sec, off)] }
          let a := a.putBytes (bytesOf 4 (1 + l.prio * 4 + b k.det * 128 + l.gridbar * 256 + b k.xchg * 512 + (l.cluster - 1) * 1024))
          let a := a.putBytes (bytesOf 4 (en.n * 2 ^ 16))
          let a := a.putBytes (bytesOf 4 (g 0) ++ bytesOf 2 (g 1) ++ bytesOf 2 (g 2))
          let a := a.putBytes (bytesOf 1 l.waves ++ bytesOf 1 k.regs ++ bytesOf 1 k.hregs ++ bytesOf 1 k.accs)
          let a := a.putBytes (bytesOf 2 k.scratch ++ bytesOf 1 k.fifo ++ [0])
          (((a.putValue s 8 l.args).putValue s 8 l.done).putBytes (List.replicate 24 0)).row s off
      | l, en, _ =>
        let wrong := launchKeyErrors c kvs ++ launchErrors k (goodKeys (launchKey c) LaunchKeys.empty kvs) ++ errOf en
        a.errs s (if wrong.isEmpty then errOf l ++ (if a.cur.isNone then ["E112"] else []) else wrong)
  | [] => a.err s "E103"

/-! ### Other directives (R77, R82) -/

/-- A decimal number as an exact value: its quotient with enough bits for one rounding, and a last bit for what is left. -/
def decimalFv (x : Bool × Nat × Int) : Fv :=
  let num := x.2.1 * 10 ^ x.2.2.toNat
  let den := 10 ^ (-x.2.2).toNat
  let k := 200 + Nat.log2 den
  if num = 0 then .fin x.1 0 0
  else .fin x.1 (num * 2 ^ k / den * 2 + (if num * 2 ^ k % den = 0 then 0 else 1)) (-(k : Int) - 1)

def setting (a : Asm) (s : Stmt) (f : AKernel → Except String AKernel) : Asm :=
  match a.kernels.getLast? with
  | none => a.err s "E112"
  | some k => match f k with
    | .ok k => { a with kernels := a.kernels.dropLast ++ [k] }
    | .error c => a.err s c

/-- One number of a setting, in its range. -/
def setNum (e : PassEnv) (a : Asm) (s : Stmt) (ok : Int → Bool) (f : AKernel → Nat → AKernel) : Asm :=
  setting a s fun k =>
    match s.ops with
    | [t] => match (a.evalAt e).num t with
      | .ok n => if ok n then .ok (f k n.toNat) else .error "E113"
      | .error c => .error c
    | _ => .error "E103"

def dirKernel (a : Asm) (s : Stmt) : Asm :=
  match s.ops with
  | [n, en] =>
    let a := if a.kernels.any fun k => k.name == String.ofList n then a.err s "E111" else a
    { a with kernels := a.kernels ++ [{ name := String.ofList n, entry := en, pos := s.pos, file := s.file, line := s.line }], cur := none }
  | _ => a.err s "E103"

def dirSegment (e : PassEnv) (a : Asm) (s : Stmt) : Asm :=
  match a.kernels.getLast?, s.ops with
  | none, _ => a.err s "E112"
  | some k, n :: attr =>
    let odd := if attr.isEmpty || attr.map upC == ["SYSTEM"] then [] else ["E103"]
    match (a.evalAt e).num n with
    | .error c => a.errs s (c :: odd)
    | .ok i =>
      if i < 0 ∨ i > 15 then a.errs s ("E113" :: odd)
      else if !odd.isEmpty then a.errs s odd
      else
        let slot := i.toNat
        let sys := !attr.isEmpty
        let segs := if k.segs.any (·.slot == slot) then k.segs.map fun g => if g.slot == slot then { g with system := g.system || sys } else g
          else k.segs ++ [⟨slot, sys, 0, []⟩]
        { a with kernels := a.kernels.dropLast ++ [{ k with segs }], cur := some (.code (a.kernels.length - 1) slot) }
  | _, [] => a.err s "E103"

/-- `.byte`, `.half`, `.word`, `.dword`. -/
def dirInts (e : PassEnv) (size : Nat) (a : Asm) (s : Stmt) : Asm :=
  if !a.inData then a.err s "E112"
  else if s.ops.isEmpty then a.err s "E103"
  else
    let off := a.loc
    (s.ops.foldl (fun a t => match (a.evalAt e).eval t with
      | .ok v => a.putValue s size v
      | .error c => a.err s c) a).row s off

/-- `.f32` and `.lt8`. -/
def dirDecimals (size : Nat) (conv : Fv → Nat) (a : Asm) (s : Stmt) : Asm :=
  if !a.inData then a.err s "E112"
  else if s.ops.isEmpty then a.err s "E103"
  else
    let off := a.loc
    (s.ops.foldl (fun a t => match decimalVal t with
      | some x => a.putBytes (bytesOf size (conv (decimalFv x)))
      | none => a.err s "E103") a).row s off

/-- `.hv`: the given words in order until 256 are filled; a data label among them is relocated. -/
def dirHv (e : PassEnv) (a : Asm) (s : Stmt) : Asm :=
  let n := s.ops.length
  if !a.inData then a.err s "E112"
  else if n = 0 ∨ n > 256 then a.err s "E103"
  else
    let word : List Char → Except String EV := fun t => match (a.evalAt e).eval t with
      | .ok v => if v.loose || (-2 ^ 31 ≤ v.n ∧ v.n < 2 ^ 32) then .ok v else .error "E106"
      | .error c => .error c
    match s.ops.mapM word with
    | .error _ => a.errs s (listErrors (fun _ t => (word t).map fun _ => ()) () s.ops)
    | .ok vs =>
      let off := a.loc
      ((List.range 256).foldl (fun a k => a.putValue s 4 (vs.getD (k % n) ⟨0, none, false⟩)) a).row s off

/-- `.live`: vector registers for the next instruction, below the kernel's `.regs` wherever that stands. -/
def dirLive (e : PassEnv) (a : Asm) (s : Stmt) : Asm :=
  if a.seg.isNone then a.err s "E112"
  else
    let rs := s.ops.filterMap fun t => match parseOpd t with
      | .v n none => some n.val
      | _ => none
    let a := a.errs s (List.replicate (s.ops.length - rs.length) "E103")
    let vdecl := (((e.kernels[a.kernels.length - 1]?).orElse fun _ => a.kernels.getLast?).map (·.regs)).getD 16
    let a := if rs.any (· ≥ vdecl) then
        { a with diags := a.diags ++ [⟨s.pos, s.file, s.line, "W205", ".live register beyond .regs"⟩] }
      else a
    { a with live := some (a.live.getD [] ++ rs.filter (· < vdecl)) }

/-- What a statement aligns to before anything else (R77, R78). -/
def alignOf (e : PassEnv) (a : Asm) (d : String) (s : Stmt) : Except String Nat :=
  match d, s.ops with
  | ".ALIGN", [t] => match (a.evalAt e).num t with
    | .ok n => if 0 < n ∧ 2 ^ Nat.log2 n.toNat = n.toNat then .ok n.toNat else .error "E106"
    | .error c => .error c
  | ".ALIGN", _ => .error "E103"
  | ".HV", _ => .ok 64
  | ".TENSOR", _ => .ok 64
  | ".LAUNCH", _ => .ok 64
  | _, _ => .ok 1

/-- The directive itself, after its padding and its label. -/
def directive (e : PassEnv) (d : String) (a : Asm) (s : Stmt) : Asm :=
  match d with
  | ".KERNEL" => dirKernel a s
  | ".SEGMENT" => dirSegment e a s
  | ".REGS" => setNum e a s (fun n => n = 16 || n = 32 || n = 48 || n = 64) fun k n => { k with regs := n }
  | ".HREGS" =>
    let upTo : Int → List Char → Except String Nat := fun n t => match (a.evalAt e).num t with
      | .ok i => if 0 ≤ i ∧ i ≤ n then .ok i.toNat else .error "E113"
      | .error c => .error c
    match s.ops with
    | [h, c] => match upTo 16 h, upTo 4 c with
      | .ok h, .ok c => setting a s fun k => .ok { k with hregs := h, accs := c }
      | h, c => if a.kernels.isEmpty then a.err s "E112" else a.errs s (errOf h ++ errOf c)
    | _ => if a.kernels.isEmpty then a.err s "E112" else a.err s "E103"
  | ".SCRATCH" => setNum e a s (fun n => 0 ≤ n && n ≤ 304) fun k n => { k with scratch := n }
  | ".FIFO" => setNum e a s (fun n => 0 ≤ n && n ≤ 38) fun k n => { k with fifo := n, fifoAt := some (s.pos, s.file, s.line) }
  | ".XCHG" => setting a s fun k => if s.ops.isEmpty then .ok { k with xchg := true } else .error "E103"
  | ".DET" => setting a s fun k => if s.ops.isEmpty then .ok { k with det := true } else .error "E103"
  | ".CONST" => { (if s.ops.isEmpty then a else a.err s "E103") with cur := some .const }
  | ".DATA" => { (if s.ops.isEmpty then a else a.err s "E103") with cur := some .data }
  | ".TENSOR" => if a.inData then dirTensor e a s else a.err s "E112"
  | ".LAUNCH" => if a.inData then dirLaunch e a s else a.err s "E112"
  | ".EQU" => match s.ops with
    | [n, t] => match (a.evalAt e).eval t with
      | .ok v => a.define s (String.ofList n) v
      | .error c => a.err s c
    | _ => a.err s "E103"
  | ".ALIGN" => if a.cur.isNone then a.err s "E112" else a
  | ".BYTE" => dirInts e 1 a s
  | ".HALF" => dirInts e 2 a s
  | ".WORD" => dirInts e 4 a s
  | ".DWORD" => dirInts e 8 a s
  | ".F32" => dirDecimals 4 (fun x => (roundF f32 x).1) a s
  | ".LT8" => dirDecimals 1 (fun x => (roundLT .lt8 x).1) a s
  | ".HV" => dirHv e a s
  | ".LIVE" => dirLive e a s
  | _ => a.err s "E112"

/-- An instruction of the current segment. -/
def codeStmt (e : PassEnv) (a : Asm) (s : Stmt) : Asm :=
  match a.seg with
  | none => a.err s (if isMnemonic (upC (s.head.takeWhile (· != '.'))) then "E112" else "E101")
  | some (k, g) =>
    let c : AsmAt := ⟨a.look e, k, g.slot, g.len, e.lits.contains s.pos, e.noLit, g.system, e.final⟩
    match asmInstr c s.head s.ops with
    | .error x =>
      let l := asmErrors c s.head s.ops
      (a.putWords s (stmtText s) [0] none (shapeOf c s.head s.ops) none).errs s (if l.isEmpty then [x] else l)
    | .ok i =>
      -- HTHR's count register written as s0 is a write of s0; left out, it is none (R85)
      let zero := match i with
        | .hthr _ _ _ k => k.val = 0 && s.ops.length = 3
        | _ => false
      let a := if zero then { a with diags := a.diags ++ [⟨s.pos, s.file, s.line, "W202", "write to s0 or m0 is discarded"⟩] } else a
      let a := if (encode i).length > 1 then { a with lits := s.pos :: a.lits } else a
      { a.putWords s (stmtText s) (encode i) (some i) (some i) a.live with live := none }

/-- One statement. -/
def stmtStep (e : PassEnv) (a : Asm) (s : Stmt) : Asm :=
  let d := upC s.head
  let isDir := s.head.head? == some '.'
  let (a, n) := match alignOf e a d s with
    | .ok n => (a, n)
    | .error c => (a.err s c, 1)
  let a := if isDir && (a.inData || (d == ".ALIGN" && a.seg.isSome)) then a.pad s n else a
  let a := match s.label with
    | none => a
    | some l => match a.here with
      | some v => a.define s l v
      | none => a.err s "E112"
  if s.head.isEmpty then a else if isDir then directive e d a s else codeStmt e a s

/-- A pass over all statements. -/
def onePass (e : PassEnv) (ss : List Stmt) (defs : List (String × EV)) : Asm := ss.foldl (stmtStep e) { syms := defs }

/-- Passes until symbols, kernels and LIT groups stand still; the first argument bounds them. With `keep`, an instruction that took LIT in
one pass takes it from then on. -/
def passes (ss : List Stmt) (defs : List (String × EV)) (noLit keep : Bool) : Nat → PassEnv → PassEnv
  | 0, e => e
  | f + 1, e =>
    let a := onePass e ss defs
    let lits := if keep then a.lits ++ e.lits.filter (!a.lits.contains ·) else []
    let e' : PassEnv := ⟨a.syms, a.kernels, lits, noLit, false⟩
    if a.syms == e.prev && a.kernels == e.kernels && lits.length == e.lits.length then e' else passes ss defs noLit keep f e'

/-- The sources assembled: the result of the last pass. Each immediate is judged by its own value (R75); only where a LIT group's words move
the value that asks for it, so that no choice stands still, a group once taken stays. Of two `-D` of one name the first stands
(LOG 34). -/
def assembleStmts (ss : List Stmt) (defs : List (String × EV)) (noLit : Bool) : Asm :=
  let last := fun (keep : Bool) (e : PassEnv) => onePass { passes ss defs noLit keep (ss.length + 3) e with final := true } ss defs
  let e := passes ss defs noLit false (ss.length + 3) ⟨defs, [], [], noLit, false⟩
  let a := onePass { e with final := true } ss defs
  if a.syms == e.prev then a else last true ⟨a.syms, a.kernels, [], noLit, false⟩

end Sys2Proof.Machine
end

