-- ==== Sys2Proof/Machine/Ops.lean ====
section
/-! DEFINITION. The named operations over the state: memory cells, registers and labels, waves and groups, the agenda,
fault log, taking a trap and returning from one (spec/03_formats.md R48 to R56, spec/13_context.md R265 to R274). -/

namespace Sys2Proof.Machine

/-! ### Tables by number -/

/-- The entry of `k` in a table of pairs, or `d`. -/
def look {α : Type} (d : α) (k : Nat) : List (Nat × α) → α
  | [] => d
  | (i, x) :: l => if i = k then x else look d k l

/-- Replace or add the entry of `k`, in rising order of the numbers. -/
def enter {α : Type} (k : Nat) (x : α) : List (Nat × α) → List (Nat × α)
  | [] => [(k, x)]
  | (i, y) :: l => if k < i then (k, x) :: (i, y) :: l else if k = i then (k, x) :: l else (i, y) :: enter k x l

/-- A file of `len` registers with register n written; one that the list lacks reads as `d`. -/
def setReg {α : Type} (len n : Nat) (x d : α) (l : List α) : List α := (List.range len).map fun k => if k = n then x else l.getD k d

/-- Change every element for which `p` holds. -/
def amend {α : Type} (p : α → Bool) (f : α → α) (l : List α) : List α := l.map fun x => if p x then f x else x

/-- Change the first element for which `p` holds: the one that `find? p` gives. -/
def amendFirst {α : Type} (p : α → Bool) (f : α → α) : List α → List α
  | [] => []
  | x :: l => if p x then f x :: l else x :: amendFirst p f l

/-- Fold a state over a list. -/
def overList {α : Type} (f : α → State → State) (l : List α) (s : State) : State := l.foldl (fun s x => f x s) s

/-! ### Memory as cells in canonical form (LOG 5) -/

/-- What a byte of memory that nothing has written reads as (LOG 5). -/
def unwritten : Byte := 0

/-- The byte at an address: addresses rise along the list. -/
def cellGet (a : Nat) : List Host.Cell → Byte
  | [] => unwritten
  | (i, b) :: l => if i = a then b else if a < i then unwritten else cellGet a l

/-- Store one byte; an entry equal to what an unlisted address reads as is not kept. -/
def cellPut (a : Nat) (b : Byte) : List Host.Cell → List Host.Cell
  | [] => if b = unwritten then [] else [(a, b)]
  | (i, c) :: l =>
    if a < i then (if b = unwritten then (i, c) :: l else (a, b) :: (i, c) :: l)
    else if a = i then (if b = unwritten then l.dropWhile fun e => decide (e.1 ≤ a) else (a, b) :: l)
    else (i, c) :: cellPut a b l

/-- The canonical form: addresses strictly rising, no entry equal to `unwritten`. -/
def cellsWf : List Host.Cell → Bool
  | [] => true
  | [(_, b)] => b != unwritten
  | (i, b) :: (j, c) :: l => b != unwritten && decide (i < j) && cellsWf ((j, c) :: l)

/-- n bytes from an address up. -/
def cellBytes (m : List Host.Cell) (a n : Nat) : List Byte := (List.range n).map fun k => cellGet (a + k) m

/-- Store bytes from an address up. -/
def cellPuts (m : List Host.Cell) (a : Nat) : List Byte → List Host.Cell
  | [] => m
  | b :: bs => cellPuts (cellPut a b m) (a + 1) bs

/-- Little-endian value of bytes, and the bytes of a value (R3). -/
def leVal : List Byte → Nat
  | [] => 0
  | b :: bs => b.toNat + 256 * leVal bs
def leBytes : Nat → Nat → List Byte
  | 0, _ => []
  | n + 1, v => BitVec.ofNat 8 v :: leBytes n (v / 256)

def cellVal (m : List Host.Cell) (a n : Nat) : Nat := leVal (cellBytes m a n)

/-- The canonical form of the state's three memories, which every memory operation keeps. -/
def Mem.wf (m : Mem) : Bool := cellsWf m.cells && cellsWf m.remote && cellsWf m.host

/-! ### Parts of the state -/

namespace State

def now (s : State) : Nat := s.clk.cycle
def core (s : State) (n : Nat) : Core := look Core.reset n s.cores
def updCore (n : Nat) (f : Core → Core) (s : State) : State := s.setCores (enter n (f (s.core n)) s.cores)
def ctx (s : State) (n : Nat) : Ctx := (s.ctxs.find? (·.id == n)).getD (Ctx.reset n)
def updCtx (n : Nat) (f : Ctx → Ctx) (s : State) : State :=
  s.setCtxs (f (s.ctx n) :: s.ctxs.filter (·.id != n))
def owner? (s : State) (o : Nat) : Option Owner := s.owners.find? (·.id == o)
def updOwner (o : Nat) (f : Owner → Owner) (s : State) : State := s.setOwners (amendFirst (·.id == o) f s.owners)
def timed (s : State) (o : Nat) : Bool := ((s.owner? o).map (·.timed)).getD false
def group? (s : State) (g : Nat) : Option Group := s.groups.find? (·.gid == g)
def updGroup (g : Nat) (f : Group → Group) (s : State) : State := s.setGroups (amendFirst (·.gid == g) f s.groups)
def wave? (s : State) (r : WaveRef) : Option Wave := (s.group? r.gid).bind fun g => g.waves[r.wave]?
def updWave (r : WaveRef) (f : Wave → Wave) (s : State) : State :=
  s.updGroup r.gid fun g => { g with waves := g.waves.modify r.wave f }
def kernel? (s : State) (k : Nat) : Option Kernel := s.hub.kernels.find? (·.id == k)
def updKernel (k : Nat) (f : Kernel → Kernel) (s : State) : State :=
  s.setHub { s.hub with kernels := amendFirst (·.id == k) f s.hub.kernels }
def updSlot (n : Nat) (f : QSlot → QSlot) (s : State) : State :=
  s.setHub { s.hub with slots := amendFirst (·.n == n) f s.hub.slots }
/-- A fresh number for a request, entry, store or job. -/
def fresh (s : State) : Nat × State := (s.mem.nextId, s.setMem { s.mem with nextId := s.mem.nextId + 1 })
/-- The next free value (LOG 4). -/
def draw (s : State) : BitVec 64 × State := (Config.freeValue s.free, s.setFree (s.free + 1))

/-- Put a step of the device into the agenda, behind those of the same cycle (LOG 1). -/
def agendaPut (c : Nat) (i : Instr) : List (Nat × Instr) → List (Nat × Instr)
  | [] => [(c, i)]
  | (d, j) :: l => if c < d then (c, i) :: (d, j) :: l else (d, j) :: agendaPut c i l
def schedule (c : Nat) (i : Instr) (s : State) : State := s.setAgenda (agendaPut c i s.agenda)
/-- As schedule, unless the step already stands in the agenda. -/
def scheduleOnce (c : Nat) (i : Instr) (s : State) : State :=
  if s.agenda.any (fun e => e.2 = i) then s else s.schedule c i
def unschedule (i : Instr) (s : State) : State := s.setAgenda (s.agenda.filter fun e => e.2 ≠ i)

end State

/-! ### Wall-clock times (R2) -/

/-- Wall-clock microseconds in cycles at the present clock step (R2). -/
def usCycles (s : State) (us : Nat) : Nat := us * s.clk.mhz
/-- Ticks of the wall-clock reference in one microsecond: every clock step of R418 makes a whole number of ticks per cycle. -/
def usTicks : Nat := 222768000
/-- The wall-clock reference, which a clock step does not change (R2). -/
def State.wall (s : State) : Nat := s.clk.ref + (s.now - s.clk.refAt) * (usTicks / s.clk.mhz)
/-- Whether some microseconds have passed since the reference stood at a value. -/
def usPassed (s : State) (since us : Nat) : Bool := decide (since + us * usTicks ≤ s.wall)

/-- The first cycle at which some microseconds have passed since the reference stood at a value. -/
def wallDue (s : State) (since us : Nat) : Nat :=
  let t := usTicks / s.clk.mhz
  s.now + (since + us * usTicks - s.wall + t - 1) / t

/-- Steps of the device that a fixed wall-clock time brings (R2). -/
def wallStep : Instr → Bool
  | .fabricTimeout _ | .senderTeardown _ | .receiverTeardown _ | .retransmit _ | .tagHoldExpire .. | .patienceExpire _
  | .pendLimitExpire .. => true
  | _ => false
/-- At a new clock step, what is left of the wall-clock times spans another number of cycles, rounded up (R2, LOG 35). -/
def rescale (mhz : Nat) (s : State) : State :=
  let old := s.clk.mhz
  let due := s.agenda.filter fun e => wallStep e.2
  due.foldl (fun s e => s.schedule (s.now + ((e.1 - s.now) * mhz + old - 1) / old) e.2)
    (s.setAgenda (s.agenda.filter fun e => !wallStep e.2))

/-- A choice of placement, for an owner (R314): at once, or at the next boundary for a TIMED owner (R38). -/
def placeOpp (o : Nat) (s : State) : State :=
  s.scheduleOnce (if s.timed o then s.clk.boundary else s.now) (.groupPlace (Fin.ofNat 8 o))
/-- A choice of dispatch, for an owner (R292). -/
def dispatchOpp (o : Nat) (s : State) : State :=
  s.scheduleOnce (if s.timed o then s.clk.boundary else s.now) (.dispatch (Fin.ofNat 8 o))

/-! ### Lanes (R148) -/

namespace Wave

def live (w : Wave) (l : Nat) : Bool := !w.exited.getLsbD l
def pcAt (w : Wave) (l : Nat) : Nat := w.pcs.getD l 0
def liveLanes (w : Wave) : List Nat := (List.range 64).filter w.live
/-- IssueAddress: the smallest PC of the lanes that have not exited. -/
def issueAddr (w : Wave) : Option Nat := (w.liveLanes.map w.pcAt).min?
/-- A set of lanes as a mask. -/
def laneMask (p : Nat → Bool) : BitVec 64 :=
  BitVec.ofNat 64 ((List.range 64).foldl (fun n l => if p l then n + 2 ^ l else n) 0)
def activeMask (w : Wave) : BitVec 64 :=
  match w.issueAddr with
  | none => 0
  | some a => laneMask fun l => w.live l && w.pcAt l == a
/-- Set the PC of the lanes of a mask. -/
def setPcs (m : BitVec 64) (f : Nat → Nat) (w : Wave) : Wave :=
  { w with pcs := (List.range 64).map fun l => if m.getLsbD l then f l else w.pcAt l }

/-! ### Registers (R48, R50, R54) -/

def sreg (w : Wave) (n : Nat) : UReg := if n = 0 then .zero else w.s.getD n .zero
def vreg (w : Wave) (n : Nat) : VReg := w.v.getD n .zero
def mreg (w : Wave) (n : Nat) : MaskReg := if n = 0 then ⟨BitVec.allOnes 64, 0⟩ else w.m.getD n .zero
def xreg (w : Wave) (k : Nat) : XReg := w.x.getD k .zero
/-- The 64-bit value of a uniform pair, n even, and its label. -/
def pair (w : Wave) (n : Nat) : Nat := (w.sreg n).val.toNat + 2 ^ 32 * (w.sreg (n + 1)).val.toNat
def pairLab (w : Wave) (n : Nat) : Label := (w.sreg n).lab ||| (w.sreg (n + 1)).lab

/-- R54: the outstanding writes of a register do not take place. -/
def cancel (t : Target) (w : Wave) : Wave :=
  let off := fun (p : Pend) => { p with ws := p.ws.map fun r => if r.tgt = t then { r with live := false } else r }
  { w with pend := w.pend.map off, held := w.held.map off }

def putS (n : Nat) (v : Word) (l : Label) (w : Wave) : Wave :=
  if n = 0 then w else { w with s := setReg 64 n ⟨v, l⟩ .zero w.s }
def putV (n : Nat) (r : VReg) (w : Wave) : Wave := { w with v := setReg 64 n r .zero w.v }
def putM (n : Nat) (v : BitVec 64) (l : Label) (w : Wave) : Wave :=
  if n = 0 then w else { w with m := setReg 8 n ⟨v, l⟩ .zero w.m }
/-- A pipe write of a uniform register. -/
def writeS (n : Nat) (v : Word) (l : Label) (w : Wave) : Wave := (w.cancel (.s n)).putS n v l

/-- A lane of a vector register. -/
def lane (w : Wave) (n l : Nat) : Word := (w.vreg n).val.getD l 0

/-- The new contents and label of a vector register that takes `f` in the lanes of `m` (R108): the previous label stays in
when a lane keeps its value, or `part` says that some bits do. -/
def mergeV (old : VReg) (m : BitVec 64) (part : Bool) (f : Nat → Word) (lab : Label) : VReg :=
  { val := (List.range 64).map fun l => if m.getLsbD l then f l else old.val.getD l 0
    lab := if part || m != BitVec.allOnes 64 then lab ||| old.lab else lab }
/-- A pipe write of a vector register. -/
def writeV (n : Nat) (m : BitVec 64) (part : Bool) (f : Nat → Word) (lab : Label) (w : Wave) : Wave :=
  (w.cancel (.v n)).putV n (mergeV (w.vreg n) m part f lab)

/-- SetFlags with the label of R69. -/
def raise (f : Flags) (lab : Label) (w : Wave) : Wave :=
  { w with fflags := ⟨w.fflags.val ||| f.setWidth 32, w.fflags.lab ||| lab⟩ }
def absorb (l : Label) (w : Wave) : Wave := { w with ctxlbl := w.ctxlbl ||| l }

/-- Return-buffer entries in use (R51), and those of the SFU queue: an entry of either is free again once a park commits it (LOG 33: the
spec does not say when an entry of the SFU queue becomes free). -/
def entries (w : Wave) : Nat := (w.pend.filter (·.entry)).length
def sfuEntries (w : Wave) : Nat := (w.pend.filter (·.sfu)).length
/-- Nothing of the wave is outstanding that a park waits for. -/
def settled (w : Wave) : Bool := w.pend.all (·.left == 0)
def hasEnded (w : Wave) : Bool := w.status = .ended

end Wave

/-- OCYC of a group (R37). -/
def Group.ocycAt (g : Group) (now : Nat) : Nat := g.ocyc + (match g.counting with | some c => now - c | none => 0)
def Group.resident (g : Group) : Bool := g.place.isSome
def Group.freeze (now : Nat) (g : Group) : Group := { g with ocyc := g.ocycAt now, counting := none }

/-- The tenant bit of a context (R262). -/
def tenantBit (t : Nat) : Label := BitVec.ofNat 16 (2 ^ t)

/-! ### Segment slots (R156) -/

def Core.slot (c : Core) (n : Nat) : Slot := c.slots.getD n Slot.empty
def Core.updSlot (n : Nat) (f : Slot → Slot) (c : Core) : Core := { c with slots := c.slots.modify n f }

/-- Whether a slot is granted to a kernel on a core, or holds the context's handler (R156, R267). -/
def slotGranted (c : Core) (n k : Nat) : Bool := (c.slot n).kernel == some k

/-- The image that each PRESENT slot of a group's kernel on its core was last loaded from (R300). -/
def slotImages (s : State) (g : Group) : List SlotImage :=
  match g.place with
  | none => []
  | some p => (List.range 16).filterMap fun n =>
    let sl := (s.core p.core).slot n
    if (sl.st = .present || sl.st = .held) && (n == 15 || sl.kernel == some g.kernel) then some ⟨n, sl.va, sl.len⟩ else none

/-- Slots that no resident group needs become EMPTY (R156, R299). -/
def freeSlots (core : Nat) (s : State) : State :=
  let here := s.groups.filter fun g => (g.place.map (·.core)) == some core
  s.updCore core fun c => { c with slots := c.slots.mapIdx fun n sl =>
    let used := if n = 15 then !here.isEmpty else match sl.kernel with
      | some k => here.any (·.kernel == k)
      | none => sl.st = .empty
    if used then sl else Slot.empty }

/-- Release what a group holds of its core (R278, R318, R319): positions, window, registers (through quarantine), slots. -/
def releaseGroup (gid : Nat) (s : State) : State :=
  match s.group? gid with
  | none => s
  | some g => match g.place with
    | none => s
    | some p =>
      let quars := (g.waves.mapIdx fun i w =>
        (⟨p.base + i * g.vdecl, g.vdecl, (w.pend.filter fun e => e.entry && e.left != 0).map fun e => (e.id, e.left)⟩ : Quar)).filter (!·.pend.isEmpty)
      let s := s.updCore p.core fun c => { c with quar := c.quar ++ quars }
      let s := s.updGroup gid fun g => { g.freeze s.now with place := none, former := some p }
      placeOpp g.owner (freeSlots p.core s)

/-- ACTIVE with every group saved and none resident becomes PREEMPTED (R264). -/
def ctxRest (c : Nat) (s : State) : State :=
  let mine := s.groups.filter (·.ctx == c)
  if (s.ctx c).st = .active && !mine.isEmpty && mine.all fun g => g.st = .saved then s.updCtx c fun x => { x with st := .preempted }
  else s

/-- A group that is there, or that ended at once and whose commands go on (R268). -/
def State.held? (s : State) (gid : Nat) : Option Group := s.group? gid <|> s.eng.ghosts.find? (·.gid == gid)
def State.updHeld (gid : Nat) (f : Group → Group) (s : State) : State :=
  let s := s.updGroup gid f
  s.setEng { s.eng with ghosts := amendFirst (·.gid == gid) f s.eng.ghosts }

/-- Whether something of an ended group goes on that needs its window or its buffers. -/
def goesOn (s : State) (g : Group) : Bool :=
  s.eng.copies.any (·.gid == g.gid) || !g.detBuf.isEmpty || !g.detAtoms.isEmpty

/-! ### Clusters, and barrier instances (R310, R324, R325, R331) -/

/-- Groups per cluster of a kernel (R310). -/
def clusterSize (s : State) (k : Nat) : Nat := max 1 (((s.kernel? k).map (·.c)).getD 1)

def newBar (b : BarRef) : BarInst :=
  { ref := b, phase := 0, arr := [], done := false, broken := false, brk := false, swap := false, last := [], far := [], clk := 0, rel := 0 }
def barAt (s : State) (b : BarRef) : BarInst := (s.bars.find? (·.ref = b)).getD (newBar b)
def putBar (x : BarInst) (s : State) : State := s.setBars (x :: s.bars.filter (·.ref ≠ x.ref))

/-- The POD set that a kernel's groups are members of: its pod job's number (R323). -/
def podSet (s : State) (k : Nat) : Option Nat := (s.kernel? k).bind fun k => if k.gridbar then k.podjob.map (·.1) else none

/-- Whether a group's waves are members of an instance (R324). -/
def barMember (s : State) (b : BarRef) (g : Group) : Bool :=
  match b.level with
  | .grp => g.kernel == b.kernel && g.gid == b.holder
  | .quad => g.kernel == b.kernel && g.lin / clusterSize s g.kernel == b.holder
  | .pod => podSet s g.kernel == some b.holder
  | _ => g.kernel == b.kernel

/-- An instance becomes BROKEN, at its release when it has completed (R331). -/
def breakBar (b : BarRef) (s : State) : State :=
  let x := barAt s b
  putBar (if x.done then { x with brk := true } else { x with broken := true, arr := [], far := [] }) s

/-- The instances of a pod job's set (R322). -/
def podBars (job : Nat) : List BarRef := [⟨.pod, 0, job, 0⟩, ⟨.pod, 0, job, 1⟩]

/-- A member group ends by a fault: every instance of which it is a member becomes BROKEN (R324). One that nobody has used yet needs this
only where others than the group's kernel are members. -/
def breakGroup (g : Group) (s : State) : State :=
  let mine := (s.bars.filter fun x => barMember s x.ref g).map (·.ref)
  overList breakBar (mine ++ (((podSet s g.kernel).map podBars).getD []).filter (!mine.contains ·)) s

/-- A group is no longer there, its outstanding results discarded (R264, R268, R319); its MMAs are discarded (R384), its stores and
other engine commands go on: what a DET launch has buffered of it is still merged and logged. -/
def dropGroup (gid : Nat) (s : State) : State :=
  let ghost := fun (s : State) => match s.group? gid with
    | none => s
    | some g =>
      let atoms := match g.place with
        | some p => (s.core p.core).detBuf.filter (·.gid == gid)
        | none => []
      let g := { g with detAtoms := g.detAtoms ++ atoms }
      let s := match g.place with
        | some p => s.updCore p.core fun c => { c with detBuf := c.detBuf.filter (·.gid != gid) }
        | none => s
      if goesOn s g then s.setEng { s.eng with ghosts := s.eng.ghosts ++ [g] } else s
  let s := releaseGroup gid (ghost s)
  let mine := s.eng.mmas.filter (·.gid == gid)
  let s := s.setEng { s.eng with mmas := s.eng.mmas.filter (·.gid != gid) }
  let s := mine.foldl (fun s m => s.scheduleOnce s.now (.mmaStart m.core)) s
  s.setGroups (s.groups.filter (·.gid != gid))

/-- A group ends at once by a fault (R264, R268): its barriers break (R324). -/
def killGroup (gid : Nat) (s : State) : State :=
  dropGroup gid (match s.group? gid with
    | some g => breakGroup g s
    | none => s)

/-! ### Fault log (R270) -/

def logFault (g : Group) (wave failpc cause addr : Nat) (defer unknown : Bool) (kind held : Nat) (s : State) : State :=
  s.updCtx g.ctx fun c => { c with
    flogSeq := c.flogSeq + 1
    flog := (⟨c.flogSeq + 1, addr % 2 ^ 56, cause, g.lin, wave, failpc, defer, unknown, kind, min held 32⟩ :: c.flog).take 256 }

/-- A kernel ends FAULTED: its groups end at once, resident or saved, and its completion follows (R268, R305). -/
def faultKernel (k cause : Nat) (s : State) : State :=
  let s := (s.groups.filter (·.kernel == k)).foldl (fun s g => killGroup g.gid s) s
  let s := s.updKernel k fun kn => { kn with st := .faulted, cause }
  s.schedule s.now (.kernelDrainComplete k)

/-- A slot's reads of its head packet and what belongs to it return to nobody, and none comes any more (R288, R291). -/
def noReads (n : Nat) (s : State) : State :=
  let i := Fin.ofNat 256 n
  let s := (s.unschedule (.packetReadDone i)).unschedule (.dependenceReread i)
  let s := s.updSlot n fun x => { x with tok := x.tok + 1, reread := none }
  s.setHub { s.hub with reads := s.hub.reads.filter (·.step ≠ .packetReadDone i) }

/-- The other resident groups of a context are saved, and its queue slots HALTED (R264, R288). -/
def suspendCtx (c : Nat) (s : State) : State :=
  let s := s.updCtx c fun x => { x with st := .suspended }
  let s := s.setGroups (amend (fun g => g.ctx == c && g.resident) (fun g => { g with stop := true }) s.groups)
  let mine := s.hub.slots.filter fun q => q.ctx == c && q.st != .free
  overList (fun (q : QSlot) s => (noReads q.n s).updSlot q.n fun q => { q with st := .halted }) mine s

/-- A double trap (R268), with its record of kind DOUBLE (R270). -/
def doubleTrap (r : WaveRef) (cause addr : Nat) (defer : Bool) (n : FailNote) (s : State) : State :=
  match s.group? r.gid with
  | none => s
  | some g => suspendCtx g.ctx (faultKernel g.kernel cause (logFault g r.wave n.failpc cause addr defer n.unknown 2 n.held s))

/-! ### Taking an exception (R265 to R271, R427) -/

/-- The handler's registers and lanes (R265, from the slot check on): what trap entry changes in the wave. TRAPPC takes the empty
label (LOG 33: the spec gives it none). -/
def enterTrap (cause pc addr : Nat) (defer : Bool) (absorb : Label) (w : Wave) : Wave :=
  { w.absorb absorb with
    tpcv := (List.range 64).map fun l => BitVec.ofNat 32 (w.pcAt l + (if w.live l then 0 else 2 ^ 31))
    tpc := ⟨BitVec.ofNat 32 pc, 0⟩
    tcause := BitVec.ofNat 32 (cause + (if defer then 256 else 0))
    taddr := BitVec.ofNat 64 (addr % 2 ^ 56)
    intrap := true
    pcs := (List.range 64).map fun l => if w.live l then 15 * 2048 else w.pcAt l
    status := .running, phase := 0, held := [] }

/-- Trap entry after its park (R267): waits for slot 15, or enters the handler, or is a double trap. -/
def reachHandler (r : WaveRef) (cause pc addr : Nat) (defer : Bool) (absorb : Label) (n : FailNote) (s : State) : State :=
  match s.group? r.gid with
  | none => s
  | some g =>
    match ((s.core ((g.place.map (·.core)).getD 0)).slot 15).st with
    | .held | .loading => s.updWave r fun w => { w with status := .entering cause pc addr defer absorb n }
    | .present => s.updWave r fun w => { enterTrap cause pc addr defer absorb w with ready := s.now + 1 }
    | _ => doubleTrap r cause addr defer n s

/-- FAILPC of a precise trap (R270): the instruction, which lies before TRAPPC for TRAP and BKPT (R273). -/
def preciseNote (cause pc held : Nat) : FailNote := ⟨if cause = 0x10 ∨ cause = 0x0F then pc - 1 else pc, false, held⟩

/-- Take a precise trap (R265): a double trap when INTRAP is 1, otherwise its entry parks. -/
def takeTrap (r : WaveRef) (cause pc addr : Nat) (absorb : Label) (s : State) : State :=
  match s.wave? r with
  | none => s
  | some w =>
    if w.intrap then doubleTrap r cause addr false (preciseNote cause pc w.entries) s
    else s.updWave r fun w => { w with status := .parked (.trap cause pc addr absorb), phase := 0 }

/-- Apply one committed register write (R53), with the partial-write label of R108. -/
def commitWrite (r : WaveRef) (x : RegWrite) (s : State) : State :=
  if !x.live then s
  else match x.tgt with
    | .v n => s.updWave r fun w => w.putV n (Wave.mergeV (w.vreg n) x.mask false (fun l => x.vals.getD l 0) x.lab)
    | .s n => s.updWave r fun w => w.putS n (x.vals.getD 0 0) x.lab
    | .h n => s.updGroup r.gid fun g => { g with hnew := g.hnew ++ [(n, ⟨x.big, x.lab⟩)] }

/-- The hypervector registers that commits of the cycle that ends have written: every wave sees them from the next cycle on (R173). -/
def layHyper (s : State) : State :=
  if s.groups.all (·.hnew.isEmpty) then s
  else s.setGroups (s.groups.map fun g =>
    if g.hnew.isEmpty then g else { g with h := g.hnew.foldl (fun h e => setReg 16 e.1 e.2 .zero h) g.h, hnew := [] })

/-- Commit one entry: its writes, and its flags with their label (R96: also when its result was cancelled). -/
def commitPend (r : WaveRef) (p : Pend) (s : State) : State :=
  (p.ws.foldl (fun s x => commitWrite r x s) s).updWave r (·.raise p.flags p.flab)

/-- Frames of a context that no saved group holds (R278). -/
def freeFrames (s : State) (c : Nat) : Nat := (s.ctx c).latched.frames - (s.groups.filter fun g => g.ctx == c && g.frame).length

/-- A group takes the lowest free save frame of its context (R278). -/
def holdFrame (gid : Nat) (s : State) : State :=
  match s.group? gid with
  | none => s
  | some g =>
    if g.frame then s
    else
      let used := (s.groups.filter fun h => h.ctx == g.ctx && h.frame).map (·.frameNo)
      let n := ((List.range (used.length + 1)).find? fun k => !used.contains k).getD 0
      s.updGroup gid fun g => { g with frame := true, frameNo := n }

/-- Whether a wave waits at a group barrier (R320). -/
def Wave.atBar (w : Wave) : Bool :=
  match w.status with
  | .waiting (.phase _ _) _ | .waiting (.arrived _) _ => true
  | _ => false

/-- The current wave of a DET group hands over (R320): to the next higher WAVE, wrapping, that has not ended and waits at
no barrier. -/
def handOver (r : WaveRef) (s : State) : State :=
  s.updGroup r.gid fun g =>
    if g.det && g.cur == r.wave then
      let order := (List.range g.nwaves).map fun k => (r.wave + 1 + k) % g.nwaves
      match order.find? (fun k => match g.waves[k]? with
          | some w => !w.hasEnded && !w.atBar
          | none => false) with
      | some k => { g with cur := k }
      | none => g
    else g

/-- What follows a park that committed everything. -/
def afterPark (r : WaveRef) (a : After) (s : State) : State :=
  match a with
  | .next | .issue => s.updWave r fun w => { w with status := .running, ready := s.now + 1 }
  | .yielded => handOver r (s.updWave r fun w => { w with status := .running, ready := s.now + 1 })
  | .again i => s.updWave r fun w => { w with status := .waiting (.untilCycle s.now) i, ready := s.now + 1 }
  | .trap cause pc addr absorb => reachHandler r cause pc addr false absorb (preciseNote cause pc 0) s
  | .ended => handOver r (s.updWave r fun w => { w with status := .ended })

/-- Groups of the cluster of a group (R310). -/
def clusterOf (s : State) (g : Group) : List Group :=
  let c := clusterSize s g.kernel
  if c ≤ 1 then [g] else s.groups.filter fun h => h.kernel == g.kernel && h.lin / c == g.lin / c
/-- The resident groups of a cluster that hold no save frame yet: what a save of it needs (R278, R332). -/
def framesNeeded (s : State) (g : Group) : Nat := ((clusterOf s g).filter fun h => h.resident && !h.frame).length
/-- Each resident group of a cluster takes its frame, where there are frames for all: otherwise its save waits (R278). -/
def holdFrames (g : Group) (s : State) : State :=
  if framesNeeded s g ≤ freeFrames s g.ctx then overList (fun (h : Group) s => holdFrame h.gid s) ((clusterOf s g).filter (·.resident)) s else s
/-- A cluster is saved whole (R278, R316, R332): each of its resident groups is to stop, and takes a frame if it can. -/
def stopCluster (g : Group) (s : State) : State :=
  holdFrames g (overList (fun (h : Group) s => s.updGroup h.gid fun h => { h with stop := true }) ((clusterOf s g).filter (·.resident)) s)

/-- A failure met at a park (R56, R269, R271, R427): `f` failed first, at entry `p`; `later` are that entry and all after it. A wave that
holds its requests notes that the park is YIELD's (R272). -/
def failPark (r : WaveRef) (a : After) (p : Pend) (f : Fail) (later : List Pend) (s : State) : State :=
  match s.group? r.gid, s.wave? r with
  | some g, some w =>
    let drop := s.updWave r fun w => { w with pend := [] }
    if f.replay && decide (framesNeeded s g ≤ freeFrames s g.ctx) then
      let s := s.updWave r fun w => { w with pend := [], held := later, status := .stopped, phase := if a = .yielded then 1 else 0 }
      let s := stopCluster g (s.updGroup r.gid fun g => { g with replay := true })
      logFault g r.wave p.pc f.cause f.addr true f.unknown 1 later.length s
    else match w.issueAddr with
      | none =>
        handOver r (logFault g r.wave p.pc f.cause f.addr true f.unknown 0 later.length
          (drop.updWave r fun w => { w with status := .ended }))
      | some n =>
        let note : FailNote := ⟨p.pc, f.unknown, later.length⟩
        if w.intrap then doubleTrap r f.cause f.addr true note drop
        else
          reachHandler r f.cause n f.addr true f.absorb note
            (logFault g r.wave p.pc f.cause f.addr true f.unknown 0 later.length drop)
  | _, _ => s

/-- A wave that has not seen its group's latest engine failure takes it at its park (R367). -/
def engineFail (r : WaveRef) (a : After) (w : Wave) (g : Group) (s : State) : State :=
  let s := s.updWave r fun w => { w with eseen := g.eseq }
  let p : Pend := { id := 0, entry := false, sfu := false, left := 0, pc := w.issueAddr.getD 0, ws := [], flags := 0, flab := 0, fail := none,
                    job := .none, lab := 0, tag := "ENGINE" }
  failPark r a p ⟨0x11, g.eaddr, g.elbl, false, false⟩ [] s

/-- Complete the park of a wave whose entries have all returned (R53, R56): commit in issue order up to the first failure. The park of
CWAIT's own ENGINE trap reports that failure precisely (R269, R367). -/
def completePark (r : WaveRef) (a : After) (s : State) : State :=
  match s.wave? r, s.group? r.gid with
  | some w, some g =>
    let ok := w.pend.takeWhile (·.fail.isNone)
    let rest := w.pend.dropWhile (·.fail.isNone)
    let s := ok.foldl (fun s p => commitPend r p s) s
    match rest with
    | [] =>
      let s := s.updWave r fun w => { w with pend := [] }
      let own := match a with
        | .trap cause .. => cause == 0x11
        | _ => false
      if w.eseen = g.eseq then afterPark r a s
      else if own then afterPark r a (s.updWave r fun w => { w with eseen := g.eseq })
      else engineFail r a w g s
    | p :: _ => match p.fail with
      | some f => failPark r a p f rest s
      | none => s
  | _, _ => s

/-- Return from the handler (R274), after RTE's park. -/
def returnTrap (w : Wave) : Wave :=
  let pcv := fun l => (w.tpcv.getD l 0).toNat
  let m := ((List.range 64).filterMap fun l => if w.live l && pcv l < 2 ^ 31 then some (pcv l % 2 ^ 15) else none).min?
  { w with
    pcs := (List.range 64).map fun l =>
      if w.live l then (if m = some (pcv l % 2 ^ 15) then w.tpc.val.toNat % 2 ^ 15 else pcv l % 2 ^ 15) else w.pcAt l
    intrap := false }

/-! ### Trap causes (R65) -/

def illegalOp : Nat := 0x01
def reservedEnc : Nat := 0x02
def regBound : Nat := 0x03
def privOp : Nat := 0x04
def codeAbsent : Nat := 0x05
def misalign : Nat := 0x06
def pageFault : Nat := 0x07
def permFault : Nat := 0x08
def labelStore : Nat := 0x09
def labelExport : Nat := 0x0A
def fabTimeout : Nat := 0x0B
def claimLate : Nat := 0x0C
def eccUncorr : Nat := 0x0D
def barBroken : Nat := 0x0E
def bkptTrap : Nat := 0x0F
def softTrap : Nat := 0x10
def engineTrap : Nat := 0x11
def tidInvalid : Nat := 0x12
def detMixed : Nat := 0x13
def releaseDenied : Nat := 0x14
def scratchRange : Nat := 0x16
def launchRefused : Nat := 0x17

/-! ### Issue (R47, R49, R55, R63, R64, R148, R149) -/

/-- The wave whose turn it is, at its instruction. -/
structure Cur where
  ref  : WaveRef
  g    : Group
  w    : Wave
  core : Nat
  pc   : Nat
  act  : BitVec 64
  res  : Bool        -- it goes on with an instruction in which it waited

def State.curOf (s : State) (r : WaveRef) (res : Bool) : Option Cur :=
  match s.group? r.gid with
  | none => none
  | some g => match g.place, g.waves[r.wave]? with
    | some p, some w => match w.issueAddr with
      | some pc => some ⟨r, g, w, p.core, pc, w.activeMask, res⟩
      | none => none
    | _, _ => none

def State.cur? (s : State) : Option Cur :=
  match s.turn with
  | .issue r => s.curOf r false
  | .resume r => s.curOf r true
  | .event => none

/-- What an instruction's effect leads to. -/
inductive Res
  | done (s : State)                                           -- complete
  | trap (s : State) (cause addr : Nat) (absorb : Label)       -- a precise trap at the instruction
  | trapAt (s : State) (pc cause addr : Nat)                   -- TRAP, BKPT: TRAPPC is given
  | wait (s : State) (c : Cond)                                -- the wave waits in the instruction
  | park (s : State)                                           -- the wave parks, then goes on with the instruction
  | stop (s : State)                                           -- the wave stands still: its state is set

/-- What the checks before issue need to know of an instruction. -/
structure Sig where
  p     : Bool
  vs    : List Nat := []
  hs    : List Nat := []
  as    : List Nat := []
  entry : Bool := false
  sfu   : Bool := false
  xfer  : Bool := false
  words : Nat := 1
  frame : Bool := false      -- FRAMEW: the next instruction may issue in the cycle in which this one ends (R43)

/-- A wave is privileged when its context is a system context (R63). -/
def privileged (s : State) (g : Group) : Bool := (s.ctx g.ctx).latched.system

/-- The checks of R64 in their order; decoding has made the others of ILLEGAL_OP and RESERVED_ENC. -/
def issueCheck (i : Instr) (g : Sig) (c : Cur) (s : State) : Option Nat :=
  if !g.xfer && c.pc % 2048 + g.words > 2047 then some illegalOp
  else if i.privileged && !privileged s c.g then some privOp
  else if !wf i then some reservedEnc
  else if g.vs.any (· ≥ c.g.vdecl) || g.hs.any (· ≥ c.g.hdecl) || g.as.any (· ≥ c.g.adecl) then some regBound
  else none

/-- A wave whose instruction is complete: lanes go on (R149), and it parks when P is 1 (R53). -/
def retireWave (g : Sig) (act : BitVec 64) (now : Nat) (w : Wave) : Wave :=
  let w := if g.xfer then w else w.setPcs act fun l => w.pcAt l + g.words
  let w := { w with phase := 0, ready := if g.frame then now else now + 1 }
  match w.status with
  | .parked _ | .stopped | .ended | .entering .. => w
  | _ => { w with status := if g.p then .parked .next else .running }

def retireInstr (g : Sig) (c : Cur) (s : State) : State := s.updWave c.ref (retireWave g c.act s.clk.cycle)

def finishInstr (i : Instr) (g : Sig) (c : Cur) : Res → State
  | .done s => retireInstr g c s
  | .trap s cause addr absorb => takeTrap c.ref cause c.pc addr absorb s
  | .trapAt s pc cause addr => takeTrap c.ref cause pc addr 0 s
  | .wait s cond => s.updWave c.ref fun w => { w with status := .waiting cond i }
  | .park s => s.updWave c.ref fun w => { w with status := .parked (.again i) }
  | .stop s => s

/-- The turn's wave, with its issue noted. -/
def Cur.noted (c : Cur) (s : State) : Cur := { c with w := { c.w with lastIss := s.clk.cycle } }

/-- Issue an instruction of the wave whose turn it is, or go on with one it waited in. A trap of its checks has no faulting address:
TRAPADDRL and TRAPADDRH take 0 (LOG 33). -/
def issue (i : Instr) (g : Sig) (body : Cur → State → Res) (s : State) : Host.Outcome State Fault Refusal :=
  match s.cur? with
  | none => .refused .noWave
  | some c =>
    if c.res then .next (finishInstr i g c (body c s)) else
    let c := c.noted s
    let s := s.updWave c.ref fun _ => c.w
    if (g.entry && c.w.entries ≥ 32) || (g.sfu && c.w.sfuEntries ≥ 4) then
      .next (s.updWave c.ref fun w => { w with status := .parked .issue })
    else match issueCheck i g c s with
      | some cause => .next (takeTrap c.ref cause c.pc 0 0 s)
      | none => .next (finishInstr i g c (body c s))

/-- An instruction whose effect is a change of its wave. -/
def issueW (i : Instr) (g : Sig) (f : Cur → Wave) : State → Host.Outcome State Fault Refusal :=
  issue i g fun c s => .done (s.updWave c.ref fun _ => f c)

/-! ### Occasions of the device's own steps (LOG 8) -/

/-- A step of the device takes place only on its occasion. -/
def onOccasion (name : String) (ok : Bool) (t : State) : Host.Outcome State Fault Refusal :=
  if ok then .next t else .refused (.notEnabled name)

end Sys2Proof.Machine
end

