-- ==== Sys2Proof/Machine/Assembler.lean ====
section
/-! DEFINITION. lxas: the checks on assembled segments, liveness tables, listings, objects and the command line
(spec/04_assembler.md R71, R79, R80, R82 to R87). -/

namespace Sys2Proof.Machine

/-! ### Flow within a segment (R80, R82) -/

/-- The word that a branch goes to. -/
def AItem.target (x : AItem) : Option Nat :=
  match x.instr with
  | some i => (branchOff i).bind fun o => if 0 ≤ x.word + o then some (x.word + o).toNat else none
  | none => none

def AItem.fallsOn (x : AItem) : Bool := (x.instr.map Machine.fallsOn).getD true
def AItem.use (x : AItem) : Use := (x.instr.map useOf).getD {}
def AItem.next (x : AItem) : Nat := x.word + x.words.length

/-- The words to which execution may go from an item. -/
def AItem.succs (x : AItem) : List Nat := x.target.toList ++ (if x.fallsOn then [x.next] else [])

/-! ### Liveness (R82, R83) -/

def regMask (l : List Nat) : BitVec 64 := l.foldl (fun m n => m ||| (1 : BitVec 64) <<< n) 0
def declMask (vdecl : Nat) : BitVec 64 := regMask (List.range vdecl)

/-- The registers live on entry, from those live on entry elsewhere; behind a segment's last word, which no path may pass (R80), none is
(LOG 34). -/
def AItem.liveIn (vdecl : Nat) (at_ : Nat → BitVec 64) (x : AItem) : BitVec 64 :=
  let u := x.use
  let r := if u.all then declMask vdecl else regMask (u.rv.filter (· < vdecl))
  let named := x.live.map regMask
  let out := match x.instr with
    | some (.ret ..) | some (.jmpf ..) | some (.rte _) => named.getD (declMask vdecl)
    | some (.exit _) => 0
    | _ => x.succs.foldl (fun m w => m ||| at_ w) 0
  let extra := match x.instr with
    | some (.ret ..) | some (.jmpf ..) | some (.rte _) => 0
    | _ => named.getD 0
  r ||| (out &&& ~~~ regMask u.wv) ||| extra

/-- The live sets of a segment's items by first word, to their fixed point; the first argument bounds the rounds. -/
def liveRounds (vdecl : Nat) (items : List AItem) : Nat → List (Nat × BitVec 64) → List (Nat × BitVec 64)
  | 0, t => t
  | f + 1, t =>
    let t' := items.foldr (fun x (acc : List (Nat × BitVec 64)) =>
      (x.word, x.liveIn vdecl fun w => ((acc.lookup w).orElse fun _ => t.lookup w).getD 0) :: acc) []
    if t' = t then t else liveRounds vdecl items f t'

def liveSets (vdecl : Nat) (items : List AItem) : List (Nat × BitVec 64) :=
  liveRounds vdecl items (64 * items.length + 1) (items.map fun x => (x.word, 0))

/-- The entries of a liveness table: first word, words covered, mask. -/
def liveEntries (vdecl : Nat) (items : List AItem) : List (Nat × Nat × BitVec 64) :=
  let sets := liveSets vdecl items
  (items.foldl (fun (acc : List (Nat × Nat × BitVec 64)) x =>
    let m := (sets.lookup x.word).getD 0
    match acc with
    | (f, n, k) :: r => if k = m then (f, n + x.words.length, k) :: r else (x.word, x.words.length, m) :: acc
    | [] => [(x.word, x.words.length, m)]) []).reverse

/-- The liveness table's bytes (R83): the header, then 16 B an entry. -/
def liveTable (vdecl slot : Nat) (items : List AItem) : List Byte :=
  let es := liveEntries vdecl items
  bytesOf 16 (es.length + slot * 2 ^ 32 + vdecl * 2 ^ 40 : Nat)
    ++ es.flatMap fun e => bytesOf 16 (e.1 + e.2.1 * 2 ^ 16 + e.2.2.toNat * 2 ^ 64 : Nat)

/-! ### Outstanding long-latency writes (R85) -/

/-- A register as a number: v from 0, s from 64, h from 128. -/
def Use.reads (u : Use) (vdecl : Nat) : List Nat :=
  (if u.all then List.range vdecl else u.rv) ++ u.rs.map (64 + ·) ++ u.rh.map (128 + ·)
def Use.writes (u : Use) : List Nat := u.wv ++ u.ws.map (64 + ·) ++ u.wh.map (128 + ·)

def regText (n : Nat) : String :=
  if n < 64 then "v" ++ toString n else if n < 128 then "s" ++ toString (n - 64) else "h" ++ toString (n - 128)

/-- Outstanding writes: a register, and the line of the instruction. -/
abbrev Waits := List (Nat × Nat)
/-- What some path may bring: the entries it holds in the SFU queue and in the return buffer, and its outstanding writes. -/
structure Held where
  sfu   : Nat
  ent   : Nat
  waits : Waits
  deriving DecidableEq

/-- Whether the instruction parks before it reads its registers (R43, R160). -/
def parksFirst : Instr → Bool
  | .jmpf .. | .framew .. => true
  | _ => false

/-- What is outstanding once an item reads: nothing, where it parks first, as it also does where it finds its queue or buffer full (R55). -/
def AItem.before (x : AItem) (h : Held) : Held :=
  if (x.instr.map parksFirst).getD false || (x.use.long && h.ent ≥ 32) || ((x.instr.map usesSfu).getD false && h.sfu ≥ 4) then ⟨0, 0, []⟩ else h

/-- What is outstanding after an item. -/
def AItem.after (x : AItem) (h : Held) : Held :=
  if parkBit x.words || (x.instr.map parksAlways).getD false then ⟨0, 0, []⟩
  else
    let h := x.before h
    let u := x.use
    let w := h.waits.filter fun p => !u.writes.contains p.1
    if u.long then
      ⟨h.sfu + (if (x.instr.map usesSfu).getD false then 1 else 0), h.ent + 1, w ++ (u.writes.filter fun n => n != 64).map fun n => (n, x.line)⟩
    else { h with waits := w }

/-- Where the paths of R85 go on from an item: RET to what stands behind the segment's CALLs that left their return address in its
register, or behind any of them where another instruction writes that register. -/
def AItem.goesTo (items : List AItem) (x : AItem) : List Nat :=
  match x.instr with
  | some (.ret _ s) =>
    let moved := items.any fun y => y.use.ws.contains s.val && !(match y.instr with
      | some (.call ..) => true
      | _ => false)
    items.filterMap fun y => match y.instr with
      | some (.call _ t _) => if t = s || moved then some y.next else none
      | _ => none
  | _ => x.succs

/-- Add what a path brings to what paths bring already. -/
def joinHeld (l : List Held) (h : Held) : List Held :=
  let same := fun (k : Held) => k.sfu == h.sfu && k.ent == h.ent
  if l.any same then l.map fun k => if same k then { k with waits := k.waits ++ h.waits.filter (!k.waits.contains ·) } else k
  else l ++ [h]

/-- One round: what may be outstanding before each item. -/
def waitRound (items : List AItem) (t : List (Nat × List Held)) : List (Nat × List Held) :=
  items.foldl (fun t x =>
    let out := ((t.lookup x.word).getD []).map x.after
    let dest := x.goesTo items
    t.map fun p => if dest.contains p.1 then (p.1, out.foldl joinHeld p.2) else p) t

def waitRounds (items : List AItem) : Nat → List (Nat × List Held) → List (Nat × List Held)
  | 0, t => t
  | f + 1, t =>
    let t' := waitRound items t
    if t' = t then t else waitRounds items f t'

/-- Where a segment is come to with nothing outstanding: at its start, at the words named (the kernel's entry, the targets of its JMPFs), and
at words to which nothing in it goes. -/
def segStarts (named : List Nat) (items : List AItem) : List Nat :=
  let inner := items.flatMap (·.goesTo items)
  (items.map (·.word)).filter fun w => w = 0 || named.contains w || !inner.contains w

/-- The reads of outstanding registers: the item's place, and its registers with the lines of their writes. -/
def staleReads (named : List Nat) (vdecl : Nat) (items : List AItem) : List (AItem × Waits) :=
  let starts := segStarts named items
  let t := waitRounds items (32768 * items.length + 2) (items.map fun x => (x.word, if starts.contains x.word then [⟨0, 0, []⟩] else []))
  items.filterMap fun x =>
    let r := x.use.reads vdecl
    let w := (((t.lookup x.word).getD []).flatMap fun h => (x.before h).waits).eraseDups.filter fun p => r.contains p.1
    if w.isEmpty then none else some (x, w)

/-- Set P on the item before a word. -/
def parkBefore (word : Nat) (items : List AItem) : List AItem :=
  items.map fun x => if x.next == word then { x with words := parkWord x.words } else x

/-- `--park=auto`: set P before each such read; the first argument bounds the rounds. -/
def parkAuto (named : List Nat) (vdecl : Nat) : Nat → List AItem → List AItem
  | 0, items => items
  | f + 1, items =>
    match (staleReads named vdecl items).find? fun r => items.any fun x => x.next == r.1.word && !parkBit x.words with
    | some r => parkAuto named vdecl f (parkBefore r.1.word items)
    | none => items

/-! ### Checks of a segment (R79, R80, R84, R85) -/

/-- What `--park` asks (R71). -/
inductive ParkMode | warn | auto | error
  deriving DecidableEq, Repr

def AItem.diag (x : AItem) (code text : String) : Diag := ⟨x.pos, x.file, x.line, code, text⟩
def AItem.errIf (x : AItem) (b : Bool) (code : String) : List Diag := if b then [x.diag code (errText code)] else []

/-- The checks of one item. A target within a LIT group, or behind the segment's last word, is no target in the segment (LOG 34). -/
def itemDiags (k : AKernel) (items : List AItem) (x : AItem) : List Diag :=
  let u := (x.shape.map useOf).getD {}
  let ends := items.getLast?.map (·.next)
  let past := (u.rv ++ u.wv).eraseDups.filter (· ≥ k.regs) ++ (u.rh ++ u.wh).eraseDups.filter (· ≥ k.hregs) ++ u.as.eraseDups.filter (· ≥ k.accs)
  past.map (fun _ => x.diag "E104" (errText "E104"))
  ++ x.errIf (match x.target with
      | some w => !(items.any (·.word == w)) || some w == ends
      | none => (x.instr.bind branchOff).isSome) "E107"
  ++ x.errIf (x.next > 2047 && !(x.next == 2048 && (x.instr.map transfers).getD true)) "E108"
  ++ x.errIf (k.det && (x.shape.map timeDependent).getD false) "E110"
  ++ (if u.ws.contains 0 || u.wm.contains 0 then [x.diag "W202" "write to s0 or m0 is discarded"] else [])

def staleDiags (named : List Nat) (vdecl : Nat) (mode : ParkMode) (items : List AItem) : List Diag :=
  if mode == .auto then []
  else (staleReads named vdecl items).flatMap fun r => r.2.map fun p =>
    let t := regText p.1 ++ " is read while its load from line " ++ toString p.2 ++ " is outstanding; the read sees the older value"
    r.1.diag "W201" t

/-- The entry of a kernel: a code label of it (R77). -/
def entryOf (a : Asm) (n : Nat) (k : AKernel) : Option Nat :=
  match evalText (fun n => a.syms.lookup n) k.entry with
  | .ok v => match v.base, v.unk with
    | some (.code m _), false => if m = n then some v.n.toNat else none
    | _, _ => none
  | .error _ => none

/-- The words of a slot that a kernel's launch or its fenced jumps name. -/
def namedWords (a : Asm) (n : Nat) (k : AKernel) (slot : Nat) : List Nat :=
  let jumps := k.segs.flatMap fun g => g.items.filterMap fun x => match x.instr with
    | some (.jmpf _ _ m w) => if m.val = slot then some (8 * w.val) else none
    | _ => none
  jumps ++ match entryOf a n k with
    | some e => if e / 2048 = slot then [e % 2048] else []
    | none => []

/-- The kernels with their segments parked as asked, and what the checks say. -/
def checkKernels (mode : ParkMode) (a : Asm) : List AKernel × List Diag :=
  let ks := a.kernels.mapIdx fun n k =>
    { k with segs := k.segs.map fun g =>
        if mode == .auto then { g with items := parkAuto (namedWords a n k g.slot) k.regs (g.items.length + 1) g.items } else g }
  let ds := (ks.mapIdx fun n k =>
    (if (entryOf a n k).isNone then [(⟨k.pos, k.file, k.line, "E111", errText "E111"⟩ : Diag)] else [])
    ++ (match k.fifoAt with
      | some (pos, file, line) => if k.banksOk then [] else [⟨pos, file, line, "E113", errText "E113"⟩]
      | none => [])
    ++ k.segs.flatMap fun g => g.items.flatMap (itemDiags k g.items) ++ staleDiags (namedWords a n k g.slot) k.regs mode g.items).flatten
  (ks, ds)

/-! ### Objects and listings (R74, R87) -/

def objectOf (a : Asm) (ks : List AKernel) : ObjFile :=
  { kernels := ks.mapIdx fun n k => ⟨k.name, (entryOf a n k).getD 0, k.segs.map fun g =>
      ⟨g.slot, g.system, g.items.flatMap (·.words), liveTable k.regs g.slot g.items⟩⟩
    const := a.const, data := a.data, relocs := a.relocs, tensors := a.tensors, launches := a.launches
    syms := a.syms.map fun x => (x.1, x.2.base, x.2.n) }

/-- The lines of one entry: offset, word, and the source on the first; a `+` marks what a definition of the source's own put there. -/
def rowLines (off step : Nat) (mac : Bool) (rel : List (Nat × Nat)) (src : String) (ws : List Nat) : List String :=
  ws.mapIdx fun k w =>
    let at_ := off + step * k
    let star := rel.any fun r => at_ < r.1 + r.2 && r.1 < at_ + 4
    let l := asmHex 4 at_ ++ "  " ++ wordText w ++ (if star then "*" else "")
    if k = 0 then l ++ (if mac then " + " else "   ") ++ src else l

/-- Bytes as words, the last filled with zeros. -/
def wordsOfBytes : List Byte → List Nat
  | [] => []
  | a :: b :: c :: d :: r => (a.toNat + b.toNat * 2 ^ 8 + c.toNat * 2 ^ 16 + d.toNat * 2 ^ 24) :: wordsOfBytes r
  | r => [r.reverse.foldl (fun n (b : Byte) => n * 256 + b.toNat) 0]

def listingOf (a : Asm) (ks : List AKernel) : List String :=
  let code := ks.flatMap fun k => k.segs.flatMap fun g => g.items.map fun x => (x.pos, rowLines (2048 * g.slot + x.word) 1 x.mac [] x.src x.words)
  let data := a.rows.map fun r => (r.pos, rowLines r.off 4 r.mac r.reloc r.src (wordsOfBytes r.bytes))
  ((code ++ data).mergeSort fun x y => x.1 ≤ y.1).flatMap (·.2)

/-! ### The command line (R71) -/

structure LxasOpts where
  out     : Option String := none
  listing : Option String := none
  dirs    : List String := []
  defs    : List (String × EV) := []
  park    : ParkMode := .warn
  noLit   : Bool := false
  werror  : Bool := false
  srcs    : List String := []

/-- `name=value` of `-D`. -/
def defOf (t : List Char) : Option (String × EV) :=
  let n := t.takeWhile symChar
  match (n.head?.map symStart).getD false, t.drop n.length with
  | true, '=' :: v => match evalText (fun _ => none) v with
    | .ok x => if x.unk then none else some (String.ofList n, x)
    | .error _ => none
  | _, _ => none

/-- The options and sources; none for an unknown option or a missing value. -/
def parseArgs : List String → LxasOpts → Option LxasOpts
  | [], o => some o
  | ["-o"], _ => none
  | ["-l"], _ => none
  | ["-I"], _ => none
  | ["-D"], _ => none
  | "-o" :: f :: r, o => parseArgs r { o with out := some f }
  | "-l" :: f :: r, o => parseArgs r { o with listing := some f }
  | "-I" :: d :: r, o => parseArgs r { o with dirs := o.dirs ++ [d] }
  | "-D" :: d :: r, o => match defOf d.toList with
    | some x => parseArgs r { o with defs := o.defs ++ [x] }
    | none => none
  | x :: r, o =>
    if x == "--park=warn" then parseArgs r { o with park := .warn }
    else if x == "--park=auto" then parseArgs r { o with park := .auto }
    else if x == "--park=error" then parseArgs r { o with park := .error }
    else if x == "--no-lit" then parseArgs r { o with noLit := true }
    else if x == "-Werror" then parseArgs r { o with werror := true }
    else if x.toList.head? == some '-' then none
    else parseArgs r { o with srcs := o.srcs ++ [x] }

/-- The object's name: the first source's with `.lxo`. -/
def objectName (src : String) : String :=
  let r := src.toList.reverse
  let ext := r.takeWhile fun c => c != '.' && c != '/'
  let stem := match r.drop ext.length with
    | '.' :: s => s.reverse
    | _ => src.toList
  String.ofList stem ++ ".lxo"

/-- Files by name, a new one in place of an old one. -/
def putFile {α : Type} (name : String) (x : α) (l : List (String × α)) : List (String × α) := l.filter (·.1 != name) ++ [(name, x)]

/-- One run of lxas over the files that there are. -/
def runLxas (args : List String) (fs : List (String × List String)) (x : Lxas) : Lxas :=
  match parseArgs args {} with
  | none => { x with diags := [], exit := 2 }
  | some o =>
    match o.srcs.mapM fun n => (fs.lookup n).map fun ls => (n, ls) with
    | none | some [] => { x with diags := [], exit := 2 }
    | some (src :: more) =>
      let (ss, ds) := readSource ⟨fs, o.dirs, fun m => isMnemonic m || m == "LIT"⟩ (src :: more)
      let a := assembleStmts ss o.defs o.noLit
      let (ks, cs) := checkKernels o.park a
      let all := (ds ++ a.diags ++ cs).mergeSort fun p q => p.pos ≤ q.pos
      let isErr (d : Diag) : Bool := !d.isWarning || o.werror || (d.code == "W201" && o.park == .error)
      let text := all.map fun d => d.show (o.werror || (d.code == "W201" && o.park == .error))
      let lst := match o.listing with
        | some f => putFile f (listingOf a ks) x.listings
        | none => x.listings
      if all.any isErr then { x with diags := text, exit := 1, listings := lst }
      else { files := putFile (o.out.getD (objectName src.1)) (objectOf a ks) x.files, listings := lst, diags := text, exit := 0 }

/-- LXAS (R71): the tool runs on the host and changes nothing on the device. -/
def execLxas (args : List String) (fs : List (String × List String)) : State → Host.Outcome State Fault Refusal := fun s =>
  .next (s.setLxas (runLxas args fs s.lxas))

end Sys2Proof.Machine
end

