-- ==== Sys2Proof/Machine/Operands.lean ====
section
/-! DEFINITION. Operand forms: routes (spec/03_formats.md R57), the shapes B, U, A and A+sel of per-lane instructions
(spec/06_vector_ops.md R108, R109), immediates (R59, R60), uniform and mask results (spec/07_uniform_flow.md R138). -/

namespace Sys2Proof.Machine

abbrev Out := Host.Outcome State Fault Refusal

/-- Route: the source lane for destination lane l (R57). -/
def routeSrc (w : Wave) (r : Route) (l : Nat) : Nat :=
  match r with
  | .none => l
  | .bfly1 => l ^^^ 1
  | .bfly2 => l ^^^ 2
  | .bfly4 => l ^^^ 4
  | .bfly8 => l ^^^ 8
  | .rot8 => l / 8 * 8 + (l + 1) % 8
  | .rev => 63 - l
  | .rep => w.rlane.val.toNat % 64

/-- The label that a route adds to its operand (R57). -/
def routeLab (w : Wave) : Route → Label
  | .rep => w.rlane.lab
  | _ => 0

/-- Lane l of v[b] through a route, as the operand stands before any lane is written (R57, LOG 37). -/
def routed (w : Wave) (b : Reg) (r : Route) (l : Nat) : Word := w.lane b (routeSrc w r l)

def vlab (w : Wave) (n : Reg) : Label := (w.vreg n).lab
def slab (w : Wave) (n : Reg) : Label := (w.sreg n).lab
def sval (w : Wave) (n : Reg) : Word := (w.sreg n).val

/-- Shape B: vd[l] := f va[l] (routed vb)[l]. -/
def vecB (i : Instr) (p : Bool) (d a b : Reg) (r : Route) (f : Word → Word → Word) : State → Out :=
  issueW i { p, vs := [d, a, b] } fun c =>
    c.w.writeV d c.act false (fun l => f (c.w.lane a l) (routed c.w b r l))
      (vlab c.w a ||| vlab c.w b ||| routeLab c.w r ||| c.w.ctxlbl)

/-- Shape B that also reads vd. -/
def vecBD (i : Instr) (p : Bool) (d a b : Reg) (r : Route) (f : Word → Word → Word → Word) : State → Out :=
  issueW i { p, vs := [d, a, b] } fun c =>
    c.w.writeV d c.act false (fun l => f (c.w.lane a l) (routed c.w b r l) (c.w.lane d l))
      (vlab c.w a ||| vlab c.w b ||| vlab c.w d ||| routeLab c.w r ||| c.w.ctxlbl)

/-- Shape U: vd[l] := f (routed vb)[l]. -/
def vecU (i : Instr) (p : Bool) (d b : Reg) (r : Route) (f : Word → Word) : State → Out :=
  issueW i { p, vs := [d, b] } fun c =>
    c.w.writeV d c.act false (fun l => f (routed c.w b r l)) (vlab c.w b ||| routeLab c.w r ||| c.w.ctxlbl)

/-- Shape A: vd[l] := f va[l]. -/
def vecA (i : Instr) (p : Bool) (d a : Reg) (f : Word → Word) : State → Out :=
  issueW i { p, vs := [d, a] } fun c =>
    c.w.writeV d c.act false (fun l => f (c.w.lane a l)) (vlab c.w a ||| c.w.ctxlbl)

/-- Shape A that reads vd and keeps some of its bits. -/
def vecAD (i : Instr) (p : Bool) (d a : Reg) (f : Word → Word → Word) : State → Out :=
  issueW i { p, vs := [d, a] } fun c =>
    c.w.writeV d c.act true (fun l => f (c.w.lane a l) (c.w.lane d l)) (vlab c.w a ||| vlab c.w d ||| c.w.ctxlbl)

/-- The flags of the active lanes together (R96). -/
def laneFlags (act : BitVec 64) (f : Nat → Flags) : Flags :=
  (List.range 64).foldl (fun fl l => if act.getLsbD l then fl ||| f l else fl) 0

/-- A per-lane result with flags, raised at once (R96), the label of FFLAGS by R69. -/
def writeVF (c : Cur) (d : Reg) (part : Bool) (f : Nat → Word × Flags) (lab : Label) : Wave :=
  ((c.w.writeV d c.act part (fun l => (f l).1) (lab ||| c.w.ctxlbl)).raise (laneFlags c.act fun l => (f l).2) (lab ||| c.w.ctxlbl))

/-- Floating-point shape B, reading vd as third operand when `rd` holds. -/
def vecBF (i : Instr) (p : Bool) (d a b : Reg) (r : Route) (rd : Bool) (f : Word → Word → Word → Word × Flags) : State → Out :=
  issueW i { p, vs := [d, a, b] } fun c =>
    writeVF c d false (fun l => f (c.w.lane a l) (routed c.w b r l) (c.w.lane d l))
      (vlab c.w a ||| vlab c.w b ||| routeLab c.w r ||| (if rd then vlab c.w d else 0))

/-- Floating-point shape U. -/
def vecUF (i : Instr) (p : Bool) (d b : Reg) (r : Route) (f : Word → Word × Flags) : State → Out :=
  issueW i { p, vs := [d, b] } fun c =>
    writeVF c d false (fun l => f (routed c.w b r l)) (vlab c.w b ||| routeLab c.w r)

/-- Floating-point shape A. -/
def vecAF (i : Instr) (p : Bool) (d a : Reg) (f : Word → Word × Flags) : State → Out :=
  issueW i { p, vs := [d, a] } fun c => writeVF c d false (fun l => f (c.w.lane a l)) (vlab c.w a)

/-- A pipe write of a mask register, the mask bits being its parts (R108). -/
def Wave.writeM (n : MReg) (m : BitVec 64) (f : Nat → Bool) (lab : Label) (w : Wave) : Wave :=
  let old := w.mreg n
  w.putM n (Wave.laneMask fun l => if m.getLsbD l then f l else old.val.getLsbD l)
    (if m = BitVec.allOnes 64 then lab else lab ||| old.lab)

/-- A uniform result: the label is the union of those given and CTXLBL (R138). -/
def uniRes (i : Instr) (p : Bool) (d : Reg) (f : Wave → Word) (lab : Wave → Label) : State → Out :=
  issueW i { p } fun c => c.w.writeS d (f c.w) (lab c.w ||| c.w.ctxlbl)

def uni2 (i : Instr) (p : Bool) (d a b : Reg) (f : Word → Word → Word) : State → Out :=
  uniRes i p d (fun w => f (sval w a) (sval w b)) fun w => slab w a ||| slab w b

def uni1 (i : Instr) (p : Bool) (d a : Reg) (f : Word → Word) : State → Out :=
  uniRes i p d (fun w => f (sval w a)) fun w => slab w a

/-! ### Words as integers (R70) -/

def ofInt32 (i : Int) : Word := BitVec.ofInt 32 i
def popc (x : Word) : Word := BitVec.ofNat 32 ((List.range 32).foldl (fun n k => if x.getLsbD k then n + 1 else n) 0)
def clz (x : Word) : Word := BitVec.ofNat 32 (if x = 0 then 32 else 31 - Nat.log2 x.toNat)
def brev (x : Word) : Word := BitVec.ofNat 32 ((List.range 32).foldl (fun n k => if x.getLsbD k then n + 2 ^ (31 - k) else n) 0)
def mulHi (a b : Word) : Word := BitVec.ofInt 32 (a.toInt * b.toInt / 2 ^ 32)
def mulHiN (a b : Word) : Word := BitVec.ofNat 32 (a.toNat * b.toNat / 2 ^ 32)
def shAmt (b : Word) : Nat := b.toNat % 32
def shl (a : Word) (n : Nat) : Word := a <<< n
def shr (a : Word) (n : Nat) : Word := a >>> n
def sra (a : Word) (n : Nat) : Word := a.sshiftRight n
def rotl (a : Word) (n : Nat) : Word := a.rotateLeft n
def minS (a b : Word) : Word := if a.toInt ≤ b.toInt then a else b
def maxS (a b : Word) : Word := if a.toInt ≥ b.toInt then a else b
def minU (a b : Word) : Word := if a.toNat ≤ b.toNat then a else b
def maxU (a b : Word) : Word := if a.toNat ≥ b.toNat then a else b
/-- Byte k of a word. -/
def byteAt (x : Word) (k : Nat) : Byte := BitVec.ofNat 8 (x.toNat / 2 ^ (8 * k))
def halfAt (x : Word) (hi : Bool) : BitVec 16 := BitVec.ofNat 16 (x.toNat / (if hi then 2 ^ 16 else 1))
/-- A word with n bits from bit lo replaced. -/
def setBits (x : Word) (lo n : Nat) (v : Nat) : Word :=
  BitVec.ofNat 32 (x.toNat % 2 ^ lo + v % 2 ^ n * 2 ^ lo + x.toNat / 2 ^ (lo + n) * 2 ^ (lo + n))
def nat32 (n : Nat) : Word := BitVec.ofNat 32 n
def bool32 (b : Bool) : Word := if b then 1 else 0

/-- imm12 as R59 extends it: with its sign, or with zeros. -/
def immS (imm : BitVec 12) : Word := imm.signExtend 32
def immZ (imm : BitVec 12) : Word := imm.setWidth 32

/-- A step of VRED, VSCAN and NRED (R163, R168, R338), with the flags of .FADD. -/
def redStep (op : RedOp) (x y : Word) : Word × Flags :=
  match op with
  | .add => (x + y, 0)
  | .fadd => let (v, f) := fAdd f32 x.toNat y.toNat; (nat32 v, f)
  | .min => (minS x y, 0)
  | .max => (maxS x y, 0)
  | .minn => (minU x y, 0)
  | .maxn => (maxU x y, 0)
  | .and => (x &&& y, 0)
  | .or => (x ||| y, 0)

/-! ### Entries of the return buffer (R51, R53) -/

/-- Put a result that returns `lat` cycles after issue into the return buffer. -/
def pushTimed (c : Cur) (lat : Nat) (p : Pend) (s : State) : State :=
  let (id, s) := s.fresh
  let p := { p with id, entry := true, left := 1, pc := c.pc }
  (s.updWave c.ref fun w => { w with pend := w.pend ++ [p] }).schedule (s.now + lat) (.resultReturn c.ref id)

/-- A failure that the next park reports, of an instruction that takes no entry. -/
def pushFail (c : Cur) (f : Fail) (tag : String) (s : State) : State :=
  let (id, s) := s.fresh
  s.updWave c.ref fun w => { w with pend := w.pend ++
    [{ id, entry := false, sfu := false, left := 0, pc := c.pc, ws := [], flags := 0, flab := 0, fail := some f, job := .none,
       lab := 0, tag }] }

/-- An entry that holds nothing yet. -/
def Pend.blank (tag : String) : Pend :=
  { id := 0, entry := true, sfu := false, left := 1, pc := 0, ws := [], flags := 0, flab := 0, fail := none, job := .none,
    lab := 0, tag }

def RegWrite.lanes (r : Nat) (m : BitVec 64) (f : Nat → Word) (lab : Label) : RegWrite :=
  ⟨.v r, m, (List.range 64).map f, 0, lab, true⟩
def RegWrite.uni (r : Nat) (x : Word) (lab : Label) : RegWrite := ⟨.s r, 0, [x], 0, lab, true⟩
def RegWrite.hyper (r : Nat) (x : BitVec 8192) (lab : Label) : RegWrite := ⟨.h r, 0, [], x, lab, true⟩

end Sys2Proof.Machine
end

