-- ==== Sys2Proof/Machine/Vector.lean ====
section
/-! DEFINITION. Integer per-lane instructions, compares, select, random numbers (spec/06_vector_ops.md R112 to R119, R126 to
R128, R133 to R137). -/

namespace Sys2Proof.Machine

/-! ### Add, subtract, saturate (R112) -/

/-- VADD (R112). -/
def execVadd (p : Bool) (d a b : Reg) (r : Route) : State → Out := vecB (.vadd p d a b r) p d a b r fun x y => x + y

/-- VSUB (R112). -/
def execVsub (p : Bool) (d a b : Reg) (r : Route) : State → Out := vecB (.vsub p d a b r) p d a b r fun x y => x - y

/-- VADDS (R112). -/
def execVadds (p : Bool) (d a b : Reg) (r : Route) : State → Out := vecB (.vadds p d a b r) p d a b r fun x y => ofInt32 (satS (x.toInt + y.toInt) 32)

/-- VSUBS (R112). -/
def execVsubs (p : Bool) (d a b : Reg) (r : Route) : State → Out := vecB (.vsubs p d a b r) p d a b r fun x y => ofInt32 (satS (x.toInt - y.toInt) 32)

/-- VADDSN (R112). -/
def execVaddsn (p : Bool) (d a b : Reg) (r : Route) : State → Out := vecB (.vaddsn p d a b r) p d a b r fun x y => ofInt32 (satU ((x.toNat : Int) + y.toNat) 32)

/-- VSUBSN (R112). -/
def execVsubsn (p : Bool) (d a b : Reg) (r : Route) : State → Out := vecB (.vsubsn p d a b r) p d a b r fun x y => ofInt32 (satU ((x.toNat : Int) - y.toNat) 32)

/-- VABSD (R112). -/
def execVabsd (p : Bool) (d a b : Reg) (r : Route) : State → Out := vecB (.vabsd p d a b r) p d a b r fun x y => nat32 (x.toInt - y.toInt).natAbs

/-! ### Multiply and dot product (R113) -/

/-- VMUL (R113). -/
def execVmul (p : Bool) (d a b : Reg) (r : Route) : State → Out := vecB (.vmul p d a b r) p d a b r fun x y => x * y

/-- VMULH (R113). -/
def execVmulh (p : Bool) (d a b : Reg) (r : Route) : State → Out := vecB (.vmulh p d a b r) p d a b r mulHi

/-- VMULHN (R113). -/
def execVmulhn (p : Bool) (d a b : Reg) (r : Route) : State → Out := vecB (.vmulhn p d a b r) p d a b r mulHiN

/-- VMAD (R113). -/
def execVmad (p : Bool) (d a b : Reg) (r : Route) : State → Out := vecBD (.vmad p d a b r) p d a b r fun x y z => x * y + z

/-- The sum of the four byte products, signed or not. -/
def dot4 (signed : Bool) (x y : Word) : Int :=
  (List.range 4).foldl (fun n k =>
    n + (if signed then (byteAt x k).toInt * (byteAt y k).toInt else ((byteAt x k).toNat : Int) * (byteAt y k).toNat)) 0

/-- VDOT4 (R113). -/
def execVdot4 (p : Bool) (d a b : Reg) (r : Route) : State → Out := vecBD (.vdot4 p d a b r) p d a b r fun x y z => ofInt32 (z.toInt + dot4 true x y)

/-- VDOT4N (R113). -/
def execVdot4n (p : Bool) (d a b : Reg) (r : Route) : State → Out := vecBD (.vdot4n p d a b r) p d a b r fun x y z => ofInt32 ((z.toNat : Int) + dot4 false x y)

/-! ### Minimum, maximum, absolute value, negation (R114) -/

/-- VMIN (R114). -/
def execVmin (p : Bool) (d a b : Reg) (r : Route) : State → Out := vecB (.vmin p d a b r) p d a b r minS

/-- VMAX (R114). -/
def execVmax (p : Bool) (d a b : Reg) (r : Route) : State → Out := vecB (.vmax p d a b r) p d a b r maxS

/-- VMINN (R114). -/
def execVminn (p : Bool) (d a b : Reg) (r : Route) : State → Out := vecB (.vminn p d a b r) p d a b r minU

/-- VMAXN (R114). -/
def execVmaxn (p : Bool) (d a b : Reg) (r : Route) : State → Out := vecB (.vmaxn p d a b r) p d a b r maxU

/-- VABS (R114). -/
def execVabs (p : Bool) (d b : Reg) (r : Route) : State → Out := vecU (.vabs p d b r) p d b r fun y => nat32 y.toInt.natAbs

/-- VNEG (R114). -/
def execVneg (p : Bool) (d b : Reg) (r : Route) : State → Out := vecU (.vneg p d b r) p d b r fun y => 0 - y

/-! ### Logic, move, bit counts (R115) -/

/-- VAND (R115). -/
def execVand (p : Bool) (d a b : Reg) (r : Route) : State → Out := vecB (.vand p d a b r) p d a b r fun x y => x &&& y

/-- VOR (R115). -/
def execVor (p : Bool) (d a b : Reg) (r : Route) : State → Out := vecB (.vor p d a b r) p d a b r fun x y => x ||| y

/-- VXOR (R115). -/
def execVxor (p : Bool) (d a b : Reg) (r : Route) : State → Out := vecB (.vxor p d a b r) p d a b r fun x y => x ^^^ y

/-- VANDN (R115). -/
def execVandn (p : Bool) (d a b : Reg) (r : Route) : State → Out := vecB (.vandn p d a b r) p d a b r fun x y => x &&& ~~~y

/-- VNOT (R115). -/
def execVnot (p : Bool) (d b : Reg) (r : Route) : State → Out := vecU (.vnot p d b r) p d b r fun y => ~~~y

/-- VMOV (R115). -/
def execVmov (p : Bool) (d b : Reg) (r : Route) : State → Out := vecU (.vmov p d b r) p d b r fun y => y

/-- VPOPC (R115). -/
def execVpopc (p : Bool) (d b : Reg) (r : Route) : State → Out := vecU (.vpopc p d b r) p d b r popc

/-- VCLZ (R115). -/
def execVclz (p : Bool) (d b : Reg) (r : Route) : State → Out := vecU (.vclz p d b r) p d b r clz

/-! ### Shifts, rotation, bit reversal (R116) -/

/-- VSHL (R116). -/
def execVshl (p : Bool) (d a b : Reg) (r : Route) : State → Out := vecB (.vshl p d a b r) p d a b r fun x y => shl x (shAmt y)

/-- VSHR (R116). -/
def execVshr (p : Bool) (d a b : Reg) (r : Route) : State → Out := vecB (.vshr p d a b r) p d a b r fun x y => shr x (shAmt y)

/-- VSRA (R116). -/
def execVsra (p : Bool) (d a b : Reg) (r : Route) : State → Out := vecB (.vsra p d a b r) p d a b r fun x y => sra x (shAmt y)

/-- VROTL (R116). -/
def execVrotl (p : Bool) (d a b : Reg) (r : Route) : State → Out := vecB (.vrotl p d a b r) p d a b r fun x y => rotl x (shAmt y)

/-- VBREV (R116). -/
def execVbrev (p : Bool) (d b : Reg) (r : Route) : State → Out := vecU (.vbrev p d b r) p d b r brev

/-! ### Broadcast, per-lane special registers (R68, R117, R118) -/

/-- VBCAST (R117). -/
def execVbcast (p : Bool) (d s : Reg) : State → Out := issueW (.vbcast p d s) { p, vs := [d] } fun c =>
  c.w.writeV d c.act false (fun _ => sval c.w s) (slab c.w s ||| c.w.ctxlbl)

/-- GLANE (R68). -/
def glane (g : Group) (wave l : Nat) : Nat := (g.lin * g.nwaves + wave) * 64 + l

/-- The value of a per-lane special register (R68). -/
def laneReg (c : Cur) (n : LaneReg) (l : Nat) : Word :=
  match n with
  | .lane => nat32 l
  | .glane => nat32 (glane c.g c.ref.wave l)
  | .pcv => nat32 (c.w.pcAt l + (if c.w.live l then 0 else 2 ^ 31))
  | .trappcv => c.w.tpcv.getD l 0
  | .rngctr => c.w.rngctr.getD l 0

/-- VSREG (R118). -/
def execVsreg (p : Bool) (d : Reg) (n : LaneReg) : State → Out := issueW (.vsreg p d n) { p, vs := [d] } fun c => c.w.writeV d c.act false (laneReg c n) c.w.ctxlbl

/-! ### Immediate forms (R119); LIT gives them imm32 (R60) -/

/-- An immediate form of w words: vd[l] := f va[l] i. -/
def vecImm (i : Instr) (words : Nat) (p : Bool) (d a : Reg) (f : Word → Word) : State → Out :=
  issueW i { p, vs := [d, a], words } fun c =>
    c.w.writeV d c.act false (fun l => f (c.w.lane a l)) (vlab c.w a ||| c.w.ctxlbl)

/-- VLI: vd[l] := x; no register is read. -/
def vecLi (i : Instr) (words : Nat) (p : Bool) (d : Reg) (x : Word) : State → Out :=
  issueW i { p, vs := [d], words } fun c => c.w.writeV d c.act false (fun _ => x) c.w.ctxlbl

/-- VADDI (R119). -/
def execVaddi (p : Bool) (d a : Reg) (imm : BitVec 12) : State → Out := vecImm (.vaddi p d a imm) 1 p d a fun x => x + immS imm

/-- VANDI (R119). -/
def execVandi (p : Bool) (d a : Reg) (imm : BitVec 12) : State → Out := vecImm (.vandi p d a imm) 1 p d a fun x => x &&& immZ imm

/-- VORI (R119). -/
def execVori (p : Bool) (d a : Reg) (imm : BitVec 12) : State → Out := vecImm (.vori p d a imm) 1 p d a fun x => x ||| immZ imm

/-- VXORI (R119). -/
def execVxori (p : Bool) (d a : Reg) (imm : BitVec 12) : State → Out := vecImm (.vxori p d a imm) 1 p d a fun x => x ^^^ immZ imm

/-- VSHLI (R119). -/
def execVshli (p : Bool) (d a : Reg) (n : Fin 32) : State → Out := vecImm (.vshli p d a n) 1 p d a fun x => shl x n

/-- VSHRI (R119). -/
def execVshri (p : Bool) (d a : Reg) (n : Fin 32) : State → Out := vecImm (.vshri p d a n) 1 p d a fun x => shr x n

/-- VSRAI (R119). -/
def execVsrai (p : Bool) (d a : Reg) (n : Fin 32) : State → Out := vecImm (.vsrai p d a n) 1 p d a fun x => sra x n

/-- VLI (R119). -/
def execVli (p : Bool) (d : Reg) (imm : BitVec 12) : State → Out := vecLi (.vli p d imm) 1 p d (immS imm)

/-! ### VCVTI (R126) -/

/-- VCVTI (R126). -/
def execVcvti (p : Bool) (f : CvtiForm) (d a : Reg) : State → Out := match f with
  | .nb j => vecAD (.vcvti p f d a) p d a fun x z => setBits z (8 * j) 8 (satS x.toInt 8 % 2 ^ 8).toNat
  | .nh hi => vecAD (.vcvti p f d a) p d a fun x z => setBits z (if hi then 16 else 0) 16 (satS x.toInt 16 % 2 ^ 16).toNat
  | .sb j => vecA (.vcvti p f d a) p d a fun x => (byteAt x j).signExtend 32
  | .zb j => vecA (.vcvti p f d a) p d a fun x => (byteAt x j).setWidth 32
  | .sh hi => vecA (.vcvti p f d a) p d a fun x => (halfAt x hi).signExtend 32
  | .zh hi => vecA (.vcvti p f d a) p d a fun x => (halfAt x hi).setWidth 32

/-! ### Compares and select (R127, R128) -/

/-- The conditions of VCMPI. -/
def condI (c : CondI) (x y : Word) : Bool :=
  match c with
  | .eq => x == y
  | .ne => x != y
  | .lt => decide (x.toInt < y.toInt)
  | .le => decide (x.toInt ≤ y.toInt)
  | .ltn => decide (x.toNat < y.toNat)
  | .len => decide (x.toNat ≤ y.toNat)
  | .bits => (x &&& y) != 0

/-- The conditions of VCMPF. -/
def condF (c : CondF) (x y : Word) : Bool :=
  let u := decodeF f32 x.toNat
  let v := decodeF f32 y.toNat
  match c with
  | .eq => eqV u v
  | .ne => !eqV u v
  | .lt => ltV u v
  | .le => leV u v
  | .un => u.isNaN || v.isNaN
  | .ord => !(u.isNaN || v.isNaN)

/-- A compare of shape B into a mask (R127). -/
def vecCmp (i : Instr) (p : Bool) (m : MReg) (a b : Reg) (r : Route) (f : Word → Word → Bool) : State → Out :=
  issueW i { p, vs := [a, b] } fun c =>
    c.w.writeM m c.act (fun l => f (c.w.lane a l) (routed c.w b r l))
      (vlab c.w a ||| vlab c.w b ||| routeLab c.w r ||| c.w.ctxlbl)

/-- VCMPI (R127). -/
def execVcmpi (p : Bool) (c : CondI) (m : MReg) (a b : Reg) (r : Route) : State → Out := vecCmp (.vcmpi p c m a b r) p m a b r (condI c)

/-- VCMPF (R127). -/
def execVcmpf (p : Bool) (c : CondF) (m : MReg) (a b : Reg) (r : Route) : State → Out := vecCmp (.vcmpf p c m a b r) p m a b r (condF c)

/-- VSEL (R128). -/
def execVsel (p : Bool) (d a b : Reg) (r : Route) (k : MReg) : State → Out := issueW (.vsel p d a b r k) { p, vs := [d, a, b] } fun c =>
  c.w.writeV d c.act false (fun l => if (c.w.mreg k).val.getLsbD l then c.w.lane a l else routed c.w b r l)
    (vlab c.w a ||| vlab c.w b ||| routeLab c.w r ||| (c.w.mreg k).lab ||| c.w.ctxlbl)

/-! ### Random numbers (R133 to R137) -/

/-- One round of Philox4x32-10 (R133). -/
def philoxRound (c : Word × Word × Word × Word) (k0 k1 : Word) : Word × Word × Word × Word :=
  let (c0, c1, c2, c3) := c
  let p0 := c0.toNat * 0xD251_1F53
  let p1 := c2.toNat * 0xCD9E_8D57
  (nat32 (p1 / 2 ^ 32) ^^^ c1 ^^^ k0, nat32 p1, nat32 (p0 / 2 ^ 32) ^^^ c3 ^^^ k1, nat32 p0)

/-- n rounds, the key growing before each but the first. -/
def philoxRounds : Nat → (Word × Word × Word × Word) → Word → Word → Word × Word × Word × Word
  | 0, c, _, _ => c
  | n + 1, c, k0, k1 => philoxRounds n (philoxRound c k0 k1) (k0 + 0x9E37_79B9) (k1 + 0xBB67_AE85)

/-- Philox (R133). -/
def philox (c0 c1 c2 c3 k0 k1 : Word) : Word × Word × Word × Word := philoxRounds 10 (c0, c1, c2, c3) k0 k1

/-- The draw of a lane (R134): 32 bits, or j × 2^-24 as F32. -/
def rngDraw (c : Cur) (f32Form : Bool) (stream l : Nat) : Word :=
  let w0 := (philox (nat32 (glane c.g c.ref.wave l)) (c.w.rngctr.getD l 0) (nat32 stream) 0
    (nat32 c.w.rngkey.toNat) (nat32 (c.w.rngkey.toNat / 2 ^ 32))).1
  if f32Form then nat32 (roundF Sys2Proof.Machine.f32 (.fin false (w0.toNat / 2 ^ 8) (-24))).1 else w0

/-- VRNG (R134). -/
def execVrng (p : Bool) (f32 : Bool) (d : Reg) (stream : Fin 64) : State → Out := issueW (.vrng p f32 d stream) { p, vs := [d] } fun c =>
  let w := c.w.writeV d c.act false (rngDraw c f32 stream) (c.w.rnglab ||| c.w.ctxlbl)
  { w with rngctr := (List.range 64).map fun l => w.rngctr.getD l 0 + (if c.act.getLsbD l then 1 else 0) }

/-- RNGKEY (R137). -/
def execRngkey (p : Bool) (a : Reg) : State → Out := issueW (.rngkey p a) { p } fun c =>
  { c.w with rngkey := BitVec.ofNat 64 (c.w.pair a), rnglab := c.w.pairLab a ||| c.w.ctxlbl }

end Sys2Proof.Machine
end

