-- ==== Sys2Proof/Machine/Uniform.lean ====
section
/-! DEFINITION. Uniform arithmetic, special registers, masks, literals, lane reads (spec/07_uniform_flow.md R138 to R147, R162,
R163; spec/03_formats.md R60, R67, R69). -/

namespace Sys2Proof.Machine

/-! ### SALU (R139) and SSET (R140) -/

/-- SADD (R139). -/
def execSadd (p : Bool) (d a b : Reg) : State → Out := uni2 (.sadd p d a b) p d a b fun x y => x + y

/-- SSUB (R139). -/
def execSsub (p : Bool) (d a b : Reg) : State → Out := uni2 (.ssub p d a b) p d a b fun x y => x - y

/-- SMUL (R139). -/
def execSmul (p : Bool) (d a b : Reg) : State → Out := uni2 (.smul p d a b) p d a b fun x y => x * y

/-- SMULH (R139). -/
def execSmulh (p : Bool) (d a b : Reg) : State → Out := uni2 (.smulh p d a b) p d a b mulHi

/-- SMULHN (R139). -/
def execSmulhn (p : Bool) (d a b : Reg) : State → Out := uni2 (.smulhn p d a b) p d a b mulHiN

/-- SAND (R139). -/
def execSand (p : Bool) (d a b : Reg) : State → Out := uni2 (.sand p d a b) p d a b fun x y => x &&& y

/-- SOR (R139). -/
def execSor (p : Bool) (d a b : Reg) : State → Out := uni2 (.sor p d a b) p d a b fun x y => x ||| y

/-- SXOR (R139). -/
def execSxor (p : Bool) (d a b : Reg) : State → Out := uni2 (.sxor p d a b) p d a b fun x y => x ^^^ y

/-- SSHL (R139). -/
def execSshl (p : Bool) (d a b : Reg) : State → Out := uni2 (.sshl p d a b) p d a b fun x y => shl x (shAmt y)

/-- SSHR (R139). -/
def execSshr (p : Bool) (d a b : Reg) : State → Out := uni2 (.sshr p d a b) p d a b fun x y => shr x (shAmt y)

/-- SSRA (R139). -/
def execSsra (p : Bool) (d a b : Reg) : State → Out := uni2 (.ssra p d a b) p d a b fun x y => sra x (shAmt y)

/-- SMIN (R139). -/
def execSmin (p : Bool) (d a b : Reg) : State → Out := uni2 (.smin p d a b) p d a b minS

/-- SMAX (R139). -/
def execSmax (p : Bool) (d a b : Reg) : State → Out := uni2 (.smax p d a b) p d a b maxS

/-- SMINN (R139). -/
def execSminn (p : Bool) (d a b : Reg) : State → Out := uni2 (.sminn p d a b) p d a b minU

/-- SMAXN (R139). -/
def execSmaxn (p : Bool) (d a b : Reg) : State → Out := uni2 (.smaxn p d a b) p d a b maxU

/-- SCLZ (R139). -/
def execSclz (p : Bool) (d a : Reg) : State → Out := uni1 (.sclz p d a) p d a clz

/-- SPOPC (R139). -/
def execSpopc (p : Bool) (d a : Reg) : State → Out := uni1 (.spopc p d a) p d a popc

/-- SROTL (R139). -/
def execSrotl (p : Bool) (d a b : Reg) : State → Out := uni2 (.srotl p d a b) p d a b fun x y => rotl x (shAmt y)

/-- The conditions of SSET (R140). -/
def condS (c : CondS) (x y : Word) : Bool :=
  match c with
  | .eq => x == y
  | .ne => x != y
  | .lt => decide (x.toInt < y.toInt)
  | .le => decide (x.toInt ≤ y.toInt)
  | .ltn => decide (x.toNat < y.toNat)
  | .len => decide (x.toNat ≤ y.toNat)

/-- SSET (R140). -/
def execSset (p : Bool) (c : CondS) (d a b : Reg) : State → Out := uni2 (.sset p c d a b) p d a b fun x y => bool32 (condS c x y)

/-! ### Immediate forms (R141) -/

/-- An immediate form of w words: s[d] := f s[a]. -/
def uniImm (i : Instr) (words : Nat) (p : Bool) (d a : Reg) (f : Word → Word) : State → Out :=
  issueW i { p, words } fun c => c.w.writeS d (f (sval c.w a)) (slab c.w a ||| c.w.ctxlbl)

/-- SADDI (R141). -/
def execSaddi (p : Bool) (d a : Reg) (imm : BitVec 12) : State → Out := uniImm (.saddi p d a imm) 1 p d a fun x => x + immS imm

/-- SANDI (R141). -/
def execSandi (p : Bool) (d a : Reg) (imm : BitVec 12) : State → Out := uniImm (.sandi p d a imm) 1 p d a fun x => x &&& immZ imm

/-- SORI (R141). -/
def execSori (p : Bool) (d a : Reg) (imm : BitVec 12) : State → Out := uniImm (.sori p d a imm) 1 p d a fun x => x ||| immZ imm

/-- SXORI (R141). -/
def execSxori (p : Bool) (d a : Reg) (imm : BitVec 12) : State → Out := uniImm (.sxori p d a imm) 1 p d a fun x => x ^^^ immZ imm

/-- SSHLI (R141). -/
def execSshli (p : Bool) (d a : Reg) (n : Fin 32) : State → Out := uniImm (.sshli p d a n) 1 p d a fun x => shl x n

/-- SSHRI (R141). -/
def execSshri (p : Bool) (d a : Reg) (n : Fin 32) : State → Out := uniImm (.sshri p d a n) 1 p d a fun x => shr x n

/-- SSRAI (R141). -/
def execSsrai (p : Bool) (d a : Reg) (n : Fin 32) : State → Out := uniImm (.ssrai p d a n) 1 p d a fun x => sra x n

/-- LIT (R60, the consumer with imm32; three words issue as one). -/
def execLit (p : Bool) (op : LitOp) (d a : Reg) (imm : BitVec 32) : State → Out := match op with
  | .vaddi => vecImm (.lit p op d a imm) 3 p d a fun x => x + imm
  | .vandi => vecImm (.lit p op d a imm) 3 p d a fun x => x &&& imm
  | .vori => vecImm (.lit p op d a imm) 3 p d a fun x => x ||| imm
  | .vxori => vecImm (.lit p op d a imm) 3 p d a fun x => x ^^^ imm
  | .vshli => vecImm (.lit p op d a imm) 3 p d a fun x => shl x (shAmt imm)
  | .vshri => vecImm (.lit p op d a imm) 3 p d a fun x => shr x (shAmt imm)
  | .vsrai => vecImm (.lit p op d a imm) 3 p d a fun x => sra x (shAmt imm)
  | .vli => vecLi (.lit p op d a imm) 3 p d imm
  | .saddi => uniImm (.lit p op d a imm) 3 p d a fun x => x + imm
  | .sandi => uniImm (.lit p op d a imm) 3 p d a fun x => x &&& imm
  | .sori => uniImm (.lit p op d a imm) 3 p d a fun x => x ||| imm
  | .sxori => uniImm (.lit p op d a imm) 3 p d a fun x => x ^^^ imm
  | .sshli => uniImm (.lit p op d a imm) 3 p d a fun x => shl x (shAmt imm)
  | .sshri => uniImm (.lit p op d a imm) 3 p d a fun x => shr x (shAmt imm)
  | .ssrai => uniImm (.lit p op d a imm) 3 p d a fun x => sra x (shAmt imm)

/-! ### SLIL, SLIH, SSEL (R142, R143) -/

/-- SLIL (R142). -/
def execSlil (p : Bool) (d : Reg) (imm : BitVec 16) : State → Out := uniRes (.slil p d imm) p d (fun _ => imm.setWidth 32) fun _ => 0

/-- SLIH (R142). -/
def execSlih (p : Bool) (d : Reg) (imm : BitVec 16) : State → Out := uniRes (.slih p d imm) p d (fun w => nat32 (imm.toNat * 2 ^ 16 + (sval w d).toNat % 2 ^ 16)) fun w => slab w d

/-- SSEL (R143). -/
def execSsel (p : Bool) (d a b c : Reg) : State → Out := uniRes (.ssel p d a b c) p d (fun w => if sval w c ≠ 0 then sval w a else sval w b)
  fun w => slab w c ||| slab w a ||| slab w b

/-! ### Special registers (R42, R67, R69, R144, R145, R235) -/

/-- The slots of a class that are an owner's own (R42). -/
def slotMap (s : State) (c : RotaClass) (o : Nat) : Nat :=
  let tbl := (s.rota.live.getD c.code 0).toNat
  (List.range 16).foldl (fun n k => if tbl / 2 ^ (4 * k) % 16 = o then n + 2 ^ k else n) 0

def ctxOf (s : State) (c : Cur) : Ctx := s.ctx c.g.ctx

/-- OMODE (R42). -/
def omode (s : State) (c : Cur) : Nat :=
  match s.owner? c.g.owner with
  | none => 0
  | some o => o.repepoch.toNat * 2 ^ 8 + (if c.w.overrun then 4 else 0) + (if o.timed then 1 else 0)

/-- The value of a uniform special register at issue. -/
def specialReg (s : State) (c : Cur) : SpecialReg → Nat
  | .ocycl => c.g.ocycAt s.now
  | .ocych => c.w.ocych.toNat
  | .owner => c.g.owner
  | .omode => omode s c
  | .rphase => s.now % 256
  | .slotmap k => slotMap s k c.g.owner
  | .wave => c.ref.wave
  | .group => c.g.lin
  | .cluster => match s.kernel? c.g.kernel with
    | some k => c.g.lin / k.c
    | none => c.g.lin
  | .gridx => match s.kernel? c.g.kernel with
    | some k => c.g.lin % k.dx
    | none => 0
  | .gridy => match s.kernel? c.g.kernel with
    | some k => c.g.lin / k.dx % k.dy
    | none => 0
  | .gridz => match s.kernel? c.g.kernel with
    | some k => c.g.lin / (k.dx * k.dy)
    | none => 0
  | .ngroups => match s.kernel? c.g.kernel with
    | some k => k.dx * k.dy * k.dz
    | none => 0
  | .waves => c.g.nwaves
  | .rlane => c.w.rlane.val.toNat
  | .fflags => c.w.fflags.val.toNat
  | .detstat => (if c.g.sovf then 2 else 0) + (if c.g.det then 1 else 0)
  | .lclkl => (s.core c.core).lclk
  | .lclkh => c.w.lclkh.toNat
  | .clwin => (ctxOf s c).clwin
  | .trapcause => c.w.tcause.toNat
  | .trappc => c.w.tpc.val.toNat
  | .trapaddrl => c.w.taddr.toNat
  | .trapaddrh => c.w.taddr.toNat / 2 ^ 32
  | .pathcnt n => c.w.pathcnt.getD n 0
  | .outstnd => c.w.entries
  | .ctxlbl => c.w.ctxlbl.toNat

/-- The label of the register itself, of those that carry one (R69). -/
def specialLab (w : Wave) : SpecialReg → Label
  | .rlane => w.rlane.lab
  | .fflags => w.fflags.lab
  | .trappc => w.tpc.lab
  | _ => 0

/-- What reading a special register changes (R42, R67, R144). -/
def specialSide (s : State) (c : Cur) (n : SpecialReg) (w : Wave) : Wave :=
  match n with
  | .ocycl => { w with ocych := nat32 (c.g.ocycAt s.now / 2 ^ 32) }
  | .lclkl => { w with lclkh := nat32 ((s.core c.core).lclk / 2 ^ 32 % 2 ^ 16) }
  | .omode => { w with overrun := false }
  | _ => w

/-- SRD (R144). -/
def execSrd (p : Bool) (d : Reg) (n : SpecialReg) : State → Out := issue (.srd p d n) { p } fun c s =>
  .done (s.updWave c.ref fun _ =>
    specialSide s c n (c.w.writeS d (nat32 (specialReg s c n)) (c.w.ctxlbl ||| specialLab c.w n)))

/-- SWR's effect on the three writable registers (R69). -/
def writeSpecial (n : SpecialReg) (x : Word) (l : Label) (w : Wave) : Wave :=
  match n with
  | .rlane => { w with rlane := ⟨x &&& 0x3F, l⟩ }
  | .fflags => { w with fflags := ⟨x &&& 0x1F, l⟩ }
  | .trappc => { w with tpc := ⟨x &&& 0x7FFF, l⟩ }
  | _ => w

/-- SWR (R145, the others trap PRIV). -/
def execSwr (p : Bool) (n : SpecialReg) (a : Reg) : State → Out := issue (.swr p n a) { p } fun c s =>
  if n.writable then .done (s.updWave c.ref fun _ => writeSpecial n (sval c.w a) (slab c.w a ||| c.w.ctxlbl) c.w)
  else .trap s privOp 0 0

/-! ### Masks (R146) -/

/-- A uniform result from a mask register. -/
def maskToS (i : Instr) (p : Bool) (d : Reg) (a : MReg) (f : BitVec 64 → BitVec 64 → Nat) : State → Out :=
  issueW i { p } fun c => c.w.writeS d (nat32 (f (c.w.mreg a).val c.act)) ((c.w.mreg a).lab ||| c.w.ctxlbl)

/-- A whole mask result. -/
def maskRes (i : Instr) (p : Bool) (d : MReg) (f : Wave → BitVec 64) (lab : Wave → Label) : State → Out :=
  issueW i { p } fun c => c.w.putM d (f c.w) (lab c.w ||| c.w.ctxlbl)

def mlab (w : Wave) (m : MReg) : Label := (w.mreg m).lab

/-- Lanes of a mask, ascending. -/
def lanesOf (m : BitVec 64) : List Nat := (List.range 64).filter m.getLsbD

/-- MRDL (R146). -/
def execMrdl (p : Bool) (d : Reg) (a : MReg) : State → Out := maskToS (.mrdl p d a) p d a fun m _ => m.toNat

/-- MRDH (R146). -/
def execMrdh (p : Bool) (d : Reg) (a : MReg) : State → Out := maskToS (.mrdh p d a) p d a fun m _ => m.toNat / 2 ^ 32

/-- MWR (R146). -/
def execMwr (p : Bool) (d : MReg) (a b : Reg) : State → Out := maskRes (.mwr p d a b) p d (fun w => BitVec.ofNat 64 ((sval w a).toNat + 2 ^ 32 * (sval w b).toNat)) fun w => slab w a ||| slab w b

/-- MPOP (R146). -/
def execMpop (p : Bool) (d : Reg) (a : MReg) : State → Out := maskToS (.mpop p d a) p d a fun m _ => (lanesOf m).length

/-- MFFS (R146). -/
def execMffs (p : Bool) (d : Reg) (a : MReg) : State → Out := maskToS (.mffs p d a) p d a fun m _ => (lanesOf m).headD 64

/-- MAND (R146). -/
def execMand (p : Bool) (d a b : MReg) : State → Out := maskRes (.mand p d a b) p d (fun w => (w.mreg a).val &&& (w.mreg b).val) fun w => mlab w a ||| mlab w b

/-- MOR (R146). -/
def execMor (p : Bool) (d a b : MReg) : State → Out := maskRes (.mor p d a b) p d (fun w => (w.mreg a).val ||| (w.mreg b).val) fun w => mlab w a ||| mlab w b

/-- MXOR (R146). -/
def execMxor (p : Bool) (d a b : MReg) : State → Out := maskRes (.mxor p d a b) p d (fun w => (w.mreg a).val ^^^ (w.mreg b).val) fun w => mlab w a ||| mlab w b

/-- MNOT (R146). -/
def execMnot (p : Bool) (d a : MReg) : State → Out := maskRes (.mnot p d a) p d (fun w => ~~~(w.mreg a).val) fun w => mlab w a

/-- VANY (R146). -/
def execVany (p : Bool) (d : Reg) (a : MReg) : State → Out := maskToS (.vany p d a) p d a fun m act => if m &&& act ≠ 0 then 1 else 0

/-- VALL (R146). -/
def execVall (p : Bool) (d : Reg) (a : MReg) : State → Out := maskToS (.vall p d a) p d a fun m act => if act &&& ~~~m = 0 then 1 else 0

/-! ### Reading lanes from the uniform side (R162, R163) -/

/-- VLANE (R162). -/
def execVlane (p : Bool) (d a b : Reg) : State → Out := issueW (.vlane p d a b) { p, vs := [a] } fun c =>
  c.w.writeS d (c.w.lane a ((sval c.w b).toNat % 64)) (vlab c.w a ||| slab c.w b ||| c.w.ctxlbl)

/-- A reduction over values in order, the first one unchanged, with the flags of every step (R163). -/
def reduce (op : RedOp) : List Word → Word × Flags
  | [] => (0, 0)
  | x :: xs => xs.foldl (fun r y => let (v, f) := redStep op r.1 y; (v, r.2 ||| f)) (x, 0)

def redFloat (op : RedOp) : Bool := op = .fadd

/-- VRED (R163). -/
def execVred (p : Bool) (op : RedOp) (d a : Reg) : State → Out := issueW (.vred p op d a) { p, vs := [a] } fun c =>
  let (x, f) := reduce op ((lanesOf c.act).map (c.w.lane a))
  let l := vlab c.w a ||| c.w.ctxlbl
  let w := c.w.writeS d x l
  if redFloat op then w.raise f l else w

end Sys2Proof.Machine
end

