-- ==== Sys2Proof/Machine/Hyper.lean ====
section
/-! DEFINITION. The hypervector unit and the Seedbank (spec/08_rearrange_hyper.md R172 to R184). HLD and HST stand in
Memory.lean. -/

namespace Sys2Proof.Machine

def Group.hreg (g : Group) (n : Nat) : HReg := g.h.getD n .zero
def Group.acc (g : Group) (k : Nat) : Accum := g.a.getD k .zero

/-- A pipe write of a hypervector register: it cancels what any wave of the group has outstanding for it, committed in this cycle
or later (R173). -/
def writeH (gid n : Nat) (v : BitVec 8192) (l : Label) (s : State) : State :=
  s.updGroup gid fun g => { g with
    h := setReg 16 n ⟨v, l⟩ .zero g.h, hnew := g.hnew.filter (·.1 != n), waves := g.waves.map (·.cancel (.h n)) }

def writeAcc (gid k : Nat) (x : Accum) (s : State) : State := s.updGroup gid fun g => { g with a := setReg 4 k x .zero g.a }

/-- Number of 1 bits among the first n. -/
def popcount {w : Nat} (x : BitVec w) (n : Nat) : Nat := (List.range n).foldl (fun k i => if x.getLsbD i then k + 1 else k) 0
/-- Hamming distance (R179). -/
def hamming (x y : BitVec 8192) : Nat := popcount (x ^^^ y) 8192

/-! ### HBIND, HPERM, HCOPY (R175) -/

/-- HBIND (R175). -/
def execHbind (p : Bool) (d a b : Fin 16) : State → Out := issue (.hbind p d a b) { p, hs := [d, a, b] } fun c s =>
  .done (writeH c.g.gid d ((c.g.hreg a).val ^^^ (c.g.hreg b).val) ((c.g.hreg a).lab ||| (c.g.hreg b).lab ||| c.w.ctxlbl) s)

/-- HPERM (R175). -/
def execHperm (p : Bool) (d a : Fin 16) (s : Reg) : State → Out := issue (.hperm p d a s) { p, hs := [d, a] } fun c st =>
  .done (writeH c.g.gid d ((c.g.hreg a).val.rotateLeft ((sval c.w s).toNat % 8192)) ((c.g.hreg a).lab ||| slab c.w s ||| c.w.ctxlbl) st)

/-- HCOPY (R175). -/
def execHcopy (p : Bool) (d a : Fin 16) : State → Out := issue (.hcopy p d a) { p, hs := [d, a] } fun c s =>
  .done (writeH c.g.gid d (c.g.hreg a).val ((c.g.hreg a).lab ||| c.w.ctxlbl) s)

/-! ### Accumulators (R176 to R178) -/

/-- One counter of HBUND: the clamped sum, and whether the clamp changed it. -/
def bundle (c : Int) (bit : Bool) : Int × Bool :=
  let x := c + (if bit then 1 else -1)
  let y := max (-127) (min x 127)
  (y, x != y)

/-- HBUND (R176). -/
def execHbund (p : Bool) (k : Fin 4) (a : Fin 16) : State → Out := issue (.hbund p k a) { p, hs := [a], as := [k] } fun c s =>
  let x := c.g.acc k
  let h := c.g.hreg a
  let r := (List.range 8192).map fun i => bundle (x.c.getD i 0) (h.val.getLsbD i)
  .done (writeAcc c.g.gid k { x with c := r.map (·.1), sat := x.sat || r.any (·.2), lab := x.lab ||| h.lab ||| c.w.ctxlbl } s)

/-- HCLR (R176). -/
def execHclr (p : Bool) (k : Fin 4) : State → Out := issue (.hclr p k) { p, as := [k] } fun c s =>
  .done (writeAcc c.g.gid k { c.g.acc k with c := [], sat := false, lab := c.w.ctxlbl } s)

/-- HTIE (R177). -/
def execHtie (p : Bool) (k : Fin 4) (pol : TiePolicy) (b : Fin 16) : State → Out := issue (.htie p k pol b) { p, hs := (if pol = .reg then [b.val] else []), as := [k] } fun c s =>
  let x := c.g.acc k
  .done (writeAcc c.g.gid k { x with tie := pol, tr := if pol = .reg then b else x.tr } s)

/-- HTHR's bit for a counter (R178). -/
def thrBit (x : Accum) (tie : BitVec 8192) (i : Nat) : Bool :=
  let c := x.c.getD i 0
  if c > 0 then true else if c < 0 then false else match x.tie with
    | .zero => false
    | .one => true
    | .reg => tie.getLsbD i

/-- The bits of a predicate, from the highest down. -/
def bitsOf (f : Nat → Bool) : (n : Nat) → Nat
  | 0 => 0
  | n + 1 => (if f n then 2 ^ n else 0) + bitsOf f n

/-- HTHR (R178). -/
def execHthr (p : Bool) (k : Fin 4) (h : Fin 16) (s : Reg) : State → Out := issue (.hthr p k h s) { p, hs := [h], as := [k] } fun c st =>
  let x := c.g.acc k
  let tie := c.g.hreg x.tr
  let l := x.lab ||| c.w.ctxlbl
  let st := st.updWave c.ref fun w => w.writeS s (bool32 x.sat) l
  .done (writeH c.g.gid h (BitVec.ofNat 8192 (bitsOf (thrBit x tie.val) 8192)) (if x.tie = .reg then l ||| tie.lab else l) st)

/-- HSIM (R179). -/
def execHsim (p : Bool) (a b : Fin 16) (s : Reg) : State → Out := issue (.hsim p a b s) { p, hs := [a, b] } fun c st =>
  .done (st.updWave c.ref fun w =>
    w.writeS s (nat32 (hamming (c.g.hreg a).val (c.g.hreg b).val)) ((c.g.hreg a).lab ||| (c.g.hreg b).lab ||| c.w.ctxlbl))

/-! ### The Seedbank (R180 to R184) -/

/-- The owner's range on a core's die: start and size. -/
def seedRange (s : State) (c : Cur) : Nat × Nat :=
  match s.owner? c.g.owner with
  | none => (0, 0)
  | some o => match o.spec.seed.find? (fun e => e.1 == c.core / 128) with
    | some (_, start, size) => (start, size)
    | none => (0, 0)

/-- The number of an entry in the package: its die and its index there. -/
def seedKey (s : State) (c : Cur) (e : Nat) : Nat := c.core / 128 * 16384 + (seedRange s c).1 + e

/-- An entry as it stands at the start of a cycle (R181). -/
def seedAt (m : Mem) (now key : Nat) : HReg :=
  match (m.seedw.reverse.find? fun e => e.2.1 == key && decide (e.1 < now)) with
  | some e => e.2.2
  | none => look .zero key m.seed

/-- A write at the end of a cycle; writes of earlier cycles settle into the bank. -/
def seedPut (m : Mem) (now key : Nat) (x : HReg) : Mem :=
  { m with
    seed := (m.seedw.filter (·.1 < now)).foldl (fun l e => enter e.2.1 e.2.2 l) m.seed
    seedw := m.seedw.filter (·.1 ≥ now) ++ [(now, key, x)] }

/-- The failure of a Seedbank access beyond the range (R182), with the label of the failing check's operands (R250). -/
def seedFail (e : Nat) (lab : Label) : Fail := ⟨permFault, e, lab, false, false⟩

/-- HWR (R182). -/
def execHwr (p : Bool) (a : Fin 16) (s : Reg) : State → Out := issue (.hwr p a s) { p, hs := [a] } fun c st =>
  let e := (sval c.w s).toNat
  if e < (seedRange st c).2 then
    .done (st.setMem (seedPut st.mem st.now (seedKey st c e)
      ⟨(c.g.hreg a).val, (c.g.hreg a).lab ||| slab c.w s ||| c.w.ctxlbl⟩))
  else .done (pushFail c (seedFail e (slab c.w s)) "HWR" st)

/-- HRD (R182). -/
def execHrd (p : Bool) (d : Fin 16) (s : Reg) : State → Out := issue (.hrd p d s) { p, hs := [d], entry := true } fun c st =>
  let e := (sval c.w s).toNat
  if e < (seedRange st c).2 then
    let x := seedAt st.mem st.now (seedKey st c e)
    .done (pushTimed c 64 { Pend.blank "HRD" with ws := [RegWrite.hyper d x.val (x.lab ||| slab c.w s ||| c.w.ctxlbl)] } st)
  else .done (pushTimed c 64 { Pend.blank "HRD" with fail := some (seedFail e (slab c.w s)) } st)

/-- The nearest of n entries from the (base)th: distance and lowest index (R183). -/
def nearest (s : State) (c : Cur) (q : BitVec 8192) (base : Nat) : Nat → Nat × Nat
  | 0 => (8193, 0)
  | n + 1 =>
    let best := nearest s c q base n
    let d := hamming q (seedAt s.mem s.now (seedKey s c (base + n))).val
    if d < best.1 then (d, base + n) else best

/-- The union of the labels of n entries from the (base)th. -/
def seedLabs (s : State) (c : Cur) (base n : Nat) : Label :=
  (List.range n).foldl (fun l k => l ||| (seedAt s.mem s.now (seedKey s c (base + k))).lab) 0

/-- HNEAR (R183). -/
def execHnear (p : Bool) (a : Fin 16) (s : Reg) : State → Out := issue (.hnear p a s) { p, hs := [a], entry := true } fun c st =>
  let base := (sval c.w s).toNat
  let count := (sval c.w ⟨(s.val + 1) % 64, Nat.mod_lt _ (by decide)⟩).toNat
  let lat := (min count 16384 + 255) / 256 + 64
  let l := (c.g.hreg a).lab ||| c.w.pairLab s ||| c.w.ctxlbl
  let res := fun (i d : Nat) (lab : Label) =>
    Res.done (pushTimed c lat { Pend.blank "HNEAR" with ws := [RegWrite.uni s (nat32 i) lab, RegWrite.uni (s + 1) (nat32 d) lab] } st)
  if count = 0 then res 0xFFFF_FFFF 0xFFFF_FFFF l
  else if base + count > (seedRange st c).2 then
    .done (pushTimed c lat { Pend.blank "HNEAR" with fail := some (seedFail (base + count - 1) (c.w.pairLab s)) } st)
  else
    let r := nearest st c (c.g.hreg a).val base count
    res r.2 r.1 (l ||| seedLabs st c base count)

end Sys2Proof.Machine
end

