-- ==== Sys2Proof/Machine/Rearrange.lean ====
section
/-! DEFINITION. Moving values between lanes, index registers (spec/08_rearrange_hyper.md R164 to R171). -/

namespace Sys2Proof.Machine

/-- VCOMP (R165). -/
def execVcomp (p : Bool) (d a : Reg) (k : MReg) : State → Out := issueW (.vcomp p d a k) { p, vs := [d, a] } fun c =>
  let sel := lanesOf (c.act &&& (c.w.mreg k).val)
  let pos := fun l => ((lanesOf c.act).takeWhile (· < l)).length
  c.w.writeV d c.act false (fun l => match sel[pos l]? with
    | some m => c.w.lane a m
    | none => 0) (vlab c.w a ||| mlab c.w k ||| c.w.ctxlbl)

/-- VEXPD (R165). -/
def execVexpd (p : Bool) (d a : Reg) (k : MReg) : State → Out := issueW (.vexpd p d a k) { p, vs := [d, a] } fun c =>
  let act := lanesOf c.act
  let sel := lanesOf (c.act &&& (c.w.mreg k).val)
  c.w.writeV d c.act false (fun l =>
    if (c.w.mreg k).val.getLsbD l then c.w.lane a (act.getD ((sel.takeWhile (· < l)).length) 0) else 0)
    (vlab c.w a ||| mlab c.w k ||| c.w.ctxlbl)

/-- VSLUP (R166). -/
def execVslup (p : Bool) (d a s : Reg) : State → Out := issueW (.vslup p d a s) { p, vs := [d, a] } fun c =>
  let n := (sval c.w s).toNat
  c.w.writeV d c.act false (fun l => if l ≥ n then c.w.lane a (l - n) else 0) (vlab c.w a ||| slab c.w s ||| c.w.ctxlbl)

/-- VSLDN (R166). -/
def execVsldn (p : Bool) (d a s : Reg) : State → Out := issueW (.vsldn p d a s) { p, vs := [d, a] } fun c =>
  let n := (sval c.w s).toNat
  c.w.writeV d c.act false (fun l => if l + n ≤ 63 then c.w.lane a (l + n) else 0) (vlab c.w a ||| slab c.w s ||| c.w.ctxlbl)

/-- VPERM (R167). -/
def execVperm (p : Bool) (d a b : Reg) (r : Route) : State → Out := issueW (.vperm p d a b r) { p, vs := [d, a, b] } fun c =>
  c.w.writeV d c.act false (fun l => c.w.lane a ((routed c.w b r l).toNat % 64))
    (vlab c.w a ||| vlab c.w b ||| routeLab c.w r ||| c.w.ctxlbl)

/-- VSCAN (R168). -/
def execVscan (p : Bool) (op : RedOp) (d a : Reg) : State → Out := issueW (.vscan p op d a) { p, vs := [d, a] } fun c =>
  let upTo := fun l => (lanesOf c.act).takeWhile (· ≤ l)
  let l := vlab c.w a ||| c.w.ctxlbl
  let w := c.w.writeV d c.act false (fun k => (reduce op ((upTo k).map (c.w.lane a))).1) l
  if redFloat op then w.raise (reduce op ((lanesOf c.act).map (c.w.lane a))).2 l else w

/-! ### Index registers (R169 to R171) -/

/-- XSET (R170). -/
def execXset (p : Bool) (mode : XsetMode) (k : Fin 4) (a b : Reg) : State → Out := issue (.xset p mode k a b) { p } fun c st =>
  let x := c.w.xreg k
  let put := fun (y : XReg) => Res.done (st.updWave c.ref fun _ => { c.w with x := setReg 4 k y .zero c.w.x })
  match mode with
  | .set =>
    let base := (sval c.w b).toNat % 64
    let len := (sval c.w b).toNat / 2 ^ 8 % 128
    if len > 64 ∨ base + len > c.g.vdecl then .trap st regBound 0 (slab c.w b)
    else put ⟨sval c.w a, base, len, slab c.w a ||| slab c.w b ||| c.w.ctxlbl⟩
  | .val => put { x with val := sval c.w a, lab := slab c.w a ||| c.w.ctxlbl }
  | .add => put { x with val := x.val + sval c.w a, lab := x.lab ||| slab c.w a ||| c.w.ctxlbl }

/-- The register an index access names, or none beyond the window (R49, R171). -/
def indexed (w : Wave) (k : Fin 4) (imm : BitVec 12) : Option Nat :=
  let x := w.xreg k
  let off := x.val.toInt + imm.toInt
  if off < 0 ∨ off ≥ x.len then none else some (x.base + off.toNat)

/-- VMOVX (R171). -/
def execVmovx (p : Bool) (d : Reg) (k : Fin 4) (imm : BitVec 12) : State → Out := issue (.vmovx p d k imm) { p, vs := [d] } fun c s =>
  match indexed c.w k imm with
  | none => .trap s regBound 0 (c.w.xreg k).lab
  | some n => .done (s.updWave c.ref fun _ =>
    c.w.writeV d c.act false (fun l => c.w.lane n l) ((c.w.vreg n).lab ||| (c.w.xreg k).lab ||| c.w.ctxlbl))

/-- VMOVXW (R171). -/
def execVmovxw (p : Bool) (d : Reg) (k : Fin 4) (imm : BitVec 12) : State → Out := issue (.vmovxw p d k imm) { p, vs := [d] } fun c s =>
  match indexed c.w k imm with
  | none => .trap s regBound 0 (c.w.xreg k).lab
  | some n => .done (s.updWave c.ref fun _ =>
    (c.w.writeV n c.act false (fun l => c.w.lane d l) (vlab c.w d ||| (c.w.xreg k).lab ||| c.w.ctxlbl)).absorb (c.w.xreg k).lab)

end Sys2Proof.Machine
end

