-- ==== Sys2Proof/Machine/Control.lean ====
section
/-! DEFINITION. Control flow, ending and yielding, traps and the return from them, FRAMEW (spec/07_uniform_flow.md R148 to R155,
R159, R160; spec/13_context.md R273 to R276; spec/02_owner.md R43). -/

namespace Sys2Proof.Machine

/-! ### Relative branches (R150, R151) -/

/-- The target's word, or none when it leaves the slot (R150). -/
def target (pc : Nat) (off : BitVec 18) : Option Nat :=
  let t := (pc % 2048 : Int) + off.toInt
  if t < 0 ∨ t > 2047 then none else some (pc / 2048 * 2048 + t.toNat)

/-- A branch: `mayEnd` says whether it may stand at word 2,047; `f` gives the wave and whether a lane takes it. -/
def branch (i : Instr) (p mayEnd : Bool) (off : BitVec 18) (f : Cur → Wave × (Nat → Bool)) : State → Out :=
  issue i { p, xfer := true } fun c s =>
    match target c.pc off with
    | none => .trap s illegalOp 0 0
    | some t =>
      if !mayEnd && c.pc % 2048 = 2047 then .trap s illegalOp 0 0
      else .done (s.updWave c.ref fun _ => (f c).1.setPcs c.act fun l => if (f c).2 l then t else c.pc + 1)

/-- BR (R151). -/
def execBr (p : Bool) (s : Reg) (off : BitVec 18) : State → Out := branch (.br p s off) p false off fun c => (c.w.absorb (slab c.w s), fun _ => sval c.w s != 0)

/-- BRZ (R151). -/
def execBrz (p : Bool) (s : Reg) (off : BitVec 18) : State → Out := branch (.brz p s off) p false off fun c => (c.w.absorb (slab c.w s), fun _ => sval c.w s == 0)

/-- JMP (R151). -/
def execJmp (p : Bool) (off : BitVec 18) : State → Out := branch (.jmp p off) p true off fun c => (c.w, fun _ => true)

/-- CALL (R151). -/
def execCall (p : Bool) (s : Reg) (off : BitVec 18) : State → Out := branch (.call p s off) p false off fun c => (c.w.writeS s (nat32 (c.pc + 1)) c.w.ctxlbl, fun _ => true)

/-- VBR (R151). -/
def execVbr (p : Bool) (k : MReg) (off : BitVec 18) : State → Out := branch (.vbr p k off) p false off fun c => (c.w.absorb (mlab c.w k), (c.w.mreg k).val.getLsbD)

/-- RET (R152, CTXLBL absorbs before the checks). -/
def execRet (p : Bool) (s : Reg) : State → Out := issue (.ret p s) { p, xfer := true } fun c st =>
  let x := (sval c.w s).toNat
  let st := st.updWave c.ref fun w => w.absorb (slab c.w s)
  if x ≥ 2 ^ 15 ∨ x / 2048 ≠ c.pc / 2048 then .trap st illegalOp 0 0
  else .done (st.updWave c.ref fun w => w.setPcs c.act fun _ => x)

/-! ### EXIT, YIELD, NOP (R153 to R155) -/

/-- EXIT (R153). -/
def execExit (p : Bool) : State → Out := issue (.exit p) { p, xfer := true } fun c s =>
  .done (s.updWave c.ref fun w =>
    let w := { w with exited := w.exited ||| c.act }
    { w with status := .parked (if w.issueAddr.isNone then .ended else .next) })

/-- YIELD (R154, PC advances, then the wave parks). -/
def execYield (p : Bool) : State → Out := issue (.yield p) { p := true } fun c s =>
  .done (s.updWave c.ref fun w => { w with status := .parked .yielded })

/-- NOP (R155). -/
def execNop (p : Bool) : State → Out := issue (.nop p) { p } fun _ s => .done s

/-! ### The handler (R273 to R276) -/

/-- TRAP (R273). -/
def execTrap (p : Bool) (code : BitVec 8) : State → Out := issue (.trap p code) { p } fun c s => .trapAt s (c.pc + 1) softTrap code.toNat

/-- A debug stop (R276): the group is saved, with the wave as it stands; `tag` says whether DELIVER goes on behind the word. -/
def debugStop (g : Group) (r : WaveRef) (pc : Nat) (tag : String) (code : Nat) (s : State) : State :=
  let s := logFault g r.wave pc bkptTrap code false false 0 0 s
  let s := stopCluster g (s.updGroup g.gid fun g => { g with debug := true })
  let stop : Pend := { Pend.blank tag with pc, left := 0, fail := some ⟨bkptTrap, code, 0, false, false⟩ }
  (s.setDbg { s.dbg with stop := r :: s.dbg.stop.filter (· ≠ r) }).updWave r fun w => { w with status := .parked .next, held := [stop] }

/-- BKPT (R273, R276: a stop for the debugger in a DEBUG context of an ELASTIC owner). -/
def execBkpt (p : Bool) (code : BitVec 8) : State → Out := issue (.bkpt p code) { p } fun c s =>
  if (ctxOf s c).latched.debug && !s.timed c.g.owner then .done (debugStop c.g c.ref c.pc "BKPT" code.toNat s)
  else .trapAt s (c.pc + 1) bkptTrap code.toNat

/-- RTE (R274, after its park, which is that of its P bit, R55). -/
def execRte (p : Bool) : State → Out := issue (.rte p) { p := false, xfer := true } fun c s =>
  if c.w.phase = 0 then
    if c.w.intrap then .park (s.updWave c.ref fun w => { w with phase := 1 }) else .trap s illegalOp 0 0
  else .done (s.updWave c.ref returnTrap)

/-! ### FRAMEW (R43) -/

/-- The first super-frame boundary strictly after a cycle. -/
def boundaryAfter (c : Nat) : Nat := (c / 256 + 1) * 256

/-- FRAMEW (R43, parks, whatever P is, then waits until B). -/
def execFramew (p : Bool) (until_ : Bool) (s : Reg) : State → Out := issue (.framew p until_ s) { p := false, frame := true } fun c st =>
  match c.w.phase with
  | 0 => .park (st.updWave c.ref fun w => { w with phase := 1 })
  | 1 =>
    let now := st.now + 1
    let target := if until_ then c.w.pair s else 0
    let b := boundaryAfter now
    let far := target - c.g.ocycAt b
    let b := b + (far + 255) / 256 * 256
    let st := st.updWave c.ref fun w =>
      let w := if until_ then w.absorb (w.pairLab s) else w
      { w with phase := 2, overrun := w.overrun || (until_ && decide (target ≤ c.g.ocycAt now)) }
    .wait st (.untilCycle b)
  | _ => .done st

/-! ### Crossing slots (R159, R160) -/

/-- Whether a slot is still being filled (R156). -/
def Core.slotLoading (c : Core) (n : Nat) : Bool :=
  match (c.slot n).st with
  | .held | .loading => true
  | _ => false

/-- CFWAIT (R159). -/
def execCfwait (p : Bool) (slot : Fin 16) : State → Out := issue (.cfwait p slot) { p } fun c s =>
  let sl := (s.core c.core).slot slot
  match sl.st with
  | .held | .loading => .wait (s.updWave c.ref fun w => { w with phase := 1 }) (.slotBusy slot)
  | .failed => .trap s sl.cause sl.addr 0
  | _ => .done s

/-- JMPF (R160, parks once, whatever P is; a slot is the wave's when it is granted to the kernel or holds the jump itself). -/
def execJmpf (p : Bool) (s : Reg) (slot : Fin 16) (w8 : Fin 256) : State → Out := issue (.jmpf p s slot w8) { p := false, xfer := true } fun c st =>
  if c.w.phase = 0 then .park (st.updWave c.ref fun w => { w with phase := 1 })
  else
    let word := 8 * w8.val + (sval c.w s).toNat
    let st := st.updWave c.ref fun w => w.absorb (slab c.w s)
    if word > 2047 then .trap st illegalOp 0 0
    else
      let core := st.core c.core
      let sl := core.slot slot
      if core.slotLoading slot then .wait st (.slotBusy slot)
      else if sl.st ≠ .present ∨ !(slotGranted core slot c.g.kernel || slot.val == c.pc / 2048) then .trap st codeAbsent 0 0
      else .done (st.updWave c.ref fun w =>
        (w.absorb sl.lab).setPcs c.act fun _ => slot.val * 2048 + word)

end Sys2Proof.Machine
end

