-- ==== Sys2Proof/Machine/Rota.lean ====
section
/-! DEFINITION. Rotas: slots, admission, donation, padded service; the ways that requests take through mesh, die-to-die links,
MSC and HBM (spec/02_owner.md R26 to R33; spec/01_machine.md R12 to R20, R423; spec/09_memory.md R194). -/

namespace Sys2Proof.Machine

/-! ### Classes (R27) -/

def slotWidth : RotaClass → Nat
  | .mesh => 1
  | .d2d => 1
  | .msc => 2
  | .hbm => 4
  | .copy => 4
  | .fab => 2
  | .host => 8
  | .walk => 16
  | .claim => 4

/-- Padded service time; across a pod the claim plane's is 10,800. -/
def service : RotaClass → Nat
  | .mesh => 2
  | .d2d => 20
  | .msc => 48
  | .hbm => 160
  | .copy => 64
  | .fab => 24
  | .host => 96
  | .walk => 256
  | .claim => 1440

/-- The first slot of a class that starts after a cycle. -/
def nextSlot (c : RotaClass) (now : Nat) : Nat := (now / slotWidth c + 1) * slotWidth c

/-- The code that the live table gives the slot of a class at a cycle (R26, R27). -/
def slotCode (s : State) (c : RotaClass) (now : Nat) : Nat :=
  (s.rota.live.getD c.code 0).toNat / 2 ^ (4 * (now % 256 % (16 * slotWidth c) / slotWidth c)) % 16

/-! ### Requests -/

def State.req? (s : State) (id : Nat) : Option Req := s.rota.reqs.find? (·.id == id)
def setReqs (s : State) (l : List Req) : State := s.setRota { s.rota with reqs := l }

/-- The input through which a packet that left by a mesh link reaches the router whose output it asks for next (R18): only mesh
links order by it (R29). -/
def inputAfter : List Leg → Nat
  | .rota .mesh (.meshLink _ _ _ dir) :: .rota .mesh _ :: _ => if dir = 0 then 3 else if dir = 1 then 4 else if dir = 2 then 1 else 2
  | _ => 0

/-- The packets that wait in the buffer of one class of a mesh link (R15), in arrival order: the two buffers hold its queue apart.
A requester reserves the space of its response with its entry, tag or record. -/
def linkBuffer (s : State) (i : RotaInst) (resp : Bool) : List Req :=
  match s.rota.insts.find? (·.inst = i) with
  | some q => (q.queue.filterMap s.req?).filter (·.resp == resp)
  | none => []

/-- An instance decides at its next slot on. -/
def wakeInst (c : RotaClass) (i : RotaInst) (s : State) : State :=
  let nx := nextSlot c s.now
  match s.rota.insts.find? (·.inst = i) with
  | some q =>
    if q.next.isSome then s
    else (s.setRota { s.rota with insts := amend (·.inst = i) (fun q => { q with next := some nx }) s.rota.insts }).schedule nx (.slotStart c i)
  | none => (s.setRota { s.rota with insts := s.rota.insts ++ [⟨c, i, 0, [], some nx⟩] }).schedule nx (.slotStart c i)

/-- Put a request into the queue of its next leg's instance, which then decides at its next slot (R29, R31). -/
def enqueue (id : Nat) (c : RotaClass) (i : RotaInst) (s : State) : State :=
  let s := setReqs s (amend (·.id == id) (fun r => { r with entered := s.now, adm := none }) s.rota.reqs)
  let s := wakeInst c i s
  s.setRota { s.rota with insts := amend (·.inst = i) (fun q => { q with queue := q.queue ++ [id] }) s.rota.insts }

/-- What follows the last leg of a request: the step of the device that it is for. -/
def purposeStep (s : State) : Purpose → Option Instr
  | .claim m => match s.claims.msgs.find? (·.1 == m) with
    | some (_, _, .propose ..) => some (.proposalArrive m)
    | some (_, _, .object ..) => some (.objectionArrive m)
    | some (_, _, .query ..) => some (.clwaitQueryArrive m)
    | some (_, _, .read ..) => some (.clrdReadArrive m)
    | some (_, _, .verdict ..) => some (.objectVerdictArrive m)
    | none => none
  | .entryPart w id => some (.resultReturn w id)
  | .wtStart st => some (.storeWriteThrough st)
  | .wt st => some (.writeThroughAck st)
  | .walk k => some (.pageWalkComplete k)
  | .chunk c => some (.copyChunkComplete c)
  | .packet n t => if s.hub.slots.any fun x => x.n == n && x.tok == t then some (.packetReadDone (Fin.ofNat 256 n)) else none
  | .depRead n t => if s.hub.slots.any fun x => x.n == n && x.tok == t then some (.dependenceReadDone (Fin.ofNat 256 n)) else none
  | .cwait w _ => some (.cwaitReadReturn w)
  | .step i => some i
  | .tset t => some (.tsetDescriptorDone t)
  | .nred c => some (.nredContributionArrive c)
  | .remote f => some (.homeStoreApply f)
  | .reply w f => some (.resultReturn w f)
  | .ackBack f => some (.remoteStoreAck f)
  | .lnch l => some (.lnchComplete l)
  | .release _ | .mldb _ | .mmaRow .. | .head _ | .idle => none

/-- The number of what a request serves. -/
def Purpose.ident : Purpose → Nat
  | .entryPart _ id => id
  | .wtStart n | .wt n | .walk n | .chunk n | .release n | .lnch n | .claim n | .nred n | .mldb n | .tset n | .cwait _ n => n
  | .mmaRow n _ => n
  | .remote n | .reply _ n | .ackBack n => n
  | .packet .. | .depRead .. | .head _ | .step _ | .idle => 0

/-- One part of an engine's read has returned; the step that follows its last (R369, R372). -/
def enginePart (p : Purpose) (s : State) : State :=
  match p with
  | .mldb l =>
    let s := s.setEng { s.eng with mldbs := amend (·.id == l) (fun j => { j with left := j.left - 1 }) s.eng.mldbs }
    if s.eng.mldbs.any fun j => j.id == l && j.left == 0 then s.schedule s.now (.mldbLoadComplete l) else s
  | .mmaRow m r =>
    let less := fun (x : Mma) => { x with adata := amend (·.row == r) (fun a => { a with left := a.left - 1 }) x.adata }
    let s := s.setEng { s.eng with mmas := amend (·.id == m) less s.eng.mmas }
    if s.eng.mmas.any fun x => x.id == m && x.adata.any fun a => a.row == r && a.left == 0 then s.schedule s.now (.mmaADataArrive m r) else s
  | _ => s

/-- A request that stands at its turn is a response from now on. -/
def passTurn (r : Req) : Req :=
  match r.legs with
  | .turn :: l => { r with resp := true, legs := l }
  | _ => r

/-- Start the leg that a request now stands before. -/
def startLeg (id : Nat) (s : State) : State :=
  let s := setReqs s (amend (·.id == id) passTurn s.rota.reqs)
  match s.req? id with
  | none => s
  | some r => match r.legs with
    | .rota c i :: _ => enqueue id c i s
    | .hold n :: _ => s.schedule (s.now + n) (.paddedServiceComplete id)
    | .turn :: _ => s.schedule s.now (.paddedServiceComplete id)
    | [] =>
      let s := setReqs s (s.rota.reqs.filter (·.id != id))
      let s := enginePart r.purpose s
      match purposeStep s r.purpose with
      | some i => s.schedule s.now i
      | none => s

/-- A request of an owner (8 and up: SYS work, R26), on behalf of a core (512: of the hub), along some legs; it is not started yet. Its place
in issue order is that of the access that it serves, or where it serves none of its own, the latest. -/
def newReq (owner core : Nat) (legs : List Leg) (p : Purpose) (s : State) : Nat × State :=
  let id := s.rota.nextReq
  let ord := if p.ident = 0 then s.mem.nextId else p.ident
  (id, s.setRota { s.rota with
    nextReq := id + 1, seq := s.rota.seq + 1
    reqs := s.rota.reqs.filter (·.id != id) ++ [⟨id, owner, core, s.rota.seq, ord, legs, false, 0, s.now, none, decide (8 ≤ owner), p⟩] })

def sendReq (owner core : Nat) (legs : List Leg) (p : Purpose) (s : State) : State :=
  let (id, s) := newReq owner core legs p s
  startLeg id s

/-! ### Places and ways (R12 to R20) -/

def dieOf (core : Nat) : Nat := core / 128
def quadOf (core : Nat) : Nat := core / 4
/-- The walker of its die that serves a core (R244). -/
def walkerOf (core : Nat) : Nat := (4 * (core / 4 % 32) + core % 4) % 64
/-- Site of the quad of a core (R13). -/
def quadSite (core : Nat) : Nat × Nat :=
  let q := core / 4 % 32
  (2 * (q % 4) + q / 4 % 2, q / 4)
/-- Site of a slice (R13). -/
def sliceSite (sl : Nat) : Nat × Nat := (2 * (sl % 4) + 1 - sl / 4 % 2, sl / 4)

/-- Links along a row from x to x', and along a column; directions north 0, east 1, south 2, west 3. -/
def hopsX (die y x x' : Nat) : List Leg :=
  if x ≤ x' then (List.range (x' - x)).map fun k => .rota .mesh (.meshLink die (x + k) y 1)
  else (List.range (x - x')).map fun k => .rota .mesh (.meshLink die (x - k) y 3)
def hopsY (die x y y' : Nat) : List Leg :=
  if y ≤ y' then (List.range (y' - y)).map fun k => .rota .mesh (.meshLink die x (y + k) 0)
  else (List.range (y - y')).map fun k => .rota .mesh (.meshLink die x (y - k) 2)

/-- A packet's way between two sites, turning at the corner that is a full router (R16). -/
def route (die : Nat) (a b : Nat × Nat) : List Leg :=
  if (b.1 + a.2) % 2 = 0 || a.1 == b.1 || a.2 == b.2 then hopsX die a.2 a.1 b.1 ++ hopsY die b.1 a.2 b.2
  else hopsY die a.1 a.2 b.2 ++ hopsX die b.2 a.1 b.1

/-- From a slice to the edge station of its row, and back (R17); a station's own output is named by x = 8 (east) or 9 (west). -/
def toEdge (die : Nat) (a : Nat × Nat) : List Leg :=
  if a.1 ≤ 3 then (List.range (a.1 + 1)).map fun k => .rota .mesh (.meshLink die (a.1 - k) a.2 3)
  else (List.range (8 - a.1)).map fun k => .rota .mesh (.meshLink die (a.1 + k) a.2 1)
def fromEdge (die : Nat) (a : Nat × Nat) : List Leg :=
  if a.1 ≤ 3 then .rota .mesh (.meshLink die 9 a.2 1) :: (List.range a.1).map fun k => .rota .mesh (.meshLink die k a.2 1)
  else .rota .mesh (.meshLink die 8 a.2 3) :: (List.range (7 - a.1)).map fun k => .rota .mesh (.meshLink die (7 - k) a.2 3)

/-- Exclusive OR of n fields of w bits from bit lo up. -/
def xorFields (x lo w : Nat) : Nat → Nat
  | 0 => 0
  | n + 1 => (x / 2 ^ (lo + w * n) % 2 ^ w) ^^^ xorFields x lo w n

/-- Home stack of a LOCAL address (R20), and its channel there (R423). -/
def homeStack (pa : Nat) : Nat := xorFields pa 8 4 11
def homeChan (pa : Nat) : Nat := (pa / 2 ^ 12 % 16) ^^^ (pa / 2 ^ 28 % 16)

/-- The slices of an owner on a die, ascending (R194). -/
def slicesOf (s : State) (o die : Nat) : List Nat :=
  match s.owner? o with
  | none => []
  | some x => (List.range 32).filter fun k => x.spec.slices.contains (die, k)
/-- The slice that serves an address for an owner on a die (R194). -/
def sliceOf (s : State) (o die pa : Nat) : Nat :=
  let t := slicesOf s o die
  let h := xorFields pa 8 5 8 ^^^ (pa / 2 ^ 48 % 16)
  t.getD (h % max 1 t.length) 0

/-- Admissions of the D2D class from a die to a stack's base die (R17). -/
def d2dLegs (die stack : Nat) : List Leg :=
  let base := .rota .d2d (.d2dLink (stack / 4) (stack % 4))
  if stack / 4 = die then [base] else [.rota .d2d (.d2dLink die (4 + stack / 4)), base]

/-- The admission at a die's edge crossbar onto its link to the hub (R17). -/
def hubLink (die : Nat) : Leg := .rota .d2d (.d2dLink die 8)

/-- The hub's way to the home of a LOCAL address and back: over the stack's own die, whose edge crossbar admits it onto the base die's link
(R17, R30). -/
def hubHome (pa : Nat) (hbm : Bool) : List Leg :=
  let stack := homeStack pa
  let links := hubLink (stack / 4) :: d2dLegs (stack / 4) stack
  links ++ [.rota .msc (.msc stack)] ++ (if hbm then [.rota .hbm (.hbm stack (homeChan pa))] else []) ++ .turn :: links.reverse

/-- A packet leaves the mesh for a slice that passes it on at once, through its local input (R18, R228). -/
def atSlice : Leg := .hold 0

/-- Quad to slice, and back. -/
def toSlice (core sl : Nat) : List Leg := route (dieOf core) (quadSite core) (sliceSite sl)
def fromSlice (core sl : Nat) : List Leg := route (dieOf core) (sliceSite sl) (quadSite core)

/-- From a slice to the home of a LOCAL address and back; `hbm` when the MSC misses (R17, R30). -/
def homeWay (core sl pa : Nat) (hbm : Bool) : List Leg :=
  let die := dieOf core
  let stack := homeStack pa
  atSlice :: toEdge die (sliceSite sl) ++ d2dLegs die stack ++ [.rota .msc (.msc stack)]
    ++ (if hbm then [.rota .hbm (.hbm stack (homeChan pa))] else [])
    ++ .turn :: (d2dLegs die stack).reverse ++ fromEdge die (sliceSite sl) ++ [atSlice]

/-! ### The use of a slot (R29, R31 to R33) -/

/-- Whether a request goes before another of its owner at one instance: by entry, then input, core and issue order (R29); requests of one
access keep the order in which they were made. -/
def reqBefore (a b : Req) : Bool :=
  decide (a.entered < b.entered) ||
    (a.entered == b.entered && (decide (a.inp < b.inp) ||
      (a.inp == b.inp && (decide (a.core < b.core) ||
        (a.core == b.core && (decide (a.ord < b.ord) || (a.ord == b.ord && decide (a.seq < b.seq))))))))

/-- The oldest eligible request that satisfies `p`: it entered before the slot's first cycle. -/
def oldest (now : Nat) (p : Req → Bool) (l : List Req) : Option Req :=
  (l.filter fun r => decide (r.entered < now) && p r).foldl (fun b r =>
    match b with
    | none => some r
    | some x => if reqBefore r x then some r else b) none

/-- ELASTIC owners in round-robin order from the pointer. -/
def elasticOrder (s : State) (ptr : Nat) : List Nat :=
  ((List.range 8).map fun k => (ptr + k) % 8).filter fun o => match s.owner? o with
    | some x => !x.timed && x.st ≠ .retired
    | none => false

/-- The mesh links of a die on the ways between an owner's quads and its slices, and between these and the edge (R15 to R17, R194). -/
def ownLinks (x : Owner) (die : Nat) : List Leg :=
  let quads := (x.spec.cores.filter (dieOf · == die)).map quadSite
  let sls := (x.spec.slices.filter (·.1 == die)).map fun e => sliceSite e.2
  sls.flatMap fun b => toEdge die b ++ fromEdge die b ++ quads.eraseDups.flatMap fun a => route die a b ++ route die b a

/-- Whether an owner's cores reach an instance (R207). -/
def reaches (x : Owner) : RotaInst → Bool
  | .meshLink die a b dir => x.spec.cores.any (dieOf · == die) && (ownLinks x die).contains (.rota .mesh (.meshLink die a b dir))
  | .d2dLink die out => if out < 4 then !x.spec.cores.isEmpty else x.spec.cores.any (dieOf · == die)
  | .copyEngine quad => x.spec.cores.any (quadOf · == quad)
  | .walker die n => x.spec.cores.any fun c => dieOf c == die && walkerOf c == n
  | .claimCore core => x.spec.cores.contains core
  | _ => !x.spec.cores.isEmpty

/-- Whether firmware's stress pattern keeps a request of an owner queued at an instance (R207). -/
def stressed (s : State) (i : RotaInst) (o : Nat) : Bool := (s.owner? o).any fun x => x.stress && !x.timed && x.st ≠ .retired && reaches x i

/-- The instances of a package: the mesh links of a die with its edge stations, die-to-die links, stacks and channels, copy engines, walkers,
ports, claim queues (R12 to R20, R27). -/
def allInsts : List (RotaClass × RotaInst) :=
  let four := List.range 4
  let eight := List.range 8
  (four.flatMap fun d =>
    (eight.flatMap fun y => (eight.flatMap fun x => four.map fun r => (RotaClass.mesh, RotaInst.meshLink d x y r)) ++
      [(.mesh, .meshLink d 8 y 3), (.mesh, .meshLink d 9 y 1)]) ++
    (List.range 9).map (fun n => (.d2d, .d2dLink d n)) ++ (List.range 64).map fun n => (.walk, .walker d n)) ++
  ((List.range 16).flatMap fun k => (.msc, .msc k) :: (List.range 16).map fun c => (.hbm, .hbm k c)) ++
  (List.range 128).map (fun n => (.copy, .copyEngine n)) ++ (List.range 18).map (fun n => (.fab, .fabPort n)) ++
  [(.host, .hostPort), (.host, .gate), (.host, .lnchPort), (.d2d, .nredPort), (.fab, .nredFab), (.claim, .claimHome)] ++
  (List.range 512).map fun n => (.claim, .claimCore n)

/-- A stress pattern that starts keeps a request queued at every instance that its owner's cores reach: each decides from now on (R207). -/
def wakeReached (x : Owner) (s : State) : State :=
  (allInsts.filter fun e => reaches x e.2).foldl (fun s e => wakeInst e.1 e.2 s) s

/-- Who uses a slot with a given code: the request, and the pointer afterwards (R31). A request of a stress pattern uses its
slot and is gone. -/
def chooseReq (s : State) (i : RotaInst) (code ptr now : Nat) (l : List Req) : Option Req × Nat :=
  let turn : Nat → Option (Option Req × Nat) := fun o =>
    match oldest now (fun r => r.owner == o && !r.sys) l with
    | some r => some (some r, (o + 1) % 8)
    | none => if stressed s i o then some (none, (o + 1) % 8) else none
  let shared : Option Req × Nat := ((elasticOrder s ptr).findSome? turn).getD (none, ptr)
  if code < 8 then
    match s.owner? code with
    | some o =>
      if o.st = .retired then shared
      else match oldest now (fun r => r.owner == code && !r.sys) l with
        | some r => (some r, ptr)
        | none => if stressed s i code then (none, ptr) else shared
    | none => shared
  else if code = 9 then
    match oldest now (·.sys) l with
    | some r => (some r, ptr)
    | none => shared
  else shared

/-- Buffers of the partner that a port's flits of a channel use, and whether one more is free: every channel has one of its own at least
(R392). -/
def Port.inUse (x : Port) (v : VChan) : Nat := ((x.used.find? (·.1 = v)).map (·.2)).getD 0
def Port.room (x : Port) (v : VChan) : Bool := x.inUse v == 0 || decide (x.inUse v < Config.linkCredits v)

/-- A fabric port takes flits only while it is UP and has a credit for them; until then they are held (R390 to R392). -/
def instOpen (s : State) : RotaInst → Bool
  | .fabPort p => (s.link.ports[p]?).any fun x => x.st = .up && x.room .req
  | _ => true

/-- Whether a capture's instruction made the request that a leg belongs to (R208). -/
def capturedBy (x : Capture) (l : LegRec) : Bool := x.nums.any fun n => decide (n.1 ≤ l.ident) && decide (l.ident < n.2)
/-- The rota trace keeps the legs of captured instructions. -/
def noteLeg (l : LegRec) (s : State) : State :=
  if s.dbg.caps.any (capturedBy · l) then s.setRota { s.rota with trace := l :: s.rota.trace } else s

/-- The core and the number of what a request's leg serves: a core's own request, or a reply of the claim home to it (R359). -/
def legFor (s : State) (r : Req) : Option (Nat × Nat) :=
  if r.core < 512 then some (r.core, r.purpose.ident)
  else (s.claims.replies.find? (·.req == r.id)).map fun x => (x.core, x.pend)

/-- What a message of a pod claim group takes longer than one of a package's (R346). -/
def podLeg (r : Req) : Nat :=
  match r.legs with
  | [.rota .claim _, .hold n] => n
  | _ => 0

/-- What a SLOT_START does at an instance; `onAdmit` is what admission itself brings about there (R254, R307). -/
def slotStart (c : RotaClass) (i : RotaInst) (onAdmit : Req → State → State) (s : State) : State :=
  match s.rota.insts.find? (·.inst = i) with
  | none => s
  | some q =>
    let now := s.now
    let (pick, ptr) := chooseReq s i (slotCode s c now) q.ptr now (if instOpen s i then q.queue.filterMap s.req? else [])
    let rest := match pick with
      | some r => q.queue.filter (· != r.id)
      | none => q.queue
    let pattern := (List.range 8).any (stressed s i)
    let next := if rest.isEmpty && !pattern then none else some (now + slotWidth c)
    let s := s.setRota { s.rota with insts := amend (·.inst = i) (fun q => { q with ptr, queue := rest, next }) s.rota.insts }
    let s := match next with
      | some n => s.schedule n (.slotStart c i)
      | none => s
    match pick with
    | none => s
    | some r =>
      let s := setReqs s (amend (·.id == r.id) (fun x => { x with adm := some now }) s.rota.reqs)
      let s := match legFor s r with
        | some e => noteLeg ⟨e.1, e.2, .rota c i, r.entered, now, now + service c + podLeg r⟩ s
        | none => s
      onAdmit r (s.schedule (now + service c) (.paddedServiceComplete r.id))

/-- A leg's service ends: the request goes on to its next leg (R28, R30). -/
def legDone (id : Nat) (s : State) : State :=
  match s.req? id with
  | none => s
  | some _ => startLeg id (setReqs s (amend (·.id == id) (fun r => { r with legs := r.legs.drop 1, inp := inputAfter r.legs }) s.rota.reqs))

end Sys2Proof.Machine
end

