-- ==== Sys2Proof/Machine/Translate.lean ====
section
/-! DEFINITION. Two-stage translation, permissions, TLBs and page-walk cache (spec/12_page.md R237 to R246). -/

namespace Sys2Proof.Machine


/-- A leaf: page base, size in bytes, and its entry. -/
structure PageLeaf where
  base : Nat
  size : Nat
  lo   : Nat
  hi   : Nat

/-- One entry that a walk read: stage, level, address of the entry, and whether it is no pointer to a next table. -/
abbrev Reads := List (Nat × Nat × Nat × Bool)

/-- A failed walk: cause, where PROBE says it failed (R258), and what it had read. -/
structure WalkErr where
  cause : Nat
  level : Nat
  stage : Nat
  st    : Nat
  seen  : Reads := []

/-- Fields of an entry (R239). -/
def pteState (lo : Nat) : Nat := fld lo 2 3
def pteAddr (lo : Nat) : Nat := fld lo 12 40 * 2 ^ 12
def pteType (hi : Nat) : Option MemType :=
  match fld hi 16 3 with
  | 0 => some .loc
  | 1 => some .peer
  | 2 => some .pod
  | 3 => some .host
  | 4 => some .mmio
  | _ => none
def pteOwner (hi : Nat) : Nat := fld hi 19 3
def pteLabel (hi : Nat) : Label := BitVec.ofNat 16 (fld hi 0 16)
def ptePeer (hi : Nat) : Nat := fld hi 22 10

/-- The levels of R238: lowest index bit and index width. -/
def walkLevels : List (Nat × Nat × Nat) := [(0, 48, 8), (1, 39, 9), (2, 30, 9), (3, 21, 9), (4, 12, 9)]

/-- The fault of an entry's STATE, if any (R240, R242). -/
def stateFault (level stage lo : Nat) : Option WalkErr :=
  match pteState lo with
  | 1 => none
  | 3 => some ⟨eccUncorr, level, stage, 3, []⟩
  | 4 => some ⟨permFault, level, stage, 4, []⟩
  | n => some ⟨pageFault, level, stage, n, []⟩

/-- A walk's failure at an entry, once it has read some entries. -/
def WalkErr.after (seen : Reads) (e : WalkErr) : WalkErr := { e with seen := seen ++ e.seen }

/-- Whether an entry's structure is wrong for its level (R240): a non-leaf one is PRESENT and stands above level 4, a leaf at level
2 to 4, C64 at level 4 alone. -/
def badEntry (level lo : Nat) : Bool :=
  if fld lo 10 1 = 0 then level == 4 || pteState lo != 1 else decide (level < 2) || (fld lo 11 1 == 1 && level != 4)

/-- Walk the levels of one stage; `rd` reads the entry at a table address for a level (low and high word) and says what it read
meanwhile. Structure is checked before STATE (R242); of a 64 KiB page's entries only the first counts (R240). -/
def walkStage (rd : Nat → Nat → Except WalkErr (Nat × Nat × Reads)) (stage va : Nat) :
    List (Nat × Nat × Nat) → Nat → Reads → Except WalkErr (PageLeaf × Reads)
  | [], _, seen => .error ⟨pageFault, 4, stage, 0, seen⟩
  | (lv, lo, wd) :: rest, table, seen =>
    let size := 16 * 2 ^ wd
    let base := table / size * size
    let idx := fld va lo wd
    match rd lv (base + 16 * idx) with
    | .error e => .error (e.after seen)
    | .ok (e0, e1, more) =>
      let leaf := fld e0 10 1 == 1
      let seen := seen ++ more ++ [(stage, lv, base + 16 * idx, leaf || badEntry lv e0)]
      if badEntry lv e0 then .error ⟨pageFault, lv, stage, 0, seen⟩
      else if !leaf then walkStage rd stage va rest (pteAddr e0) seen
      else if fld e0 11 1 = 1 then
        let first := base + 16 * (16 * (idx / 16))
        match rd lv first with
        | .error e => .error (e.after seen)
        | .ok (f0, f1, more) =>
          let seen := if idx % 16 = 0 then seen else seen ++ more ++ [(stage, lv, first, true)]
          if fld f0 11 1 = 0 ∨ fld f0 10 1 = 0 then .error ⟨pageFault, lv, stage, 0, seen⟩
          else match stateFault lv stage f0 with
            | some e => .error (e.after seen)
            | none => .ok (⟨pteAddr f0 / 2 ^ 16 * 2 ^ 16, 2 ^ 16, f0, f1⟩, seen)
      else match stateFault lv stage e0 with
        | some e => .error (e.after seen)
        | none => .ok (⟨pteAddr e0 / 2 ^ lo * 2 ^ lo, 2 ^ lo, e0, e1⟩, seen)

/-- A table entry at a physical address of LOCAL memory; a read from a poisoned frame fails (R242; state 8 marks it). -/
def readPte (m : Mem) (frames : List Nat) (stage level pa : Nat) : Except WalkErr (Nat × Nat) :=
  if frames.contains (pa / 4096) then .error ⟨eccUncorr, level, stage, 8, [(stage, level, pa, true)]⟩
  else .ok (cellVal m.cells pa 8, cellVal m.cells (pa + 8) 8)

/-- Stage 2: an IPA to its leaf. -/
def walk2 (m : Mem) (frames : List Nat) (root ipa : Nat) : Except WalkErr (PageLeaf × Reads) :=
  walkStage (fun lv a => match readPte m frames 2 lv a with
    | .ok e => .ok (e.1, e.2, [])
    | .error e => .error e) 2 ipa walkLevels root []

/-- Stage 1: its table addresses are IPAs, which stage 2 translates to pages of LOCAL memory (R237). -/
def walk1 (m : Mem) (frames : List Nat) (root2 root1 va : Nat) : Except WalkErr (PageLeaf × Reads) :=
  walkStage (fun lv a =>
    match walk2 m frames root2 (a % 2 ^ 52) with
    | .error e => .error e
    | .ok (l, seen) =>
      if pteType l.hi = some .loc then
        match readPte m frames 1 lv (l.base + a % l.size) with
        | .ok e => .ok (e.1, e.2, seen)
        | .error e => .error (e.after seen)
      else .error ⟨pageFault, lv, 1, 0, seen⟩) 1 va walkLevels root1 []

/-- Level of a leaf of some size. -/
def leafLevel (size : Nat) : Nat := if size ≤ 2 ^ 16 then 4 else if size = 2 ^ 21 then 3 else 2

/-- The leaves of both stages, and what was read. -/
def walkLeaves (s : State) (owner ctx va : Nat) : Except WalkErr (PageLeaf × PageLeaf × Reads) :=
  let x := s.ctx ctx
  let root2 := ((s.owner? owner).map (·.spec.s2root)).getD 0
  match walk1 s.mem s.rel.frames root2 (fld x.latched.s1root 12 40 * 2 ^ 12) va with
  | .error e => .error e
  | .ok (l1, r1) => match walk2 s.mem s.rel.frames root2 (l1.base + va % l1.size) with
    | .error e => .error (e.after r1)
    | .ok (l2, r2) => .ok (l1, l2, r1 ++ r2)

/-- Whether both leaves allow an access of a kind (R241). -/
def leavesAllow (l1 l2 : PageLeaf) (k : AccKind) : Bool :=
  let r := fld l1.lo 6 1 == 1 && fld l2.lo 6 1 == 1
  let w := fld l1.lo 7 1 == 1 && fld l2.lo 7 1 == 1
  match k with
  | .store => w
  | .atomic => r && w
  | _ => r

/-- What tells the lines of two packages apart whose physical addresses agree (R219): a multiple of 2^52 above the 52 address bits
of a PEER or POD page. -/
def pkgKey (t : MemType) (peer : Nat) : Nat :=
  match t with
  | .peer => 2 ^ 52 * (1 + peer % 1024)
  | .pod => 2 ^ 52 * (1025 + peer % 1024)
  | _ => 0
/-- The package behind a PEER or POD line. -/
def pkgOf (pa : Nat) : Nat := (pa / 2 ^ 52 - 1) % 1024

/-- Both stages: the combined translation of R241. The state of the leaves is PRESENT. -/
def walkBoth (s : State) (owner ctx va : Nat) (k : AccKind) : Except WalkErr (Tlb × Reads) :=
  match walkLeaves s owner ctx va with
  | .error e => .error e
  | .ok (l1, l2, r) =>
    let ipa := l1.base + va % l1.size
    let size := min l1.size l2.size
    let pa := l2.base + ipa % l2.size
    match pteType l2.hi with
    | none => .error ⟨if leavesAllow l1 l2 k then pageFault else permFault, leafLevel l2.size, 2, 1, r⟩
    | some typ => .ok ({
        owner, pasid := (s.ctx ctx).latched.pasid, va := va / size * size, size, pa := pa / size * size + pkgKey typ (ptePeer l2.hi), typ
        lab := pteLabel l2.hi, own := pteOwner l2.hi, peer := ptePeer l2.hi
        r := fld l1.lo 6 1 == 1 && fld l2.lo 6 1 == 1, w := fld l1.lo 7 1 == 1 && fld l2.lo 7 1 == 1 }, r)

/-- The checks of R242 on a translation: permission, owner. -/
def tlbAllows (t : Tlb) (owner : Nat) : AccKind → Bool
  | .load => t.r && t.own == owner
  | .store => t.w && t.own == owner
  | .atomic => t.r && t.w && t.own == owner
  | .const => t.r && t.own == owner && t.typ ≠ .mmio

/-! ### TLBs (R243, R244): functional contents, most recently used first -/

def tlbHit (owner pasid va : Nat) (t : Tlb) : Bool :=
  t.owner == owner && t.pasid == pasid && decide (t.va ≤ va) && decide (va < t.va + t.size)

/-- Ways of a quad's TLB that an owner may use. -/
def tlbWays (s : State) (owner quad : Nat) : Nat :=
  match s.owner? owner with
  | none => 0
  | some o => popcnt (look 0 quad o.spec.tlbWays)
where popcnt (m : BitVec 16) : Nat := (List.range 16).foldl (fun n k => if m.getLsbD k then n + 1 else n) 0

/-- Put a translation in front of a core's micro-TLB, dropping the least recently used. -/
def utlbInsert (core : Nat) (t : Tlb) (s : State) : State :=
  s.updCore core fun c => { c with utlb := (t :: c.utlb.filter (· ≠ t)).take 64 }
/-- Put a translation into a core's micro-TLB and into its quad's TLB. -/
def tlbInsert (core : Nat) (t : Tlb) (s : State) : State :=
  let s := utlbInsert core t s
  let quad := quadOf core
  let setOf := fun (x : Nat × Tlb) => x.2.va / 4096 % 128
  let mine := s.mem.qtlb.filter fun x => x.1 == quad && x.2.owner == t.owner && setOf x == t.va / 4096 % 128 && x.2 ≠ t
  let others := s.mem.qtlb.filter fun x => !(x.1 == quad && x.2.owner == t.owner && setOf x == t.va / 4096 % 128)
  s.setMem { s.mem with qtlb := ((quad, t) :: mine).take (tlbWays s t.owner quad) ++ others }

/-- A lookup in the micro-TLB, then in the quad TLB, which a hit in the first does not reach. -/
def tlbLook (core owner pasid va : Nat) (s : State) : Option (Tlb × State) :=
  match (s.core core).utlb.find? (tlbHit owner pasid va) with
  | some t => some (t, utlbInsert core t s)
  | none => (s.mem.qtlb.find? fun x => x.1 == quadOf core && tlbHit owner pasid va x.2).map fun x => (x.2, tlbInsert core x.2 s)

/-- Reads of a walk that the die's page-walk cache does not hold: each takes one WALK slot (R245). The walk finds the pointers
that it has read itself. -/
def walkSlots (s : State) (die owner pasid : Nat) (r : Reads) : Nat :=
  let out := r.filter fun e => !s.mem.pwc.contains (die, owner, e.1, (if e.1 = 1 then pasid else 0), e.2.1, e.2.2.1)
  (out.filter (·.2.2.2)).length + (out.filter (!·.2.2.2)).eraseDups.length
def pwcFill (die owner pasid : Nat) (r : Reads) (s : State) : State :=
  s.setMem { s.mem with pwc := r.foldl (fun l e =>
    let k := (die, owner, e.1, (if e.1 = 1 then pasid else 0), e.2.1, e.2.2.1)
    if e.2.2.2 || l.contains k then l else k :: l) s.mem.pwc }

/-- A translation as an access sees it: its result, and the walk that it waits for, if any. A miss joins a pending walk of the
same page, or starts one (R244, R245). -/
structure Xlat where
  res  : Except Nat Tlb
  walk : Option Nat

def checkTlb (t : Tlb) (owner : Nat) (k : AccKind) : Except Nat Tlb := if tlbAllows t owner k then .ok t else .error permFault

/-- Translate for a core's access (R242). -/
def translate (core owner ctx va : Nat) (k : AccKind) (s : State) : Xlat × State :=
  if va ≥ 2 ^ 56 then (⟨.error pageFault, none⟩, s)
  else
    let pasid := (s.ctx ctx).latched.pasid
    match tlbLook core owner pasid va s with
    | some (t, s) => (⟨checkTlb t owner k, none⟩, s)
    | none =>
      let w := walkBoth s owner ctx va k
      let res : Except Nat Tlb := match w with
        | .ok (t, _) => checkTlb t owner k
        | .error e => .error e.cause
      match s.mem.walks.find? fun x => quadOf x.core == quadOf core && x.owner == owner && x.pasid == pasid && x.page == va / 4096 with
      | some x => (⟨res, some x.id⟩, s)
      | none =>
        let reads := match w with
          | .ok (_, r) => r
          | .error e => e.seen
        let die := dieOf core
        let n := walkSlots s die owner pasid reads
        let (id, s) := s.fresh
        let tlb := match res with
          | .ok t => some t
          | .error _ => none
        let wk : Walk := { id, core, owner, pasid, page := va / 4096, left := n, tlb, waiters := [] }
        let s := pwcFill die owner pasid reads (s.setMem { s.mem with walks := s.mem.walks ++ [wk] })
        let s := if n = 0 then s.schedule s.now (.pageWalkComplete id)
          else sendReq owner core (List.replicate n (.rota .walk (.walker die (walkerOf core)))) (.walk id) s
        (⟨res, some id⟩, s)

/-- A request waits for a walk. -/
def awaitWalk (walk req : Nat) (s : State) : State :=
  s.setMem { s.mem with walks := amend (·.id == walk) (fun w => { w with waiters := w.waiters ++ [req] }) s.mem.walks }

/-- PAGE_WALK_COMPLETE (R243 to R245): the translation goes into the TLBs, and what waited goes on; a larger page also
completes the other pending misses within it. -/
def walkComplete (id : Nat) (s : State) : State :=
  match s.mem.walks.find? (·.id == id) with
  | none => s
  | some w =>
    let covers := fun (x : Walk) => x.id == id || (match w.tlb with
      | some t => x.owner == w.owner && x.pasid == w.pasid && quadOf x.core == quadOf w.core && tlbHit w.owner w.pasid (x.page * 4096) t
      | none => false)
    let done := s.mem.walks.filter covers
    let s := match w.tlb with
      | some t => done.foldl (fun s (x : Walk) => tlbInsert x.core t s) s
      | none => s
    let s := s.setMem { s.mem with walks := s.mem.walks.filter (!covers ·) }
    done.foldl (fun s (x : Walk) => x.waiters.foldl (fun s r => startLeg r s) s) s

end Sys2Proof.Machine
end

