-- ==== Sys2Proof/Machine/Caches.lean ====
section
/-! DEFINITION. Data array, caches and leases (spec/09_memory.md R187 to R197; spec/11_consistency.md R210 to R217). A LOCAL
access is performed when it issues, in the order of the machine's steps (LOG 7); caches hold copies with their timestamps. -/

namespace Sys2Proof.Machine

/-! ### The split of a core's data array (R187, R189) -/

/-- Banks of a core that serve as L1 ways. -/
def l1Ways (c : Core) : Nat := 40 - c.spG * (c.spS + c.spX) - c.spF
/-- DASPLIT (R189). -/
def dasplit (c : Core) : Nat :=
  c.spS + c.spF * 2 ^ 6 + c.spX * 2 ^ 12 + l1Ways c * 2 ^ 18 + c.spG * 2 ^ 24

def lineOf (pa : Nat) : Nat := pa / 64 * 64

/-- The host answers a read of a line: whether with poison is its own choice each time (R405, LOG 20). -/
def askHost (line : Nat) (s : State) : Bool × State :=
  (Config.hostPoison s.mem.reads line, s.setMem { s.mem with reads := s.mem.reads + 1 })
def blockOf (pa : Nat) : Nat := pa / 256 * 256

/-! ### L1 and constant cache: lines, most recently used first -/

/-- Keep the first `n` elements for which `p` holds, and all others. -/
def keepFirst {α : Type} (p : α → Bool) : Nat → List α → List α
  | _, [] => []
  | n, x :: l => if p x then (match n with
      | 0 => keepFirst p 0 l
      | k + 1 => x :: keepFirst p k l)
    else x :: keepFirst p n l

/-- Put a line in front of its set of `ways` (R192: set PA[12:6]). -/
def l1Put (ways : Nat) (x : Line) (l : List Line) : List Line :=
  keepFirst (fun y : Line => y.pa / 64 % 128 == x.pa / 64 % 128) ways (x :: l.filter (·.pa != x.pa))

def l1Install (core : Nat) (x : Line) (s : State) : State := s.updCore core fun c => { c with l1 := l1Put (l1Ways c) x c.l1 }
/-- The constant cache: 512 lines, least recently used replaced (R197). -/
def ccInstall (core : Nat) (x : Line) (s : State) : State :=
  s.updCore core fun c => { c with cc := (x :: c.cc.filter (·.pa != x.pa)).take 512 }

/-! ### Paths off the package (R220, R399) -/

def MemType.remote : MemType → Bool
  | .peer => true
  | .pod => true
  | _ => false

/-- The port of a path, when it is valid. -/
def pathPort (s : State) (dst path : Nat) : Option Nat :=
  match s.link.route.find? fun e => e.1 == dst && e.2.1 == path with
  | some (_, _, port, true, _) => match s.link.ports[port]? with
    | some p => if p.st = .failed || p.st = .down then none else some port
    | none => none
  | _ => none

def pathBound (s : State) (dst path : Nat) : Nat :=
  match s.link.route.find? fun e => e.1 == dst && e.2.1 == path with
  | some (_, _, _, _, b) => b
  | none => 0

/-- Outstanding stores of an owner on a path. -/
def onPath (s : State) (owner path : Nat) : Nat :=
  (s.mem.fabs.filter fun f => f.owner == owner && f.path == path && f.counted).length

/-- The path of a new request: the fewest outstanding stores of the owner, the lowest number first; 4 when none is valid. -/
def choosePath (s : State) (owner dst : Nat) : Nat :=
  ((List.range 4).filter fun p => (pathPort s dst p).isSome).foldl
    (fun b p => if b = 4 || onPath s owner p < onPath s owner b then p else b) 4

/-- A valid path's port to a package for an owner's traffic that is not posted, if there is one. -/
def anyPort (s : State) (owner dst : Nat) : Option Nat := pathPort s dst (choosePath s owner dst)

/-! ### L2 (R193): sectors, most recently used first -/

def l2Set (x : L2Line) : Nat := x.line.pa / 256 % 1024
/-- Ways of a set of a slice that are not disabled. -/
def l2WaysOf (s : State) (die sl : Nat) : Nat := 16 - (s.mem.l2ways.filter fun e => e.1 == die && e.2.1 == sl).length

/-- The 256 B lines of a set in order of recency. -/
def l2Tags (die sl set : Nat) (l : List L2Line) : List Nat :=
  ((l.filter fun x => x.die == die && x.slice == sl && l2Set x == set).map fun x => blockOf x.line.pa).eraseDups

/-- Whether an owner's MSC ways hold the 256 B line of an address (R196). -/
def mscHas (m : Mem) (o pa : Nat) : Bool := m.msc.any fun e => e.own == o && e.block == blockOf pa

/-- Write-back traffic of a dirty sector (R193, R17): to its home's MSC slice and on to HBM where that misses (R30), or to the port. -/
def writeBack (owner core : Nat) (x : L2Line) (s : State) : State :=
  let pa := x.line.pa
  let send := fun (l : List Leg) => sendReq owner core (toEdge x.die (sliceSite x.slice) ++ l) .idle s
  if !x.line.dirty then s
  else match x.line.typ with
    | .loc =>
      let stack := homeStack pa
      let hbm := if mscHas s.mem owner pa then [] else [Leg.rota .hbm (.hbm stack (homeChan pa))]
      send (d2dLegs x.die stack ++ .rota .msc (.msc stack) :: hbm)
    | .host => send [hubLink x.die, .rota .host .hostPort]
    | .mmio => s
    | _ => match anyPort s owner (pkgOf pa) with
      | some p => send [hubLink x.die, .rota .fab (.fabPort p)]
      | none => s

def l2Find (s : State) (die sl : Nat) (t : MemType) (line : Nat) : Option Line :=
  (s.mem.l2.find? fun y => y.die == die && y.slice == sl && y.line.pa == line && y.line.typ = t).map (·.line)

/-- Install or touch a sector: its 256 B line comes to the front of its set, or with NT to the end (R193, R203). A line that is new
in a full set takes the place of the least recently used one. A sector that was dirty stays dirty. -/
def l2Install (owner core die sl : Nat) (ln : Line) (nt : Bool) (s : State) : State :=
  let ways := l2WaysOf s die sl
  if ways = 0 then s
  else
    let was := (l2Find s die sl ln.typ ln.pa).any (·.dirty)
    let x : L2Line := ⟨die, sl, { ln with dirty := ln.dirty || was }, nt⟩
    let gone := ((l2Tags die sl (l2Set x) s.mem.l2).filter (· != blockOf ln.pa)).drop (ways - 1)
    let here := fun (y : L2Line) => y.die == die && y.slice == sl
    let out := fun (y : L2Line) => here y && gone.contains (blockOf y.line.pa)
    let mate := fun (y : L2Line) => here y && blockOf y.line.pa == blockOf ln.pa
    let mates := s.mem.l2.filter fun y => mate y && y.line.pa != ln.pa
    let rest := s.mem.l2.filter fun y => !mate y && !out y
    let dead := s.mem.l2.filter out
    dead.foldl (fun s y => writeBack owner core y s)
      (s.setMem { s.mem with l2 := if nt then rest ++ mates ++ [x] else x :: mates ++ rest })

/-! ### Home: MSC slices and timestamps (R196, R211) -/

def mtsOf (m : Mem) (o stack : Nat) : Nat := ((m.mts.find? fun e => e.1 == o && e.2.1 == stack).map (·.2.2)).getD 0
def mtsRaise (o stack t : Nat) (m : Mem) : Mem :=
  { m with mts := (o, stack, max t (mtsOf m o stack)) :: m.mts.filter fun e => !(e.1 == o && e.2.1 == stack) }

def maskWays (m : BitVec 16) : Nat := (List.range 16).foldl (fun n k => if m.getLsbD k then n + 1 else n) 0
/-- The MSC ways of an owner. -/
def mscWays (s : State) (o : Nat) : List Nat := ((s.owner? o).map fun x => (List.range 16).filter x.spec.mscWays.getLsbD).getD []

/-- A 256 B line leaves its MSC slice for HBM: MTS takes its leases, its stamps go (R211), and what HBM does not hold is written back. -/
def mscLeave (x : MscLine) (s : State) : State :=
  let mine := fun (t : Stamp) => t.own == x.own && blockOf t.line == x.block
  let m := mtsRaise x.own (homeStack x.block) ((s.mem.stamps.filter mine).foldl (fun n t => max n t.rts) 0) s.mem
  let s := s.setMem { m with stamps := m.stamps.filter (!mine ·), msc := m.msc.filter fun e => !(e.own == x.own && e.block == x.block) }
  if x.dirty then sendReq x.own 512 [.rota .hbm (.hbm (homeStack x.block) (homeChan x.block))] .idle s else s

/-- A line of the owner comes to the front of its set in the home slice, and is written there or not; whether it was there. A line that is
new takes the lowest way of the owner's that its set leaves free, else that of the least recently used (LOG 15). -/
def mscTouch (o pa : Nat) (write : Bool) (s : State) : Bool × State :=
  let b := blockOf pa
  match s.mem.msc.find? fun e => e.own == o && e.block == b with
  | some x => (true, s.setMem { s.mem with msc := { x with dirty := x.dirty || write } :: s.mem.msc.filter fun e => !(e.own == o && e.block == b) })
  | none =>
    let here := s.mem.msc.filter fun e =>
      e.own == o && homeStack e.block == homeStack b && e.block / 2 ^ 12 % 2 ^ 16 == b / 2 ^ 12 % 2 ^ 16
    let put := fun (w : Nat) (s : State) => s.setMem { s.mem with msc := ⟨o, b, w, write⟩ :: s.mem.msc }
    let ways := mscWays s o
    match ways.find? fun w => here.all (·.way != w) with
    | some w => (false, put w s)
    | none => match (if ways.isEmpty then none else here.getLast?) with
      | some x => (false, put x.way (mscLeave x s))
      | none => (false, s)

/-- Which of some lines in turn miss in the MSC, as their requests find it (R19, R30). -/
def mscMisses (o : Nat) : List Nat → State → List Bool
  | [], _ => []
  | l :: ls, s =>
    let (hit, s) := mscTouch o l true s
    (!hit) :: mscMisses o ls s

/-- The pair of an owner's line at home: MTS for one that comes from HBM. -/
def stampOf (m : Mem) (o line : Nat) : Stamp :=
  match m.stamps.find? fun x => x.own == o && x.line == line with
  | some x => x
  | none => ⟨o, line, mtsOf m o (homeStack line), mtsOf m o (homeStack line)⟩
def stampPut (x : Stamp) (m : Mem) : Mem :=
  { m with stamps := x :: m.stamps.filter fun y => !(y.own == x.own && y.line == x.line) }
/-- A line that the owner's MSC ways cannot hold goes on to HBM at once. -/
def mscPass (o line : Nat) (s : State) : State := if mscHas s.mem o line then s else mscLeave ⟨o, blockOf line, 0, false⟩ s

/-! ### The lease clock (R211, R216, R217) -/

/-- A timestamp of an owner: past 2^47 a timestamp reset is due, and near 2^48 it is made at once. -/
def noteStamp (owner ts : Nat) (s : State) : State :=
  if ts ≤ 2 ^ 47 then s
  else
    let s := s.updOwner owner fun o => { o with resetReq := true }
    if ts ≥ 2 ^ 48 - 2 ^ 20 then s.scheduleOnce s.now (.timestampReset (Fin.ofNat 8 owner)) else s

/-- LCLK := ts. -/
def setLclk (core owner ts : Nat) (s : State) : State :=
  noteStamp owner ts (s.updCore core fun c => { c with lclk := max c.lclk ts })

/-- Whose lease clock the hub and the bridge use for an owner's LOCAL lines: each owner's has its own (R216, LOG 36). -/
def hubClock (owner : Nat) : Nat := 512 + owner

def leaseOf (s : State) (o : Nat) : Nat := ((s.owner? o).map (·.lease)).getD 16

/-- The lines that n bytes from an address up touch. -/
def linesOf (pa n : Nat) : List Nat := (List.range ((pa % 64 + n + 63) / 64)).map fun k => lineOf pa + 64 * k

/-! ### A load's line (R202, R203, R212) -/

/-- Cycles of a lookup that misses in L1, of a lookup in L2, of a fill of L2, and of a fill of L1 with the return (LOG 15). -/
def l1Lookup : Nat := 8
def l2Lookup : Nat := 12
def l2Fill : Nat := 4
def l1Return : Nat := 8

/-- A core's way to its L2 slice, from the lookup in L1 to the end of the lookup in L2. -/
def downL2 (core sl : Nat) : List Leg := .hold l1Lookup :: toSlice core sl ++ [.hold l2Lookup]
/-- The way back from the L2 slice. -/
def upL2 (core sl : Nat) : List Leg := fromSlice core sl ++ [.hold l1Return]

/-- Where a line is served: within the core, along a way within the package, or off the package. -/
inductive Served
  | l1
  | way (l : List Leg)
  | off

/-- The bytes of a line where they are authoritative. -/
def homeBytes (m : Mem) (t : MemType) (line : Nat) : List Byte :=
  match t with
  | .loc => cellBytes m.cells line 64
  | .host => cellBytes m.host line 64
  | _ => cellBytes m.remote line 64

/-- Whether a copy may be used: a LOCAL one while its lease holds, any other until it is invalidated. -/
def copyOk (lclk : Nat) (t : MemType) (x : Line) : Bool := x.typ = t && (t ≠ .loc || decide (lclk ≤ x.rts))

/-- A copy as it is read: one of a HOST line is kept equal to its home's (R223, LOG 7). -/
def copyNow (m : Mem) (x : Line) : Line := if x.typ = .host then { x with bytes := homeBytes m .host x.pa } else x

/-- A LOCAL line is loaded at home: its lease is renewed, the loader's clock rises (R212); whether the MSC held it. -/
def homeLoad (core owner line : Nat) (s : State) : Bool × Line × State :=
  let lclk := (s.core core).lclk
  let (hit, s) := mscTouch owner line false s
  let h := stampOf s.mem owner line
  let h := { h with rts := max h.rts (lclk + leaseOf s owner) }
  let s := mscPass owner line (noteStamp owner h.rts (s.setMem (stampPut h s.mem)))
  (hit, ⟨line, homeBytes s.mem .loc line, h.wts, h.rts, false, .loc⟩, setLclk core owner (max lclk h.wts) s)

/-- Look up a line from L2 on: the line, and where it is served. A PEER or POD line is not there before its home has answered; a
copy serves only while `free` says so (LOG 36). -/
def belowL1 (core owner : Nat) (t : MemType) (line : Nat) (nt free : Bool) (s : State) : Line × Served × State :=
  let lclk := (s.core core).lclk
  let die := dieOf core
  let sl := sliceOf s owner die line
  match (l2Find s die sl t line).filter fun x => free && copyOk lclk t x with
  | some x =>
    let s := if t = .loc then setLclk core owner (max lclk x.wts) s else s
    ({ copyNow s.mem x with dirty := false }, .way (downL2 core sl ++ .turn :: upL2 core sl), l2Install owner core die sl x nt s)
  | none =>
    if t = .loc then
      let (hit, x, s) := homeLoad core owner line s
      (x, .way (downL2 core sl ++ homeWay core sl line (!hit) ++ [.hold l2Fill] ++ upL2 core sl), l2Install owner core die sl x nt s)
    else
      let x : Line := ⟨line, homeBytes s.mem t line, 0, 0, false, t⟩
      (x, .off, if t.remote then s else l2Install owner core die sl x nt s)

/-- Look up a line of a cacheable type for a load. -/
def loadLine (core owner : Nat) (t : MemType) (line : Nat) (nt free : Bool) (s : State) : Line × Served × State :=
  let lclk := (s.core core).lclk
  match (s.core core).l1.find? fun x => x.pa == line && free && copyOk lclk t x with
  | some x => (copyNow s.mem x, .l1, l1Install core x (if t = .loc then setLclk core owner (max lclk x.wts) s else s))
  | none =>
    let (x, w, s) := belowL1 core owner t line nt free s
    let absent := match w with
      | .off => t.remote
      | _ => false
    (x, w, if nt || absent then s else l1Install core x s)

/-- Look up a line on the constant path: 20 cycles on a hit, else it fills through L2 (R197). -/
def constLine (core owner : Nat) (t : MemType) (line : Nat) (s : State) : Line × Served × State :=
  match (s.core core).cc.find? fun x => x.pa == line && x.typ = t with
  | some x => (x, .l1, ccInstall core x s)
  | none =>
    let (x, w, s) := belowL1 core owner t line false true s
    let absent := match w with
      | .off => t.remote
      | _ => false
    (x, w, if absent then s else ccInstall core x s)

/-! ### Stores and atomics at home (R213) -/

/-- A LOCAL line is written at home: the store's timestamp, and whether the MSC held it. -/
def storeStamp (core owner line : Nat) (s : State) : Bool × State :=
  let lclk := (s.core core).lclk
  let (hit, s) := mscTouch owner line true s
  let h := stampOf s.mem owner line
  let ts := max lclk h.rts + 1
  let s := mscPass owner line (s.setMem (stampPut { h with wts := ts, rts := ts } s.mem))
  (hit, setLclk core owner ts s)

/-- Write bytes where they are authoritative. -/
def putBytes (t : MemType) (pa : Nat) (bs : List Byte) (s : State) : State :=
  match t with
  | .loc => s.setMem { s.mem with cells := cellPuts s.mem.cells pa bs }
  | .host => s.setMem { s.mem with host := cellPuts s.mem.host pa bs }
  | _ => s.setMem { s.mem with remote := cellPuts s.mem.remote pa bs }

/-- A line of a core's L1, when it is present there, takes other contents. -/
def l1Update (core : Nat) (t : MemType) (line : Nat) (f : Line → Line) (s : State) : State :=
  s.updCore core fun c => { c with l1 := amend (fun y => y.pa == line && y.typ = t) f c.l1 }

/-- A performed store's line reaches L1, when present there, and L2, where it is dirty (R192, R193, R426). -/
def refreshCopies (core owner : Nat) (t : MemType) (line : Nat) (nt : Bool) (s : State) : State :=
  if 512 ≤ core then s else
  let h := stampOf s.mem owner line
  let x : Line := ⟨line, homeBytes s.mem t line, if t = .loc then h.wts else 0, if t = .loc then h.rts else 0, false, t⟩
  l2Install owner core (dieOf core) (sliceOf s owner (dieOf core) line) { x with dirty := true } nt (l1Update core t line (fun _ => x) s)

/-- A line with some bytes at their addresses stored over. -/
def Line.patch (data : List (Nat × Byte)) (x : Line) : Line :=
  { x with bytes := x.bytes.mapIdx fun k b => ((data.reverse.find? (·.1 == x.pa + k)).map (·.2)).getD b }

/-- The bytes of a PEER or POD store reach L1, when the line is present there, and L2, before its home has them (R192, R193, R426). -/
def patchCopies (core owner : Nat) (t : MemType) (line : Nat) (data : List (Nat × Byte)) (nt : Bool) (s : State) : State :=
  if 512 ≤ core then s else
  let die := dieOf core
  let sl := sliceOf s owner die line
  let x := (l2Find s die sl t line).getD ⟨line, homeBytes s.mem t line, 0, 0, false, t⟩
  l2Install owner core die sl { x.patch data with dirty := true } nt (l1Update core t line (Line.patch data) s)

/-- No reply on its way fills caches with some lines any more. -/
def dropFills (p : MemType → Nat → Bool) (s : State) : State :=
  s.setMem { s.mem with fabs := amend (fun f => p f.typ f.line) (fun f => { f with fill := none }) s.mem.fabs }

/-- Lines leave every L1 and L2 of the package but for those that `l1` and `l2` keep (R219, R223, R402). -/
def dropWhere (p : MemType → Nat → Bool) (l1 : Nat → Bool) (l2 : L2Line → Bool) (s : State) : State :=
  let s := s.setCores (s.cores.map fun e => if l1 e.1 then e else (e.1, { e.2 with l1 := e.2.l1.filter fun y => !p y.typ y.pa }))
  dropFills p (s.setMem { s.mem with l2 := s.mem.l2.filter fun y => l2 y || !p y.line.typ y.line.pa })

/-- A line leaves every L1 and L2 of the package. -/
def dropLine (t : MemType) (line : Nat) : State → State :=
  dropWhere (fun u l => u = t && l == line) (fun _ => false) (fun _ => false)

/-- A line leaves every other L1 and L2 than those that a core's store of an owner has updated. -/
def dropOthers (core owner : Nat) (t : MemType) (line : Nat) (s : State) : State :=
  let die := dieOf core
  let sl := sliceOf s owner die line
  dropWhere (fun u l => u = t && l == line) (· == core) (fun y => y.die == die && y.slice == sl) s

/-- The label check of R251 on a store's data. -/
def labelCheck (t : MemType) (dl page : Label) : Option Nat :=
  match t with
  | .loc | .mmio => if dl &&& ~~~page = 0 then none else some labelStore
  | _ => if dl &&& ~~~page = 0 && maskWays page ≤ 1 then none else some labelExport

end Sys2Proof.Machine
end

