-- ==== Sys2Proof/Machine/Fabric.lean ====
section
/-! DEFINITION. Requests that leave the package: paths, delivery contexts, tags, the home's order of the packets of a line,
timeouts (spec/11_consistency.md R219 to R223; spec/23_link.md R394 to R402). A PEER or POD request is performed when it
reaches its home (HOME_STORE_APPLY), a HOST request when it issues (LOG 7). -/

namespace Sys2Proof.Machine

/-! ### Operations of atomics (R227) -/

def AOp.apply (op : AOp) (o x swap : Word) : Word :=
  match op with
  | .arith .add => o + x
  | .arith .fadd => nat32 (fAdd f32 o.toNat x.toNat).1
  | .arith .min => minS o x
  | .arith .max => maxS o x
  | .arith .minn => minU o x
  | .arith .maxn => maxU o x
  | .arith .fmin => nat32 (fMinMax f32 false o.toNat x.toNat)
  | .arith .fmax => nat32 (fMinMax f32 true o.toNat x.toNat)
  | .bits .and => o &&& x
  | .bits .or => o ||| x
  | .bits .xor => o ^^^ x
  | .bits .exch => x
  | .cas => if o = x then swap else o

/-- The operand that lanes of one address combine to before they are sent (R230); one lane sends its own. -/
def AOp.fold (op : AOp) : List LaneAcc → Word
  | [] => 0
  | l :: ls => ls.foldl (fun c k => op.apply c (nat32 k.data) 0) (nat32 l.data)

/-- What each lane of one address gets back: the old value combined with the lanes before it (R230). -/
def AOp.prefixes (op : AOp) (r : Word) : List LaneAcc → List (Nat × Word)
  | [] => []
  | l :: ls => (l.lane, r) :: op.prefixes (op.apply r (nat32 l.data) 0) ls

/-- An atomic at its site: the new value, and what each lane gets. -/
def AOp.at (op : AOp) (old : Word) (ls : List LaneAcc) : Word × List (Nat × Word) :=
  (op.apply old (op.fold ls) (nat32 ((ls.head?.map (·.swap)).getD 0)), op.prefixes old ls)

/-! ### Results into entries -/

/-- Put what a lane reads into an entry's register writes. -/
def Pend.fill (lane v : Nat) (p : Pend) : Pend :=
  { p with ws := p.ws.mapIdx fun i r => match r.tgt with
    | .v _ => { r with vals := r.vals.set lane (nat32 (v / 2 ^ (32 * i))) }
    | .s _ => { r with vals := [nat32 (v / 2 ^ (32 * i))] }
    | .h _ => { r with big := r.big ||| (BitVec.ofNat 8192 v <<< (512 * lane)) } }

def updPend (r : WaveRef) (id : Nat) (f : Pend → Pend) (s : State) : State :=
  s.updWave r fun w => { w with pend := amend (·.id == id) f w.pend }

/-- A part of a quarantined entry has returned. -/
def Quar.returned (id : Nat) (q : Quar) : Quar :=
  { q with pend := (amend (·.1 == id) (fun e => (e.1, e.2 - 1)) q.pend).filter (·.2 != 0) }

/-- A part of an ended wave's entry returns and is discarded: its register block leaves quarantine with the last, which frees a resource
of the core (R314, R318). -/
def returnQuar (id : Nat) (s : State) : State :=
  let mine := fun (e : Nat × Core) => e.2.quar.any fun q => q.pend.any (·.1 == id)
  let cores := (s.cores.filter mine).map (·.1)
  let s := s.setCores (s.cores.map fun e => (e.1, { e.2 with quar := (e.2.quar.map (Quar.returned id)).filter (!·.pend.isEmpty) }))
  overList (fun (o : Owner) s => if o.spec.cores.any cores.contains then placeOpp o.id s else s) s.owners s

/-- One part of an entry has returned. -/
def returnPart (r : WaveRef) (id : Nat) (s : State) : State :=
  returnQuar id (updPend r id (fun p => { p with left := p.left - 1 }) s)

/-- A job of the hub or an engine that an entry waits for is done: unless it failed, a replay does not send it again (R272). -/
def returnDone (r : WaveRef) (id : Nat) (s : State) : State :=
  returnPart r id (updPend r id (fun p => if p.fail.isNone then { p with job := .none } else p) s)

/-- The first failure of an entry stands (R56). -/
def failPend (r : WaveRef) (id : Nat) (f : Fail) : State → State :=
  updPend r id fun p => { p with fail := p.fail <|> some f }

/-- Put an entry at its place in issue order. -/
def insertPend (p : Pend) : List Pend → List Pend
  | [] => [p]
  | q :: l => if p.id < q.id then p :: q :: l else q :: insertPend p l

/-! ### Tags (R397, R398) -/

def maxTags : Nat := 4096

/-- Tags in use or held at a time of the wall clock: a hold ends with its time, whether or not TAG_HOLD_EXPIRE has cleared it
away (LOG 14). -/
def tagsHeld (c : Core) (wall : Nat) : List TagUse := c.tags.filter fun t => t.req.isSome || decide (wall < t.till)

/-- The lowest tag of a core that is not in use. -/
def freeTag (c : Core) (wall : Nat) : Nat :=
  ((List.range ((tagsHeld c wall).length + 1)).find? fun t => (tagsHeld c wall).all (·.tag != t)).getD maxTags

def takeTag (core id : Nat) (s : State) : (Nat × Nat) × State :=
  let c := s.core core
  let t := freeTag c s.wall
  let g := look 0 t c.gens
  ((t, g), s.updCore core fun c => { c with tags := c.tags.filter (·.tag != t) ++ [⟨t, g, some id, 0⟩] })
def dropTag (core tag : Nat) (s : State) : State :=
  s.updCore core fun c => { c with tags := c.tags.filter (·.tag != tag) }

/-! ### Delivery contexts (R394, R396) -/

/-- The next SEQ of a delivery context, which its first packet creates. -/
def takeSeq (k : DcKey) (s : State) : Nat × State :=
  match s.link.send.find? (·.key = k) with
  | some d => (d.seq % 2 ^ 24, s.setLink { s.link with send := amend (·.key = k) (fun d => { d with seq := (d.seq + 1) % 2 ^ 24, last := s.wall }) s.link.send })
  | none => (0, s.setLink { s.link with send := s.link.send ++ [⟨k, 1, s.wall⟩] })

/-- A packet of a context is sent: its idle time starts again (R396). -/
def touchDc (k : DcKey) (s : State) : State :=
  let s := s.setLink { s.link with send := amend (·.key = k) (fun d => { d with last := s.wall }) s.link.send }
  (s.unschedule (.senderTeardown k)).schedule (wallDue s s.wall 50) (.senderTeardown k)

/-- Sender contexts of the hub's 8,192 that an owner may hold: its DCQUOTA, as far as the quotas of lower-numbered owners leave them, so
that no owner waits for another's (R22, R25, R396, LOG 36). -/
def dcShare (s : State) (owner : Nat) : Nat :=
  let quota := fun (o : Nat) => ((s.owner? o).map (·.dcquota)).getD 0
  min (quota owner) (8192 - ((List.range owner).map quota).sum)

/-- Whether an owner may send n more packets of a traffic class to some packages at once: tags, contexts of its share, 4,096 outstanding. -/
def fabricReady (s : State) (core owner tc n : Nat) (dsts : List Nat) : Bool :=
  let c := s.core core
  let new := dsts.eraseDups.filter fun d => !s.link.send.any fun x => x.key.owner == owner && x.key.dstpkg == d && x.key.tc == tc
  let mine := (s.link.send.filter (·.key.owner == owner)).length
  decide ((tagsHeld c s.wall).length + n ≤ maxTags) &&
    (new.isEmpty || decide (mine + new.length ≤ dcShare s owner)) &&
    dsts.eraseDups.all fun d =>
      decide ((s.mem.fabs.filter fun f => f.owner == owner && f.key.dstpkg == d && f.key.tc == tc && f.typ ≠ .host && !f.gone && decide (f.tag < maxTags)).length + (dsts.filter (· == d)).length ≤ 4096)

/-! ### A request's life -/

def State.fab? (s : State) (id : Nat) : Option FabReq := s.mem.fabs.find? (·.id == id)
def updFab (id : Nat) (f : FabReq → FabReq) (s : State) : State :=
  s.setMem { s.mem with fabs := amend (·.id == id) f s.mem.fabs }

/-- The bytes that a request touches: physical addresses, and the bytes of a store. -/
def FabReq.spans (f : FabReq) : List (Nat × Nat) := f.pas.map fun a => (a, f.acc.n)
def overlaps (l m : List (Nat × Nat)) : Bool :=
  l.any fun a => m.any fun b => decide (a.1 < b.1 + b.2) && decide (b.1 < a.1 + a.2)
def FabReq.stored (f : FabReq) : List (Nat × Byte) :=
  (f.acc.lanes.zip f.pas).flatMap fun e => (leBytes f.acc.n e.1.data).mapIdx fun k b => (e.2 + k, b)
/-- The byte that a pending store leaves at an address: that of its highest lane (R202). -/
def FabReq.byteAt (f : FabReq) (pa : Nat) : Option Byte := (f.stored.reverse.find? (·.1 == pa)).map (·.2)

def flitKind : AccKind → FlitType
  | .store => .write
  | .atomic => .atomic
  | _ => .read

/-- The flit that carries a PEER or POD request (R388). -/
def FabReq.flit (f : FabReq) (s : State) : Flit :=
  { srcpkg := s.link.pkgId, dstpkg := f.key.dstpkg, dom := ((s.owner? f.owner).map (·.dom)).getD 0
    tenant := (s.ctx f.ctx).latched.tenant, ctx := f.ctx, vc := .req, tc := f.key.tc, path := f.path, seq := f.seq, tag := f.tag
    gen := f.gen, type := flitKind f.acc.kind, age := min 0xFFF ((s.wall - f.first.getD s.wall) / (32 * usTicks)), of := f.acc.of, dep := f.dep
    owner := f.owner, req := f.id, base := 0, map := [], pod := none
    bytes := (if f.acc.kind = .store then f.stored else f.pas.map fun a => (a, 0)).map fun e => (e.1 % 2 ^ 52, e.2) }

/-- A store of a wave enters or leaves its PATHCNT (R220). -/
def countPath (f : FabReq) (path : Nat) (up : Bool) (s : State) : State :=
  if f.src = .wave then s.updWave f.w fun w => { w with pathcnt := w.pathcnt.modify path fun n => if up then n + 1 else n - 1 } else s

/-- A request for a line that fills caches on its return. -/
def FabReq.reads (f : FabReq) : Bool := f.acc.kind = .load || f.acc.kind = .const

/-- The way of a request from a core to the hub, through the owner's slice and the die's edge (R17, R426); the hub's own is there. -/
def wayOut (s : State) (f : FabReq) : List Leg :=
  if 512 ≤ f.core then []
  else
    let die := dieOf f.core
    let sl := sliceOf s f.owner die f.line
    (if f.reads then downL2 f.core sl else toSlice f.core sl ++ [atSlice]) ++ toEdge die (sliceSite sl) ++ [hubLink die]
/-- The way of a reply back: a load's line fills L2 and L1 (LOG 15). -/
def wayBack (s : State) (f : FabReq) : List Leg :=
  if 512 ≤ f.core then []
  else
    let die := dieOf f.core
    let sl := sliceOf s f.owner die f.line
    hubLink die :: fromEdge die (sliceSite sl) ++ (if f.reads then .hold l2Fill :: upL2 f.core sl else atSlice :: fromSlice f.core sl)
/-- The way of a PEER or POD packet from the hub to its home. -/
def sendLegs (s : State) (f : FabReq) : List Leg :=
  [.rota .fab (.fabPort ((pathPort s f.key.dstpkg f.path).getD 0)), .hold (Config.fabricTravel + Config.homeService)]
/-- The way of a request to its port and home, of a HOST request back too; `m` cycles pass before it leaves the core. -/
def fabLegs (s : State) (f : FabReq) (m : Nat) : List Leg :=
  let out := (if m = 0 then [] else [.hold m]) ++ wayOut s f
  match f.typ with
  | .host => out ++ [.rota .host .hostPort, .hold Config.hostTravel, .turn] ++ wayBack s f
  | _ => out ++ sendLegs s f
def replyLegs (s : State) (f : FabReq) : List Leg := .turn :: .hold Config.fabricTravel :: wayBack s f

/-- A request takes its tag, its place in its delivery context and its completion bound (R394, R397, R398). -/
def claimFab (id : Nat) (s : State) : State :=
  match s.fab? id with
  | none => s
  | some f =>
    let ((tag, gen), s) := takeTag f.core id s
    let (seq, s) := if f.typ.remote then takeSeq f.key s else (0, s)
    let dep := f.typ.remote && s.mem.fabs.any fun g =>
      g.id != id && decide (g.tag < maxTags) && g.key = f.key && g.typ ≠ .host && overlaps g.spans f.spans
    let s := updFab id (fun f => { f with tag, gen, seq, dep, issued := s.wall }) s
    s.schedule (wallDue s s.wall (((s.owner? f.owner).map (·.timeout)).getD 1000)) (.fabricTimeout id)

/-- A request is sent, or waits for a valid path; `walk` holds it until its translation is there. -/
def sendFab (id m : Nat) (walk : Option Nat) (s : State) : State :=
  match s.fab? id with
  | none => s
  | some f =>
    let remote := f.typ ≠ .host
    let path := if remote then choosePath s f.owner f.key.dstpkg else 4
    let f := { f with path, started := true, counted := remote && f.acc.kind = .store && path < 4 }
    let s := updFab id (fun _ => f) s
    if remote && path = 4 then s
    else
      let s := if f.counted then countPath f path true s else s
      let s := if remote then
          let fl := f.flit s
          touchDc f.key ((s.setLink { s.link with sent := s.link.sent ++ [⟨id, fl, id, s.wall⟩] }).schedule (wallDue s s.wall 20) (.retransmit id))
        else s
      let p : Purpose := if remote then .remote id else if f.acc.kind = .store then .wt id else .reply f.w id
      let (q, s) := newReq f.owner f.core (fabLegs s f m) p s
      match walk with
      | none => startLeg q s
      | some k => awaitWalk k q s

/-- Requests that wait for a valid path go when one becomes valid (R399). -/
def retryPaths (s : State) : State :=
  overList (fun f s => if f.started && f.path == 4 && f.typ ≠ .host && !f.gone then sendFab f.id 0 none s else s) s.mem.fabs s

/-- A request that no instruction waits for at issue goes as soon as its turn has come, and tags, contexts and the limit of R394 allow. -/
def postFab (id : Nat) (s : State) : State :=
  match s.fab? id with
  | some f =>
    let free := !f.held && f.behind.all fun b => !(s.mem.fabs.any fun g => g.id == b && !g.gone)
    if free && !f.started && f.tag = maxTags && fabricReady s f.core f.owner f.key.tc 1 (if f.typ.remote then [f.key.dstpkg] else []) then
      sendFab id 0 none (claimFab id s)
    else s
  | none => s
def retryPosts (s : State) : State :=
  overList (fun (f : FabReq) s => if f.tag = maxTags && !f.gone then postFab f.id s else s) s.mem.fabs s

/-- A request whose tag and place were claimed is sent; one that found none free waits for them (R394, R396, R397). -/
def goFab (id m : Nat) (walk : Option Nat) (s : State) : State :=
  match s.fab? id with
  | none => s
  | some f =>
    if f.tag ≠ maxTags then sendFab id m walk s
    else match walk with
      | none => postFab id (updFab id (fun f => { f with held := false }) s)
      | some k =>
        let (q, s) := newReq f.owner f.core [] (.wtStart id) s
        awaitWalk k q s

/-- Whether copies of a request, or replies to it, are still on their way. -/
def strays (s : State) (id : Nat) : Bool :=
  s.rota.reqs.any (fun r => match r.purpose with
    | .remote f | .ackBack f | .reply _ f => f == id
    | _ => false) ||
  s.agenda.any fun e => match e.2 with
    | .homeStoreApply f | .remoteStoreAck f | .resultReturn _ f => f == id
    | _ => false

/-- A request completes: its tag is free again, and a store leaves PATHCNT. While replies to retransmissions are still to
come, its record stays, `gone` and `back`. -/
def endFab (f : FabReq) (s : State) : State :=
  let s := if f.counted then countPath f f.path false s else s
  let s := if !strays s f.id then s.setMem { s.mem with fabs := s.mem.fabs.filter (·.id != f.id) }
    else updFab f.id (fun f => { f with gone := true, back := true, counted := false }) s
  let s := s.setLink { s.link with sent := s.link.sent.filter (·.id != f.id) }
  retryPosts ((dropTag f.core f.tag s).unschedule (.fabricTimeout f.id) |>.unschedule (.retransmit f.id))

/-- A reply or acknowledgement that no request takes any more is dropped and counted (R397). The record of a request that
timed out stays until its tag is usable again. -/
def staleReply (f : FabReq) (s : State) : State :=
  let s := s.updOwner f.owner fun o => { o with stale := min 0xFFFF (o.stale + 1) }
  if f.back && !strays s f.id then s.setMem { s.mem with fabs := s.mem.fabs.filter (·.id != f.id) } else s

/-- A load's reply fills the caches with its line, unless the line was invalidated meanwhile (R192, R193, R197, R219). -/
def fillCaches (f : FabReq) (s : State) : State :=
  match f.fill with
  | none => s
  | some b =>
    if 512 ≤ f.core then s else
    let x : Line := ⟨f.line, b, 0, 0, false, f.typ⟩
    let s := l2Install f.owner f.core (dieOf f.core) (sliceOf s f.owner (dieOf f.core) f.line) x f.acc.nt s
    if f.acc.kind = .const then ccInstall f.core x s else if f.acc.nt then s else l1Install f.core x s

/-- A value that waited for a request's line takes its bytes, or its failure. -/
def EngVal.settle (f : FabReq) (bad : Option Nat) : EngVal → EngVal
  | .away id pa n va =>
    if id != f.id then .away id pa n va
    else match bad with
      | some c => .bad c (va % 2 ^ 56)
      | none => .val (leVal ((f.data.drop (pa - f.line)).take n))
  | v => v
def EngVal.there : EngVal → Bool
  | .away .. => false
  | _ => true
/-- Whether a value waits for a request. -/
def EngVal.awaits (id : Nat) : EngVal → Bool
  | .away f .. => f == id
  | _ => false
/-- Whether a wave waits in a CWAIT for the read of its counter (R383). -/
def Wave.reading (w : Wave) : Bool :=
  w.phase == 1 && (match w.status with
    | .waiting .cwait _ => true
    | _ => false)

/-- What waited for a request's line takes it, and goes on when nothing more is to come (R365, R369, R372, R381, R383, R255, R307, R288). -/
def settleJob (f : FabReq) (bad : Option Nat) (s : State) : State :=
  let t := EngVal.settle f bad
  let go := fun (s : State) => match purposeStep s f.job with
    | some i => s.scheduleOnce s.now i
    | none => s
  match f.job with
  | .mldb l => enginePart f.job (s.setEng { s.eng with mldbs := amend (·.id == l) (fun j => { j with vals := j.vals.map t }) s.eng.mldbs })
  | .mmaRow m r =>
    let row := fun (x : Mma) => { x with adata := amend (·.row == r) (fun a => { a with vals := a.vals.map t }) x.adata }
    -- a row that was asked for again after a save waits for other requests
    let due := s.eng.mmas.any fun x => x.id == m && x.adata.any fun a => a.row == r && a.vals.any (EngVal.awaits f.id)
    if due then enginePart f.job (s.setEng { s.eng with mmas := amend (·.id == m) row s.eng.mmas }) else s
  | .chunk c =>
    let s := s.setEng { s.eng with
      copies := amend (·.id == c) (fun x => { x with vals := x.vals.map (·.map t) }) s.eng.copies
      fetch := amend (·.id == c) (fun x => { x with vals := x.vals.map t }) s.eng.fetch }
    let due := (s.eng.copies.any fun x => x.id == c && x.vals.any (·.all EngVal.there)) ||
      s.eng.fetch.any fun x => x.id == c && x.asking && x.vals.all EngVal.there
    if due then go s else s
  | .tset j => go (s.setEng { s.eng with tsets := amend (·.id == j) (fun x => { x with got := t x.got }) s.eng.tsets })
  | .cwait w _ => go (s.updWave w fun x => if !x.reading then x else match t (.away f.id x.target 8 0) with
    | .val v => { x with target := v }
    | _ => { x with target := bad.getD 0, phase := 3 })
  | .release r =>
    let s := s.setGate { s.gate with rels := amend (·.id == r) (fun x => { x with vals := x.vals.map t }) s.gate.rels }
    (match s.gate.rels.find? fun x => x.id == r && x.vals.all EngVal.there with
     | some x => sendReq x.owner x.core [.rota .host .gate] f.job s
     | none => s)
  | .lnch l =>
    let s := s.setGate { s.gate with lnchs := amend (·.id == l) (fun x => { x with pkt := t x.pkt }) s.gate.lnchs }
    if bad.isSome then go s else sendReq f.owner f.core [.rota .host .lnchPort] f.job s
  | _ =>
    if s.hub.reads.any (·.fab == f.id) then
      go (s.setHub { s.hub with reads := amend (·.fab == f.id) (fun x => { x with bytes := f.data, bad }) s.hub.reads })
    else s

/-- What a completed request's reply brings to whom it is for; a poisoned completion from the host is a failure (R405). -/
def deliverFab (f : FabReq) (s : State) : State :=
  if f.acc.kind = .store || (f.src ≠ .wave && !f.reads) then
    match purposeStep s f.job with
    | some i => s.scheduleOnce s.now i
    | none => s
  else
    let (bad, s) := if f.typ = .host then askHost f.line s else (false, s)
    let s := if bad then dropLine .host f.line s else if f.reads then fillCaches f s else s
    if f.job ≠ .idle then settleJob f (if bad then some eccUncorr else none) s
    else returnPart f.w f.pend (if bad then
        failPend f.w f.pend ⟨eccUncorr, (f.acc.lanes.head?.map (·.va)).getD 0 % 2 ^ 56, f.acc.al, false, false⟩ s
      else s)

/-- A reply arrives: it completes its request, or waits for the round-trip bound, or is stale (R397, R401). -/
def replyFab (id : Nat) (s : State) : State :=
  match s.fab? id with
  | none => s
  | some f =>
    if f.gone then staleReply f s
    else match f.bound with
      | some false =>
        -- it is acknowledged: it is not sent again (R395)
        ((updFab id (fun f => { f with back := true }) s).setLink { s.link with sent := s.link.sent.filter (·.id != id) }).unschedule (.retransmit id)
      | b =>
        let s := if b = some true then s.updOwner f.owner fun o => { o with tlost := min 0x7FFF (o.tlost + 1) } else s
        deliverFab f (endFab f s)

/-- ROUND_TRIP_BOUND (R401). -/
def boundFab (id : Nat) (s : State) : State :=
  match s.fab? id with
  | none => s
  | some f =>
    if f.back then
      deliverFab f (endFab f s)
    else updFab id (fun f => { f with bound := some true }) s

/-- Whether a request stands at the sender, before its FAB slot. -/
def atSender (s : State) (id : Nat) : Bool :=
  s.rota.reqs.any fun r => r.purpose = .remote id && r.legs.any fun l => match l with
    | .rota .fab _ => true
    | _ => false

/-- A packet is sent: the 20 µs of its retransmission count from here (R395). -/
def stampSent (f : FabReq) (s : State) : State :=
  let s := touchDc f.key (s.setLink { s.link with sent := amend (·.id == f.id) (fun x => { x with flit := f.flit s, last := s.wall }) s.link.sent })
  (s.unschedule (.retransmit f.id)).schedule (wallDue s s.wall 20) (.retransmit f.id)

/-! ### Flits on a port (R386 to R388, R392) -/

/-- The header (R388), with its HECC. -/
def flitHeader (f : Flit) (len : Nat) : Nat :=
  let vc := match f.vc with
    | .req => 0
    | .fwd => 1
    | .rsp => 2
    | .claim => 3
  let put := fun (x w lo : Nat) => x % 2 ^ w * 2 ^ lo
  let h := put f.srcpkg 10 118 + put f.dstpkg 10 108 + put f.dom 3 105 + put f.tenant 4 101 + put f.ctx 10 91 + put vc 3 88 + put f.tc 2 86
    + put f.path 2 84 + put f.seq 24 60 + put f.tag 12 48 + put f.gen 4 44 + (Config.flitType f.type).toNat * 2 ^ 36 + put f.age 12 24
    + put len 8 16 + (if f.of then 2 ^ 15 else 0) + (if f.dep then 2 ^ 14 else 0)
  h + (Config.hecc (h / 2 ^ 14)).toNat
/-- The 256 bytes of a flit (R387). -/
def flitWire (f : Flit) : List Byte :=
  let p := (Config.payload f).take 224
  let b := leBytes 16 (flitHeader f p.length) ++ p ++ List.replicate (224 - p.length) 0
  b ++ leBytes 16 (Config.crc b).toNat

/-- Beats that a flit takes on n lanes (R387), and the lane and beat of byte j of a flit (R386). -/
def flitBeats (n : Nat) : Nat := (256 + n - 1) / n
def byteLane (lanes : List Nat) (j : Nat) : Nat × Nat := (lanes.getD (j % lanes.length) 0, j / lanes.length)
/-- Where each byte of a flit travels. -/
def flitLanes (lanes : List Nat) (f : Flit) : List (Nat × Nat × Byte) := (flitWire f).mapIdx fun j b => ((byteLane lanes j).1, (byteLane lanes j).2, b)

def updPort (p : Nat) (f : Port → Port) (s : State) : State := s.setLink { s.link with ports := s.link.ports.modify p f }

/-- A flit goes out on a port: it takes a credit of its channel, and stays in the replay buffer until the hop acknowledges it (R389, R392). -/
def Port.emit (f : Flit) (x : Port) : Port :=
  { x with
    replay := x.replay ++ [f], used := (f.vc, x.inUse f.vc + 1) :: x.used.filter (·.1 ≠ f.vc), wire := flitLanes x.lanes f }
def sendFlit (p : Nat) (f : Flit) (s : State) : State :=
  updPort p (Port.emit f) (s.setLink { s.link with out := f :: s.link.out })

/-- A flit of the hub itself leaves by a port, or waits there behind others of its channel for a credit or for the port (R390, R392). -/
def putFlit (p : Nat) (f : Flit) (s : State) : State :=
  if (s.link.ports[p]?).any fun x => x.st = .up && x.room f.vc && x.wait.all (·.vc ≠ f.vc) then sendFlit p f s
  else updPort p (fun x => { x with wait := x.wait ++ [f] }) s

/-- Flits that wait at a port go as far as its credits allow, each channel in its order. -/
def drainPort (p : Nat) (s : State) : State :=
  let l := ((s.link.ports[p]?).map (·.wait)).getD []
  l.foldl (fun s f => putFlit p f s) (updPort p (fun x => { x with wait := [] }) s)

/-- A request is admitted in a FAB slot: its flit goes out, and a TIMED owner's bound counts from there (R401). Its AGE counts from its first
injection (R388). -/
def fabAdmit (r : Req) (s : State) : State :=
  match r.purpose, r.legs with
  | .remote id, .rota .fab (.fabPort port) :: _ => match s.fab? id with
    | some f =>
      let f := { f with first := f.first <|> some s.wall }
      let s := updFab id (fun _ => f) s
      let s := stampSent f (sendFlit port (f.flit s) s)
      if s.timed f.owner && f.bound.isNone then
        (updFab id (fun f => { f with bound := some false }) s).schedule (s.now + 16 * pathBound s f.key.dstpkg f.path) (.roundTripBound id)
      else s
    | none => s
  | _, _ => s

/-! ### The home (R219, R222, R394, R402) -/

def seqMod : Nat := 2 ^ 24
/-- How far a SEQ lies above another, modulo 2^24 (R394). -/
def seqAhead (a b : Nat) : Nat := (a + seqMod - b % seqMod) % seqMod
/-- Whether a SEQ is lower than another of its context. -/
def seqBefore (a b : Nat) : Bool := a != b && decide (seqAhead b a < seqMod / 2)

/-- Whether a packet must wait at its home for lower ones of its delivery context. -/
def mustWait (s : State) (f : FabReq) : Bool :=
  (f.acc.of || f.dep) && s.mem.fabs.any fun g =>
    g.key = f.key && g.typ ≠ .host && decide (g.tag < maxTags) && seqBefore g.seq f.seq && !g.applied

/-- A line as a load finds it at its home: under its wave's own bytes that are not there yet (R221, R232). -/
def FabReq.found (f : FabReq) (s : State) : List Byte :=
  (homeBytes s.mem f.typ f.line).mapIdx fun k b =>
    let pa := f.line + k
    let sent := if f.src = .hub then fun (g : FabReq) => decide (g.src = .hub) else fun (g : FabReq) => decide (g.src = .wave) && decide (g.w = f.w)
    match f.own.find? (·.1 == pa) with
    | some e => e.2
    | none => (s.mem.fabs.reverse.findSome? fun g =>
        if sent g && g.id < f.id && g.typ = f.typ && g.acc.kind = .store && !g.applied && !g.gone then g.byteAt pa else none).getD b

/-- A line tagged by a DET kernel is written by an atomic that is not deterministic (R234). -/
def markMixed (t : MemType) (line : Nat) (s : State) : State :=
  overList (fun (e : MemType × Nat × Nat) s => if e.1 = t && e.2.1 == line then s.updKernel e.2.2 fun k => { k with mixed := true } else s)
    s.mem.dtags s

/-- The copies that an applied store leaves in the caches of its way hold what the home holds. -/
def settleCopies (f : FabReq) (s : State) : State :=
  let now := fun (y : Line) => { y with bytes := homeBytes s.mem f.typ f.line }
  let s := l1Update f.core f.typ f.line now s
  s.setMem { s.mem with l2 := amend (fun y => y.line.pa == f.line && y.line.typ = f.typ) (fun y => { y with line := now y.line }) s.mem.l2 }

/-- The home performs a packet: a store's bytes, an atomic (of 8 bytes: a counter's increment, R376), or a load's value. -/
def homePerform (f : FabReq) (s : State) : State :=
  match f.acc.kind with
  | .store => settleCopies f (dropOthers f.core f.owner f.typ f.line (f.stored.foldl (fun s e => putBytes f.typ e.1 [e.2] s) s))
  | .atomic =>
    let pa := f.pas.headD 0
    -- the hub's atomics of a DET kernel's log are deterministic (R233); its counter adds are not
    let s := if f.src = .hub && f.acc.n ≠ 8 then s else markMixed f.typ f.line s
    if f.acc.n = 8 then dropLine f.typ f.line (putBytes f.typ pa (leBytes 8 (cellVal s.mem.remote pa 8 + 1)) s)
    else
      let (new, res) := f.acc.op.at (nat32 (cellVal s.mem.remote pa 4)) f.acc.lanes
      let s := dropLine f.typ f.line (putBytes f.typ pa (leBytes 4 new.toNat) s)
      updPend f.w f.pend (fun p => res.foldl (fun p r => p.fill r.1 r.2.toNat) p) s
  | _ =>
    let b := f.found s
    let s := updFab f.id (fun f => { f with fill := some (homeBytes s.mem f.typ f.line), data := b }) s
    if f.job ≠ .idle then s
    else updPend f.w f.pend (fun p => (f.acc.lanes.zip f.pas).foldl (fun p e => p.fill e.1.lane (leVal ((b.drop (e.2 - f.line)).take f.acc.n))) p) s

/-- HOME_STORE_APPLY: a packet is performed at its home once, when its order allows it; those that waited for it follow. A
duplicate is acknowledged again and not applied (R394). -/
def homeApply (id : Nat) (s : State) : State :=
  match s.fab? id with
  | none => s
  | some f =>
    let reply := fun (s : State) => sendReq f.owner f.core (replyLegs s f) (if f.acc.kind = .store then .ackBack id else .reply f.w id) s
    if f.applied then reply s
    else if mustWait s f then updFab id (fun f => { f with atHome := true }) s
    else
      let s := homePerform f (updFab id (fun f => { f with atHome := true, applied := true }) s)
      let s := reply s
      overList (fun g s => if g.atHome && !g.applied && g.key = f.key && g.id != id then s.scheduleOnce s.now (.homeStoreApply g.id) else s) s.mem.fabs s

/-! ### Timeouts (R398) -/

/-- The failure of a request that timed out. -/
def timeoutFail (f : FabReq) : Fail :=
  { cause := fabTimeout, addr := (f.acc.lanes.head?.map (·.va)).getD 0 % 2 ^ 56, absorb := f.acc.al
    replay := f.acc.kind ≠ .atomic, unknown := f.acc.kind = .atomic }

/-- FABRIC_TIMEOUT: the request completes with a failure; its tag, a generation later, stays held. The failure of a store, or of
what a DET group merged, is reported at its wave's park. A store that its home has not applied leaves no copies behind (R219). -/
def timeOut (id : Nat) (s : State) : State :=
  match s.fab? id with
  | none => s
  | some f =>
    let s := if f.counted then countPath f f.path false s else s
    let s := updFab id (fun f => { f with gone := true, counted := false }) s
    let s := s.setLink { s.link with sent := s.link.sent.filter (·.id != id) }
    let s := s.unschedule (.retransmit id)
    let s := s.updCore f.core fun c => { c with
      gens := enter f.tag ((f.gen + 1) % 16) c.gens, tags := amend (·.tag == f.tag) (fun t => { t with req := none, till := f.issued + 65536 * usTicks }) c.tags }
    let s := s.schedule (wallDue s f.issued 65536) (.tagHoldExpire f.core f.tag)
    let s := if f.acc.kind = .store && f.typ.remote && !f.applied then dropLine f.typ f.line s else s
    let s := retryPosts s
    if f.job ≠ .idle && f.reads then settleJob f (some fabTimeout) s
    else match f.src with
    | .engine _ _ | .hub => s
    | _ =>
      if f.acc.kind = .store then
        let p : Pend := { Pend.blank "ST" with id, pc := f.pc, entry := false, left := 0, fail := some (timeoutFail f), job := .acc f.acc }
        s.updWave f.w fun w => { w with pend := insertPend p w.pend }
      else returnPart f.w f.pend (failPend f.w f.pend (timeoutFail f) s)

/-- TAG_HOLD_EXPIRE. -/
def tagHoldEnd (core tag : Nat) (s : State) : State :=
  let s := s.setMem { s.mem with fabs := s.mem.fabs.filter fun f => !(f.gone && f.core == core && f.tag == tag) }
  retryPosts (dropTag core tag s)

/-! ### Retransmission (R395) -/

/-- The hub sends an unacknowledged packet again; one that has not left it yet is not sent twice. -/
def retransmitFab (id : Nat) (s : State) : State :=
  match s.fab? id with
  | none => s
  | some f =>
    if atSender s id then s.schedule (wallDue s s.wall 20) (.retransmit id) else
    let valid := (List.range 4).find? fun p => (pathPort s f.key.dstpkg p).isSome
    match (if (pathPort s f.key.dstpkg f.path).isSome then some f.path else valid) with
    | none => s.schedule (wallDue s s.wall 20) (.retransmit id)
    | some path =>
      let s := if f.counted && path ≠ f.path then countPath f path true (countPath f f.path false s) else s
      let s := updFab id (fun f => { f with path := path }) s
      let f := { f with path := path }
      sendReq f.owner f.core (sendLegs s f) (.remote id) (stampSent f s)

end Sys2Proof.Machine
end

