-- ==== Sys2Proof/Machine/Access.lean ====
section
/-! DEFINITION. A wave's accesses to global and constant memory: checks in issue order, performing, requests and returns,
the deterministic buffers (spec/09_memory.md R199 to R206, R426; spec/11_consistency.md R227 to R234; spec/12_page.md
R242, R251). LOCAL, HOST and device accesses are performed when they issue (LOG 7). -/

namespace Sys2Proof.Machine

/-- Who makes an access. -/
structure Who where
  ref    : WaveRef
  core   : Nat
  owner  : Nat
  ctx    : Nat
  kernel : Nat
  det    : Bool

/-- Whose lease clock an access takes. -/
def Who.clock (x : Who) : Nat := if 512 ≤ x.core then hubClock x.owner else x.core

def Group.who (g : Group) (r : WaveRef) (core : Nat) : Who := ⟨r, core, g.owner, g.ctx, g.kernel, g.det⟩
def Cur.who (c : Cur) : Who := c.g.who c.ref c.core

/-! ### Checks (R201, R242, R251) -/

/-- A lane that passed: its translation, physical address, and the walk that it waits for. -/
structure LaneOk where
  l    : LaneAcc
  t    : Tlb
  pa   : Nat
  walk : Option Nat

structure Checks where
  ok   : List LaneOk
  bad  : Option Fail
  wait : Option Nat       -- the walk of the failing lane

/-- Whether the label checks apply (R251). -/
def AccKind.writes : AccKind → Bool
  | .store => true
  | .atomic => true
  | _ => false

/-- Check the lanes in order up to the first that fails; lanes of one page make one lookup (R244). -/
def checkLanes (x : Who) (a : Acc) : List LaneAcc → List (Nat × Xlat) → State → Checks × State
  | [], _, s => (⟨[], none, none⟩, s)
  | l :: ls, seen, s =>
    let page := l.va / 4096
    let (q, seen, s) := match seen.find? (·.1 == page) with
      | some e => (e.2, seen, s)
      | none =>
        let (q, s) := translate x.core x.owner x.ctx l.va a.kind s
        (q, (page, q) :: seen, s)
    match q.res with
    | .error cause => (⟨[], some ⟨cause, l.va % 2 ^ 56, a.al, cause == pageFault, false⟩, q.walk⟩, s)
    | .ok t =>
      match (if a.kind.writes then labelCheck t.typ a.dl t.lab else none) with
      | some cause => (⟨[], some ⟨cause, l.va % 2 ^ 56, a.dl ||| a.al, false, false⟩, q.walk⟩, s)
      | none =>
        let (r, s) := checkLanes x a ls seen s
        (⟨⟨l, t, t.pa + (l.va - t.va), q.walk⟩ :: r.ok, r.bad, r.wait⟩, s)

/-! ### Lines touched (R202) -/

/-- Insert a number into a rising list. -/
def insertNat (n : Nat) : List Nat → List Nat
  | [] => [n]
  | m :: l => if n < m then n :: m :: l else if n = m then m :: l else m :: insertNat n l

/-- A line that an access touches: by which lanes, at which addresses; a device register is touched lane by lane. -/
structure Touch where
  typ  : MemType
  line : Nat
  dst  : Nat
  walk : Option Nat
  lanes : List (LaneAcc × Nat)

/-- The lines of one store off the package are posted in ascending order of their addresses (R406), in the places that these lines have
among the others (R202, R426). -/
def postOrder (ts : List Touch) : List Touch :=
  let far := (ts.filter (·.typ.remote)).map fun t => (t.line, t)
  let rec put : List Touch → List Nat → List Touch
    | [], _ => []
    | t :: l, ns => if !t.typ.remote then t :: put l ns
      else match ns with
        | [] => t :: put l []
        | n :: ns => ((far.find? (·.1 == n)).map (·.2)).getD t :: put l ns
  put ts ((far.map (·.1)).foldr insertNat [])

def touches (l : List LaneOk) : List Touch :=
  l.foldl (fun ts k =>
    let line := lineOf k.pa
    if k.t.typ ≠ .mmio && ts.any (fun t => t.typ = k.t.typ && t.line == line) then
      amend (fun t : Touch => t.typ = k.t.typ && t.line == line) (fun t => { t with lanes := t.lanes ++ [(k.l, k.pa)] }) ts
    else ts ++ [⟨k.t.typ, line, k.t.peer, k.walk, [(k.l, k.pa)]⟩]) []

/-! ### Requests off the package (R397) -/

/-- Traffic class of a request (R388). -/
def FabSrc.tc : FabSrc → Nat
  | .wave | .group => 0
  | .engine _ _ => 1
  | .hub => 2

/-- A request for some bytes of one line, which has not taken its tag and its place yet. -/
def newFab (src : FabSrc) (x : Who) (a : Acc) (pc pend : Nat) (t : MemType) (line dst : Nat) (pas : List Nat) (s : State) : Nat × State :=
  let (id, s) := s.fresh
  let f : FabReq :=
    { id, src, w := x.ref, pc, pend, core := x.core, owner := x.owner, ctx := x.ctx, kernel := x.kernel, typ := t, acc := a, pas, line, path := 4
      key := ⟨s.link.pkgId, dst, x.owner, src.tc⟩, seq := 0, dep := false, started := false, atHome := false, applied := false, counted := false
      issued := s.wall, tag := maxTags, gen := 0, gone := false, bound := none, back := false, fill := none, data := [], job := .idle
      held := false, behind := none, own := [], first := none }
  (id, s.setMem { s.mem with fabs := s.mem.fabs.filter (·.id != id) ++ [f] })

/-! ### Deterministic stores (R232) -/

def detLine (d : DetByte) : MemType × Nat := (d.typ, lineOf d.pa)
def detLines (l : List DetByte) : List (MemType × Nat) := (l.map detLine).eraseDups

/-- One line's bytes of a store that no store instruction sends: performed at once on LOCAL and HOST memory (LOG 7), posted to a home off
the package (R220), for a step of the hub or for nobody; `pc` and `va` are those of the instruction behind it and of the first byte. -/
def postLine (src : FabSrc) (x : Who) (t : MemType) (line pc va : Nat) (nt : Bool) (job : Purpose) (bytes : List (Nat × Byte)) (s : State) : State :=
  let first := (bytes.head?.map (·.1)).getD 0
  let put := fun (s : State) => bytes.foldl (fun s e => putBytes t e.1 [e.2] s) s
  match t with
  | .loc => refreshCopies x.core x.owner .loc line nt (put (storeStamp x.clock x.owner line s).2)
  | .mmio => bytes.foldl (fun s e => s.setMem { s.mem with mmio := (e.1, 1, e.2.toNat) :: s.mem.mmio }) s
  | t =>
    let s := if t = .host then refreshCopies x.core x.owner .host line nt (dropOthers x.core x.owner .host line (put s))
      else patchCopies x.core x.owner t line bytes nt s
    let lanes : List LaneAcc := bytes.map fun e => ⟨0, va + e.1 - first, e.2.toNat, 0⟩
    let a : Acc := ⟨.store, 1, lanes, .cas, false, [], 0, 0, false, nt, .wave⟩
    let (id, s) := newFab src x a pc 0 t line (pkgOf line) (bytes.map (·.1)) s
    postFab id (updFab id (fun f => { f with job }) s)

/-- Merge a group's buffered bytes into memory: lines in ascending address, each byte of the highest logical thread. A LOCAL line is
written through like a store's; a line of which every byte is of an NT store is one of an NT store (R203). -/
def detMerge (gid : Nat) (s : State) : State :=
  match s.held? gid with
  | none => s
  | some g =>
    let core := match g.place with
      | some p => p.core
      | none => 512
    let wins := fun (d : DetByte) => g.detBuf.all fun e => !(e.typ = d.typ && e.pa == d.pa) || decide (e.glane ≤ d.glane)
    let out := g.detBuf.filter wins
    let lines := (out.map fun d => lineOf d.pa).foldr insertNat []
    let s := lines.foldl (fun s line =>
      [MemType.loc, .peer, .pod, .host].foldl (fun s t =>
        match out.filter fun d => d.typ = t && lineOf d.pa == line with
        | [] => s
        | d :: ds =>
          let top := ds.foldl (fun a b => if a.glane < b.glane then b else a) d
          let x : Who := ⟨⟨gid, top.glane / 64⟩, core, g.owner, g.ctx, g.kernel, false⟩
          let miss := mscMisses g.owner [line] s
          let s := postLine .group x t line top.pc d.va ((d :: ds).all (·.nt)) .idle ((d :: ds).map fun d => (d.pa, d.b)) s
          if t ≠ .loc then s
          else
            let (id, s) := s.fresh
            (s.setMem { s.mem with stores := s.mem.stores ++ [⟨id, x.ref, g.owner, g.kernel, core, .loc, [line].zip miss, 1, false, (d :: ds).all (·.nt), true⟩] }).schedule
              s.now (.storeWriteThrough id)) s) s
    s.updHeld gid fun g => { g with detBuf := [] }

/-- Buffer the bytes of one lane's store; a 257th line merges the buffer first and sets SOVF. -/
def detStore (x : Who) (pc : Nat) (nt : Bool) (k : LaneOk) (n : Nat) (s : State) : State :=
  match s.group? x.ref.gid with
  | none => s
  | some g =>
    let lines := detLines g.detBuf
    let full := !lines.contains (k.t.typ, lineOf k.pa) && decide (lines.length ≥ 256)
    let s := if full then (detMerge x.ref.gid s).updGroup x.ref.gid fun g => { g with sovf := true } else s
    let glane := 64 * x.ref.wave + k.l.lane
    let add := fun (l : List DetByte) => (leBytes n k.l.data).zipIdx.foldl (fun l e =>
      let pa := k.pa + e.2
      ⟨k.t.typ, pa, e.1, glane, k.l.va + e.2, pc, nt⟩ :: l.filter fun d => !(d.typ = k.t.typ && d.pa == pa && d.glane == glane)) l
    s.updGroup x.ref.gid fun g => { g with detBuf := add g.detBuf }

/-! ### Deterministic atomics (R233, R234) -/

def AOp.det : AOp → Bool
  | .arith _ => true
  | .bits .exch => false
  | .bits _ => true
  | .cas => false

/-- The order in which the hub applies a kernel's log: group, wave, lane, program order. -/
def detBefore (a b : DetAtom) : Bool :=
  decide (a.group < b.group) || (a.group == b.group && (decide (a.wave < b.wave) || (a.wave == b.wave &&
    (decide (a.lane < b.lane) || (a.lane == b.lane && decide (a.seq < b.seq))))))
def detInsert (x : DetAtom) : List DetAtom → List DetAtom
  | [] => [x]
  | y :: l => if detBefore x y then x :: y :: l else y :: detInsert x l

/-- One 32-bit value where it is authoritative. -/
def wordAt (m : Mem) (t : MemType) (pa : Nat) : Word :=
  match t with
  | .loc => nat32 (cellVal m.cells pa 4)
  | .host => nat32 (cellVal m.host pa 4)
  | _ => nat32 (cellVal m.remote pa 4)

/-- An atomic that the hub or an engine posts to a home off the package, or whose write the bridge still owes to the host (R224). -/
def postAtom (src : FabSrc) (x : Who) (a : Acc) (t : MemType) (pa : Nat) (behind : Option Nat) (job : Purpose) (s : State) : Nat × State :=
  let (id, s) := newFab src x a 0 0 t (lineOf pa) (pkgOf pa) [pa] s
  (id, postFab id (updFab id (fun f => { f with behind, job }) s))

/-- The hub performs one entry of a kernel's log: at once on LOCAL and HOST memory, posted to a home off the package once the entry before it
has been applied there, so that the entries are applied in their order (R233); and the request that the next entry waits for. -/
def applyAtom (owner ctx kernel : Nat) (a : DetAtom) (prev : Option Nat) (s : State) : Option Nat × State :=
  let line := lineOf a.pa
  let new := fun (s : State) => leBytes 4 (a.op.apply (wordAt s.mem a.typ a.pa) (nat32 a.x) 0).toNat
  let acc : Acc := ⟨.atomic, 4, [⟨0, a.pa % 2 ^ 52, a.x, 0⟩], a.op, false, [], 0, 0, false, false, .pod⟩
  let x : Who := ⟨⟨a.gid, a.wave⟩, 512, owner, ctx, kernel, false⟩
  match a.typ with
  | .loc =>
    let (hit, s) := storeStamp (hubClock owner) owner line s
    (prev, sendReq owner 512 (hubHome a.pa (!hit)) .idle (putBytes .loc a.pa (new s) s))
  | .host => (prev, (postAtom .hub x acc .host a.pa none .idle (dropLine .host line (putBytes .host a.pa (new s) s))).2)
  | .mmio =>
    let old : Word := (Config.mmio s.mem.reads a.pa).setWidth 32
    (prev, s.setMem { s.mem with reads := s.mem.reads + 1, mmio := (a.pa, 4, (a.op.apply old (nat32 a.x) 0).toNat) :: s.mem.mmio })
  | t =>
    let (id, s) := postAtom .hub x acc t a.pa prev .idle s
    (some id, s)

/-- Apply a kernel's log in sorted order. A line stays tagged while an atomic of the kernel on it is still buffered, or is on its way to
the line's home (R234). -/
def applyLog (kernel : Nat) (log : List DetAtom) (s : State) : State :=
  let k := s.kernel? kernel
  let r := (log.foldr detInsert []).foldl (fun (r : Option Nat × State) a =>
    applyAtom ((k.map (·.owner)).getD 0) ((k.map (·.ctx)).getD 0) kernel a r.1 r.2) (none, s)
  let s := r.2
  let mine := fun (gid : Nat) => (s.held? gid).any (·.kernel == kernel)
  let on := fun (e : MemType × Nat × Nat) (a : DetAtom) => a.typ = e.1 && lineOf a.pa == e.2.1 && mine a.gid
  let waits := fun (e : MemType × Nat × Nat) =>
    s.cores.any (fun c => c.2.detBuf.any (on e)) || (s.groups ++ s.eng.ghosts).any (fun g => g.detAtoms.any (on e)) ||
      s.mem.fabs.any fun f => f.src = .hub && f.kernel == kernel && f.acc.n == 4 && f.typ = e.1 && f.line == e.2.1 && !f.applied && !f.gone
  s.setMem { s.mem with dtags := s.mem.dtags.filter fun e => e.2.2 != kernel || waits e }

def detLogSize : Nat := 1048576

/-- One entry goes to its owner's log; a log that it fills is applied at once, every kernel's part in sorted order, and goes on empty (R233). -/
def logAtom (a : DetAtom) (s : State) : State :=
  match s.held? a.gid with
  | none => s
  | some g =>
    let s := s.updKernel g.kernel fun k => { k with detLog := k.detLog ++ [a] }
    let mine := s.hub.kernels.filter (·.owner == g.owner)
    if (mine.map (·.detLog.length)).sum < detLogSize then s
    else overList (fun (k : Kernel) s =>
      if k.detLog.isEmpty then s else (applyLog k.id k.detLog s).updKernel k.id fun k => { k with detLog := [], mixed := true }) mine s

/-- Entries of a core's buffer go to the owner's log (R233). -/
def detFlushBy (core : Nat) (p : DetAtom → Bool) (s : State) : State :=
  let out := (s.core core).detBuf.filter p
  out.foldl (fun s a => logAtom a s) (s.updCore core fun c => { c with detBuf := c.detBuf.filter (!p ·) })

/-- What a group that ended at once had buffered is merged and logged; once nothing of it goes on any more, it is forgotten (R268). -/
def layGhosts (s : State) : State :=
  let s := overList (fun (g : Group) s => if g.detBuf.isEmpty then s else detMerge g.gid s) s.eng.ghosts s
  let s := overList (fun (g : Group) s => g.detAtoms.foldl (fun s a => logAtom a s) s) s.eng.ghosts s
  let rest := (s.eng.ghosts.map fun g => { g with detAtoms := [] }).filter (goesOn s)
  if s.eng.ghosts.isEmpty then s else s.setEng { s.eng with ghosts := rest }

/-- A group's entries go to the owner's log: those of its core's buffer, and those that were saved with it (R233, R278). -/
def detFlush (gid : Nat) (s : State) : State :=
  match s.group? gid with
  | none => s
  | some g =>
    let s := match g.place with
      | none => s
      | some p => detFlushBy p.core (·.gid == gid) s
    g.detAtoms.foldl (fun s a => logAtom a s) (s.updGroup gid fun g => { g with detAtoms := [] })

/-- Put an entry into a core's buffer of 512. One without a free entry is flushed of the group's entries first, or where it holds none of
them, of all (LOG 36). -/
def detPut (core : Nat) (a : DetAtom) (s : State) : State :=
  let buf := (s.core core).detBuf
  let s := if buf.length < 512 then s
    else detFlushBy core (fun b => b.gid == a.gid || buf.all (·.gid != a.gid)) s
  s.updCore core fun c => { c with detBuf := c.detBuf ++ [a] }

/-- One deterministic atomic is buffered, and its line tagged. -/
def detAtom (x : Who) (k : LaneOk) (op : AOp) (v : Word) (s : State) : State :=
  let lin := ((s.group? x.ref.gid).map (·.lin)).getD 0
  let (seq, s) := s.fresh
  let s := detPut x.core ⟨x.ref.gid, lin, x.ref.wave, k.l.lane, seq, k.t.typ, k.l.va, k.pa, op, v.toNat⟩ s
  let t := (k.t.typ, lineOf k.pa, x.kernel)
  if s.mem.dtags.contains t then s else s.setMem { s.mem with dtags := t :: s.mem.dtags }

/-! ### What a wave sees of its own stores (R206, R232) -/

/-- Whether copies of a line may serve some bytes of a PEER or POD line to a wave: nothing that its wave sent to these bytes, and no
store to them, is on its way to their home (R219, R221, LOG 36). -/
def copyFree (x : Who) (t : MemType) (line : Nat) (bytes : List (Nat × Nat)) (s : State) : Bool :=
  !t.remote || s.mem.fabs.all fun f =>
    f.typ ≠ t || f.line != line || f.applied || f.gone || (f.acc.kind ≠ .store && f.w ≠ x.ref) || !overlaps f.spans bytes

/-- A byte of memory as a wave's load sees it, given what memory or a copy holds. -/
def ownByte (x : Who) (s : State) (t : MemType) (pa : Nat) (b : Byte) : Byte :=
  let buf := if x.det then (s.group? x.ref.gid).bind fun g => g.detBuf.find? fun d => d.typ = t && d.pa == pa && d.glane / 64 == x.ref.wave
    else none
  match buf with
  | some d => d.b
  | none =>
    if t.remote then
      (s.mem.fabs.reverse.findSome? fun f =>
        if f.w = x.ref && f.src = .wave && f.typ = t && f.acc.kind = .store && !f.applied then f.byteAt pa else none).getD b
    else b

def laneVal (x : Who) (s : State) (own : Bool) (ln : Line) (n pa : Nat) : Nat :=
  leVal ((List.range n).map fun k =>
    let b := ln.bytes.getD (pa + k - ln.pa) 0
    if own then ownByte x s ln.typ (pa + k) b else b)

/-! ### Parts of an entry -/

/-- One more part of an entry is outstanding: it returns after some legs, which a walk may hold back. -/
def addPart (x : Who) (id : Nat) (legs : List Leg) (walk : Option Nat) (s : State) : State :=
  let s := updPend x.ref id (fun p => { p with left := p.left + 1 }) s
  match legs, walk with
  | [.hold n], none => s.schedule (s.now + n) (.resultReturn x.ref id)
  | _, none => sendReq x.owner x.core legs (.entryPart x.ref id) s
  | _, some k =>
    let (q, s) := newReq x.owner x.core legs (.entryPart x.ref id) s
    awaitWalk k q s

/-- What a wave of a DET launch has buffered of a line (R232), latest first. -/
def detOwn (x : Who) (t : MemType) (line : Nat) (s : State) : List (Nat × Byte) :=
  if !x.det then []
  else (((s.group? x.ref.gid).map (·.detBuf)).getD []).filterMap fun d =>
    if d.typ = t && lineOf d.pa == line && d.glane / 64 == x.ref.wave then some (d.pa, d.b) else none

/-- A wave's request that leaves the package (R397): its tag and, for PEER and POD, its place in the delivery context; one that a replay
sends again may find none free, and waits for them. -/
def addFab (x : Who) (a : Acc) (pc pend : Nat) (t : Touch) (s : State) : Nat × State :=
  let (id, s) := newFab .wave x { a with lanes := t.lanes.map (·.1) } pc pend t.typ t.line t.dst (t.lanes.map (·.2)) s
  let s := updFab id (fun f => { f with held := true, own := if a.kind.writes then [] else detOwn x t.typ t.line s }) s
  (id, if fabricReady s x.core x.owner 0 1 (if t.typ.remote then [t.dst] else []) then claimFab id s else s)

/-! ### Loads -/

/-- The way of an access to a device register and back: through the owner's slice and the die's edge to the hub (R17), and the host's
time to answer (LOG 33: the spec gives it no legs and no time). -/
def mmioWay (x : Who) (line : Nat) (s : State) : List Leg :=
  let die := dieOf x.core
  let sl := sliceOf s x.owner die line
  toSlice x.core sl ++ atSlice :: toEdge die (sliceSite sl) ++ [hubLink die, .hold Config.hostTravel, .turn, hubLink die]
    ++ fromEdge die (sliceSite sl) ++ atSlice :: fromSlice x.core sl

/-- A load's lanes take what they read. -/
def fillLanes (x : Who) (a : Acc) (id : Nat) (ln : Line) (l : List (LaneAcc × Nat)) (s : State) : State :=
  l.foldl (fun s e => updPend x.ref id (·.fill e.1.lane (laneVal x s (a.kind = .load) ln a.n e.2)) s) s

/-- The m-th line of a load is looked up (R202): the line, for lanes that come later. -/
def loadTouch (x : Who) (a : Acc) (pc id m : Nat) (t : Touch) (s : State) : Option Line × State :=
  let lead := if m = 0 then [] else [Leg.hold m]
  match t.typ with
  | .mmio =>
    let s := t.lanes.foldl (fun s e =>
      let v := (Config.mmio s.mem.reads e.2).toNat % 2 ^ (8 * a.n)
      (updPend x.ref id (·.fill e.1.lane v) s).setMem { s.mem with reads := s.mem.reads + 1 }) s
    (none, addPart x id (lead ++ mmioWay x t.line s) t.walk s)
  | _ =>
    let free := copyFree x t.typ t.line (t.lanes.map fun e => (e.2, a.n)) s
    let (ln, served, s) := if a.kind = .const then constLine x.core x.owner t.typ t.line s
      else loadLine x.core x.owner t.typ t.line a.nt free s
    match served with
    | .l1 => (some ln, addPart x id [.hold ((if a.kind = .const then 20 else 24) + m)] t.walk (fillLanes x a id ln t.lanes s))
    | .way l => (some ln, addPart x id (lead ++ l) t.walk (fillLanes x a id ln t.lanes s))
    | .off =>
      let s := if t.typ.remote then s else fillLanes x a id ln t.lanes s
      let s := updPend x.ref id (fun p => { p with left := p.left + 1 }) s
      let (f, s) := addFab x a pc id t s
      (none, goFab f m t.walk s)

/-- A load's lanes in ascending order (R202): a line off the package, and one read through the constant cache, is looked up once for all
its lanes; each lane of a LOCAL line takes its own place in the order (R206, R210), and finds the line as looked up while its lease
holds. `m` lines were looked up, `seen` are the LOCAL ones, `done` the others. -/
def loadLanes (x : Who) (a : Acc) (pc id : Nat) (ts : List Touch) :
    List LaneOk → Nat → List Line → List (MemType × Nat) → State → State
  | [], _, _, _, s => s
  | k :: ks, m, seen, done, s =>
    let line := lineOf k.pa
    let typ := k.t.typ
    let one : Touch := ⟨typ, line, k.t.peer, k.walk, [(k.l, k.pa)]⟩
    if typ = .loc && a.kind = .load then
      match seen.find? fun y => y.pa == line && decide ((s.core x.core).lclk ≤ y.rts) with
      | some y => loadLanes x a pc id ts ks m seen done (fillLanes x a id y one.lanes s)
      | none =>
        let (y, s) := loadTouch x a pc id m one s
        loadLanes x a pc id ts ks (m + 1) (y.toList ++ seen.filter (·.pa != line)) done s
    else if typ = .mmio then loadLanes x a pc id ts ks (m + 1) seen done (loadTouch x a pc id m one s).2
    else if done.contains (typ, line) then loadLanes x a pc id ts ks m seen done s
    else
      let t := (ts.find? fun t => t.typ = typ && t.line == line).getD one
      loadLanes x a pc id ts ks (m + 1) seen ((typ, line) :: done) (loadTouch x a pc id m t s).2

/-! ### Stores -/

/-- One lane of a store is performed, where that happens at issue. -/
def storeLane (x : Who) (n : Nat) (k : LaneOk) (s : State) : State :=
  match k.t.typ with
  | .loc => putBytes .loc k.pa (leBytes n k.l.data) (storeStamp x.core x.owner (lineOf k.pa) s).2
  | .host => putBytes .host k.pa (leBytes n k.l.data) (dropOthers x.core x.owner .host (lineOf k.pa) s)
  | .mmio => s.setMem { s.mem with mmio := (k.pa, n, k.l.data % 2 ^ (8 * n)) :: s.mem.mmio }
  | _ => s

/-- A store leaves the core 8 cycles after issue, once it is translated (R426). -/
def leaveCore (x : Who) (id : Nat) (walk : Option Nat) (s : State) : State :=
  match walk with
  | none => s.schedule (s.now + 8) (.storeWriteThrough id)
  | some k =>
    let (q, s) := newReq x.owner x.core [.hold 8] (.wtStart id) s
    awaitWalk k q s

/-- The LOCAL lines of a store, and which of them its requests miss in the MSC. -/
def storeLines (x : Who) (ts : List Touch) (s : State) : List (Nat × Bool) :=
  let lines := (ts.filter (·.typ = .loc)).map (·.line)
  lines.zip (mscMisses x.owner lines s)

/-- The store's way out, line by line in order: a record for a LOCAL line or a device register, a request for a line off the package. -/
def storeOut (x : Who) (a : Acc) (pc : Nat) (ts : List Touch) (lines : List (Nat × Bool)) (s : State) : State :=
  (postOrder ts).foldl (fun s t =>
    if t.typ = .loc || t.typ = .mmio then
      let (id, s) := s.fresh
      let miss := t.typ = .loc && lines.contains (t.line, true)
      let st : Store := ⟨id, x.ref, x.owner, x.kernel, x.core, t.typ, [(t.line, miss)], 1, false, a.nt && decide (t.typ = .loc), false⟩
      leaveCore x id t.walk (s.setMem { s.mem with stores := s.mem.stores ++ [st] })
    else
      let (id, s) := addFab x a pc 0 t s
      leaveCore x id t.walk s) s

/-- STORE_WRITE_THROUGH (R192, R426). -/
def writeThrough (id : Nat) (s : State) : State :=
  match s.mem.stores.find? (·.id == id) with
  | some st =>
    let s := s.setMem { s.mem with stores := amend (·.id == id) (fun x => { x with started := true }) s.mem.stores }
    st.lines.foldl (fun s e =>
      let sl := sliceOf s st.owner (dieOf st.core) e.1
      match st.typ with
      | .loc =>
        sendReq st.owner st.core (toSlice st.core sl ++ homeWay st.core sl e.1 e.2 ++ fromSlice st.core sl) (.wt id)
          (refreshCopies st.core st.owner .loc e.1 st.nt s)
      | _ => sendReq st.owner st.core (mmioWay ⟨st.w, st.core, st.owner, 0, 0, false⟩ e.1 s) (.wt id) s) s
  | none => match s.fab? id with
    | some f => goFab id 0 none (if f.reads then s else if f.typ.remote then patchCopies f.core f.owner f.typ f.line f.stored f.acc.nt s
        else refreshCopies f.core f.owner f.typ f.line f.acc.nt s)
    | none => s

/-- WRITE_THROUGH_ACK (R426); of a HOST store, its acknowledgement (R223). -/
def writeThroughDone (id : Nat) (s : State) : State :=
  match s.mem.stores.find? (·.id == id) with
  | some st =>
    if st.left ≤ 1 then s.setMem { s.mem with stores := s.mem.stores.filter (·.id != id) }
    else s.setMem { s.mem with stores := amend (·.id == id) (fun x => { x with left := x.left - 1 }) s.mem.stores }
  | none => replyFab id s

/-! ### Atomics (R228, R230) -/

/-- Lanes with equal addresses, in order of their lowest lane, when the instruction combines them. -/
def atomGroups (agg : Bool) (l : List LaneOk) : List (List LaneOk) :=
  if agg then l.foldl (fun gs k =>
    if gs.any (fun g => g.any (·.l.va == k.l.va)) then
      gs.map fun g => if g.any (·.l.va == k.l.va) then g ++ [k] else g
    else gs ++ [[k]]) []
  else l.map fun k => [k]

/-- One atomic, of the lanes of one address. -/
def atomGroup (x : Who) (a : Acc) (pc id : Nat) (g : List LaneOk) (s : State) : State :=
  match g with
  | [] => s
  | k :: _ =>
    let ls := g.map (·.l)
    let give := fun (r : List (Nat × Word)) (s : State) => updPend x.ref id (fun p => r.foldl (fun p e => p.fill e.1 e.2.toNat) p) s
    let sl := sliceOf s x.owner (dieOf x.core) k.pa
    let line := lineOf k.pa
    match k.t.typ with
    | .loc =>
      let (hit, s) := storeStamp x.core x.owner line s
      let (new, r) := a.op.at (wordAt s.mem .loc k.pa) ls
      let s := give r (putBytes .loc k.pa (leBytes 4 new.toNat) (markMixed .loc line s))
      addPart x id (toSlice x.core sl ++ homeWay x.core sl k.pa (!hit) ++ fromSlice x.core sl) k.walk s
    | .mmio =>
      let old := (Config.mmio s.mem.reads k.pa).setWidth 32
      let (new, r) := a.op.at old ls
      let s := give r (s.setMem { s.mem with reads := s.mem.reads + 1, mmio := (k.pa, 4, new.toNat) :: s.mem.mmio })
      addPart x id (mmioWay x line s) k.walk s
    | t =>
      let s := if t = .host then
          let (new, r) := a.op.at (wordAt s.mem .host k.pa) ls
          give r (putBytes .host k.pa (leBytes 4 new.toNat) (dropOthers x.core x.owner .host line (markMixed .host line s)))
        else s
      let s := updPend x.ref id (fun p => { p with left := p.left + 1 }) s
      let (f, s) := addFab x a pc id ⟨t, line, k.t.peer, k.walk, g.map fun k => (k.l, k.pa)⟩ s
      goFab f 0 k.walk s

/-- The atomics of a DET launch that are buffered: each lane gets 0, or its prefix of 0 (R233). -/
def detAtomics (x : Who) (a : Acc) (id : Nat) (gs : List (List LaneOk)) (s : State) : State :=
  let s := gs.foldl (fun s g => match g with
    | [] => s
    | k :: _ =>
      let ls := g.map (·.l)
      updPend x.ref id (fun p => (a.op.prefixes 0 ls).foldl (fun p e => p.fill e.1 e.2.toNat) p) (detAtom x k a.op (a.op.fold ls) s)) s
  addPart x id [.hold 16] none s

/-! ### An access as a whole -/

/-- The entry or record of an access before it is performed. -/
def Acc.pend (a : Acc) (id pc : Nat) (tag : String) : Pend :=
  let m := Wave.laneMask fun l => a.lanes.any (·.lane == l)
  let w : Target → RegWrite
    | .v r => RegWrite.lanes r m (fun _ => 0) 0
    | .s r => RegWrite.uni r 0 0
    | .h r => RegWrite.hyper r 0 0
  { Pend.blank tag with id, pc, entry := a.kind ≠ .store, left := 0, ws := a.dst.map w, job := .acc a }

/-- The label of what an access returns: that of its addresses and the pages read; a buffered atomic reads none. -/
def accLabel (a : Acc) (buffered : Bool) (ok : List LaneOk) : Label :=
  ok.foldl (fun l k => if buffered then l else l ||| k.t.lab) (if a.kind = .atomic then a.al ||| a.dl else a.al)

/-- The lanes of an access in the order in which they are served: where it combines lanes of one address, these together (R202, R230). -/
def Acc.inOrder (a : Acc) : List LaneAcc :=
  if a.agg then (a.lanes.map (·.va)).eraseDups.flatMap fun v => a.lanes.filter (·.va == v) else a.lanes

/-- The register writes of an access that a replay sends again: a write cancelled meanwhile stays so, and the lanes that are not served
again keep what they got, with its label (R54, R186, R272). -/
def Acc.again (a : Acc) (was new : List RegWrite) : List RegWrite :=
  let kept := fun (k : Nat) => !a.lanes.any (·.lane == k)
  if was.isEmpty then new
  else if a.kind = .atomic then was
  else (new.zip was).map fun (w, old) => match w.tgt with
    | .v _ => { old with lab := if ((List.range 64).any fun k => old.mask.getLsbD k && kept k) then old.lab else 0 }
    | .s _ => { w with live := old.live }
    | .h _ =>
      let chunk := BitVec.ofNat 8192 (2 ^ 512 - 1)
      { old with
        big := (List.range 16).foldl (fun b k => if kept k then b ||| old.big &&& (chunk <<< (512 * k)) else b) 0
        lab := if (List.range 16).any kept then old.lab else 0 }

/-- What a replay has still to do of an access whose lanes `ok` are served: a load is read anew but for device registers, which it has
read; a store or an atomic is performed once (R186, R272). -/
def Acc.rest (a : Acc) (ok : List LaneOk) : Job :=
  let regs := (ok.filter (·.t.typ = .mmio)).map (·.l.lane)
  .acc { a with lanes := if a.kind.writes then a.inOrder.drop ok.length else a.lanes.filter fun l => !regs.contains l.lane }

/-- Make an access (R201, R202), `was` being the writes of its entry when a replay sends it again: check its lanes, perform those before
the first failure. Behind a failed access of the wave that no park has reported yet, it is only recorded, to be discarded or sent again
(R56, R271). -/
def sendAccess (x : Who) (a : Acc) (pc : Nat) (tag : String) (was : List RegWrite) (s : State) : State :=
  let (id, s) := s.fresh
  let p := a.pend id pc tag
  let p := { p with ws := a.again was p.ws }
  let push := fun (p : Pend) (s : State) => s.updWave x.ref fun w => { w with pend := w.pend ++ [p] }
  if (s.wave? x.ref).any fun w => w.pend.any (·.fail.isSome) then push p s
  else
    let (ck, s) := checkLanes x a a.inOrder [] s
    let buffered := x.det && a.kind = .atomic && a.op.det
    let lab := accLabel a buffered ck.ok
    let p := { p with fail := ck.bad, job := a.rest ck.ok, ws := p.ws.map fun w => { w with lab := w.lab ||| lab } }
    match a.kind with
    | .store =>
      let walks := (ck.ok.filterMap (·.walk) ++ ck.wait.toList).eraseDups
      let s := if walks.isEmpty && ck.bad.isNone then s else push p s
      let s := walks.foldl (fun s k => addPart x id [] (some k) s) s
      -- a deterministic launch buffers all but the stores to device registers (R186, R232)
      let now := if x.det then ck.ok.filter (·.t.typ = .mmio) else ck.ok
      let s := if x.det then (ck.ok.filter (·.t.typ ≠ .mmio)).foldl (fun s k => detStore x pc a.nt k a.n s) s else s
      let ts := touches now
      storeOut x a pc ts (storeLines x ts s) (now.foldl (fun s k => storeLane x a.n k s) s)
    | .atomic =>
      let s := push p s
      let gs := atomGroups a.agg ck.ok
      let s := if buffered then detAtomics x a id gs s else gs.foldl (fun s g => atomGroup x a pc id g s) s
      match ck.wait with
      | some k => addPart x id [] (some k) s
      | none => s
    | _ =>
      let s := loadLanes x a pc id (touches ck.ok) ck.ok 0 [] [] (push p s)
      match ck.wait with
      | some k => addPart x id [] (some k) s
      | none => s

/-- An access as an instruction makes it. -/
def runAccess (x : Who) (a : Acc) (pc : Nat) (tag : String) (s : State) : State := sendAccess x a pc tag [] s

/-- What an access asks of tags and delivery contexts when it issues (R394, R397): how many, to which packages. -/
def fabricNeed (x : Who) (a : Acc) (s : State) : Nat × List Nat :=
  let ck := (checkLanes x a a.inOrder [] s).1
  if x.det && a.kind.writes && (a.kind = .store || a.op.det) then (0, [])
  else
    let ts := if a.kind = .atomic then (atomGroups a.agg ck.ok).filterMap fun g => g.head?.map fun k => (k.t.typ, k.t.peer)
      else (touches ck.ok).map fun t => (t.typ, t.dst)
    let out := ts.filter fun t => t.1.remote || t.1 = .host
    (out.length, (out.filter (·.1.remote)).map (·.2))

/-- Whether a RELEASE of a wave waits for the gate (R254). -/
def gateOut (s : State) (r : WaveRef) : Bool := s.gate.rels.any fun x => x.w = r && !x.served

/-- An instruction's access: it waits at issue for the tags and contexts it needs, and behind a RELEASE of its wave until the gate has made
its stores: a wave's accesses take their places in issue order (R210, R215, LOG 36). -/
def access (c : Cur) (a : Acc) (tag : String) (s : State) : Res :=
  let need := fabricNeed c.who a s
  if gateOut s c.ref then .wait s .gate
  else if need.1 = 0 || fabricReady s c.core c.g.owner 0 need.1 need.2 then .done (runAccess c.who a c.pc tag s)
  else .wait s (.fabric need.1 need.2)

end Sys2Proof.Machine
end

