-- ==== Sys2Proof/Machine/Memory.lean ====
section
/-! DEFINITION. VLD, VST, SLD, SST, HLD and HST (spec/09_memory.md R185 to R206; spec/08_rearrange_hyper.md R174). -/

namespace Sys2Proof.Machine

def Size.bytes : Size → Nat
  | .b => 1
  | .h => 2
  | .w => 4
  | .d => 8

/-! ### Scratch (R190, R191, R198) -/

/-- First offset of the front exchange bank, and its size. -/
def frontBase : Nat := 0x8000_0000
def bankSize : Nat := 8192

/-- ScratchOK (R191). -/
def scratchOk (g : Group) (o n : Nat) (load : Bool) : Bool :=
  decide (o + n ≤ 1024 * g.kib) || (load && g.xchg && decide (frontBase ≤ o) && decide (o + n ≤ frontBase + bankSize))

def scratchByte (g : Group) (o : Nat) : Byte := if o < frontBase then cellGet o g.win else cellGet (o - frontBase) g.front
def scratchVal (g : Group) (o n : Nat) : Nat := leVal ((List.range n).map fun k => scratchByte g (o + k))
/-- The label of the bank that holds an offset. -/
def scratchLab (g : Group) (o : Nat) : Label := if o < frontBase then g.wlab.getD (o / bankSize) 0 else g.flab
/-- Write n bytes at an offset of the window; the bank absorbs the label (R199). -/
def scratchPut (o n v : Nat) (lab : Label) (g : Group) : Group :=
  { g with win := cellPuts g.win o (leBytes n v), wlab := g.wlab.modify (o / bankSize) (· ||| lab) }

/-- Whether some byte ranges of a group overlap a scoreboard entry of its core (R198); the front bank is not guarded, and an entry of an
empty range guards nothing. -/
def scoreHit (s : State) (core gid : Nat) (lo hi : List Nat) : Bool :=
  (s.core core).score.any fun e => e.gid == gid && decide (e.lo ≤ e.hi) &&
    (lo.zip hi).any fun r => decide (r.1 < frontBase) && decide (r.1 ≤ e.hi) && decide (e.lo ≤ r.2)

/-! ### Lanes and addresses (R199, R204) -/

def lanesOf64 (m : BitVec 64) : List Nat := (List.range 64).filter m.getLsbD

/-- Address of an access: the offset in scratch space, otherwise the pair plus the offset (R199). -/
def memAddr (w : Wave) (sp : Space) (sb : Reg) (off : Nat) : Nat :=
  if sp = .scratch then off else (w.pair sb + off) % 2 ^ 64

/-- Data of a register, or of a pair for an 8-byte access. -/
def laneData (w : Wave) (t : Reg) (sz : Size) (l : Nat) : Nat :=
  if sz = .d then (w.lane t l).toNat + 2 ^ 32 * (w.lane (t + 1) l).toNat else (w.lane t l).toNat % 2 ^ (8 * sz.bytes)

/-- The checks of R200 on the lanes of an access: the trap's cause and address. -/
def memCheck (g : Group) (ls : List LaneAcc) (n : Nat) (sp : Space) (load : Bool) : Option (Nat × Nat) :=
  if !load && sp = .const then some (permFault, (ls.head?.map (·.va)).getD 0)
  else match ls.find? fun l => l.va % n != 0 with
    | some l => some (misalign, l.va)
    | none => if sp = .scratch then (ls.find? fun l => !scratchOk g l.va n load).map fun l => (scratchRange, l.va) else none

def vtargets (t : Nat) (sz : Size) : List Target := if sz = .d then [.v t, .v (t + 1)] else [.v t]
def stargets (t : Nat) (sz : Size) : List Target := if sz = .d then [.s t, .s (t + 1)] else [.s t]

/-- An access record of VLD, VST, SLD, SST, HLD or HST. -/
def plainAcc (kind : AccKind) (n : Nat) (ls : List LaneAcc) (dst : List Target) (al dl : Label) (of nt : Bool) : Acc :=
  ⟨kind, n, ls, .cas, false, dst, al, dl, of, nt, .wave⟩

/-- A load or store, its lanes and labels given: issue checks, scratch at once, memory by way of the checks of R201. -/
def plainMem (c : Cur) (sp : Space) (a : Acc) (tag : String) (s : State) : Res :=
  match memCheck c.g a.lanes a.n sp (a.kind ≠ .store) with
  | some (cause, addr) => .trap s cause addr a.al
  | none =>
    if sp = .scratch then
      let lo := a.lanes.map (·.va)
      let hi := a.lanes.map fun l => l.va + a.n - 1
      if scoreHit s c.core c.g.gid lo hi then .wait s (.score lo hi)
      else if a.kind = .store then
        .done (s.updGroup c.g.gid fun g => a.lanes.foldl (fun g l => scratchPut l.va a.n l.data a.dl g) g)
      else
        let lab := a.lanes.foldl (fun x l => x ||| scratchLab c.g l.va) a.al
        let p := { a.pend 0 0 tag with job := .none }
        let p := a.lanes.foldl (fun p l => p.fill l.lane (scratchVal c.g l.va a.n)) p
        .done (pushTimed c 16 { p with ws := p.ws.map fun w => { w with lab } } s)
    else access c a tag s

def loadKind (sp : Space) : AccKind := if sp = .const then .const else .load

/-- Address labels of a vector access and of a uniform one (R204, R205). -/
def vecAL (w : Wave) (sp : Space) (sb vo : Reg) : Label :=
  vlab w vo ||| w.ctxlbl ||| (if sp = .scratch then 0 else w.pairLab sb)
def uniAL (w : Wave) (sp : Space) (sb : Reg) : Label :=
  (if sp = .scratch then slab w sb else w.pairLab sb) ||| w.ctxlbl

/-- The lanes of VLD and VST. -/
def vecLanes (c : Cur) (sp : Space) (sb vo t : Reg) (sz : Size) : List LaneAcc :=
  (lanesOf64 c.act).map fun l => ⟨l, memAddr c.w sp sb (c.w.lane vo l).toNat, laneData c.w t sz l, 0⟩

/-- VLD (R204). -/
def execVld (p : Bool) (t sb vo : Reg) (sz : Size) (sp : Space) (nt : Bool) : State → Out := issue (.vld p t sb vo sz sp nt) { p, vs := if sz = .d then [t.val, t.val + 1, vo.val] else [t.val, vo.val], entry := true } fun c s =>
  plainMem c sp (plainAcc (loadKind sp) (Size.bytes sz) (vecLanes c sp sb vo t sz) (vtargets t sz) (vecAL c.w sp sb vo) 0 false nt) "VLD" s

/-- VST (R204). -/
def execVst (p : Bool) (t sb vo : Reg) (sz : Size) (sp : Space) (of nt : Bool) : State → Out := issue (.vst p t sb vo sz sp of nt) { p, vs := if sz = .d then [t.val, t.val + 1, vo.val] else [t.val, vo.val] } fun c s =>
  let al := vecAL c.w sp sb vo
  let dl := vlab c.w t ||| al ||| (if sz = .d then vlab c.w (t + 1) else 0)
  plainMem c sp (plainAcc .store (Size.bytes sz) (vecLanes c sp sb vo t sz) [] al dl of nt) "VST" s

/-! ### SLD and SST (R205): one access for the wave, of its lowest active lane -/

def uniAddr (w : Wave) (sp : Space) (sb : Reg) (n : Nat) (off : BitVec 6) : Nat :=
  if sp = .scratch then ((((sval w sb).toNat : Int) + off.toInt * n) % 2 ^ 32).toNat
  else (((w.pair sb : Int) + off.toInt * n) % 2 ^ 64).toNat

def lowLane (m : BitVec 64) : Nat := (lanesOf64 m).headD 0

def uniData (w : Wave) (d : Reg) (sz : Size) : Nat :=
  if sz = .d then (sval w d).toNat + 2 ^ 32 * (sval w (d + 1)).toNat else (sval w d).toNat % 2 ^ (8 * Size.bytes sz)

/-- SLD (R205). -/
def execSld (p : Bool) (d sb : Reg) (sz : Size) (sp : Space) (off : BitVec 6) : State → Out := issue (.sld p d sb sz sp off) { p, entry := true } fun c s =>
  let n := Size.bytes sz
  plainMem c sp (plainAcc (loadKind sp) n [⟨lowLane c.act, uniAddr c.w sp sb n off, 0, 0⟩] (stargets d sz) (uniAL c.w sp sb) 0 false false) "SLD" s

/-- SST (R205). -/
def execSst (p : Bool) (d sb : Reg) (sz : Size) (sp : Space) (of : Bool) (off : BitVec 6) : State → Out := issue (.sst p d sb sz sp of off) { p } fun c s =>
  let n := Size.bytes sz
  let al := uniAL c.w sp sb
  let dl := slab c.w d ||| al ||| (if sz = .d then slab c.w (d + 1) else 0)
  plainMem c sp (plainAcc .store n [⟨lowLane c.act, uniAddr c.w sp sb n off, uniData c.w d sz, 0⟩] [] al dl of false) "SST" s

/-! ### HLD and HST (R174): 16 lines of 64 B -/

/-- The lines of a hypervector; a store is that of one logical thread (R232). -/
def hyperLanes (w : Wave) (sa : Reg) (x : BitVec 8192) (thread : Option Nat) : List LaneAcc :=
  (List.range 16).map fun k => ⟨thread.getD k, (w.pair sa + 64 * k) % 2 ^ 64, x.toNat / 2 ^ (512 * k) % 2 ^ 512, 0⟩

/-- HLD (R174). -/
def execHld (p : Bool) (h : Fin 16) (s : Reg) : State → Out := issue (.hld p h s) { p, hs := [h], entry := true } fun c st =>
  plainMem c .global (plainAcc .load 64 (hyperLanes c.w s 0 none) [.h h] (c.w.pairLab s ||| c.w.ctxlbl) 0 false false) "HLD" st

/-- HST (R174). -/
def execHst (p : Bool) (h : Fin 16) (s : Reg) : State → Out := issue (.hst p h s) { p, hs := [h] } fun c st =>
  let x := c.g.h.getD h .zero
  let al := c.w.pairLab s ||| c.w.ctxlbl
  plainMem c .global (plainAcc .store 64 (hyperLanes c.w s x.val (some (lowLane c.act))) [] al (al ||| x.lab) false false) "HST" st

end Sys2Proof.Machine
end

