-- ==== Sys2Proof/Machine/Atomics.lean ====
section
/-! DEFINITION. Fences and atomics (spec/11_consistency.md R225 to R230, R233). -/

namespace Sys2Proof.Machine

/-! ### What a fence waits for (R225) -/

def wideScope : Scope → Bool
  | .pod => true
  | .sys => true
  | _ => false

/-- Whether the hub's bridge has accepted a HOST store: its request has come to the host port (R223, R225). -/
def bridgeHas (s : State) (f : FabReq) : Bool :=
  f.started && !s.rota.reqs.any fun r => r.purpose = .wt f.id && (r.legs.drop 1).any (· = .rota .host .hostPort)

/-- The engine command that made a request. -/
def FabSrc.command : FabSrc → Option Nat
  | .engine _ c => some c
  | .wave | .group | .hub => none

/-- Requests off the package that a wave's own instructions made. -/
def FabReq.ofWave (f : FabReq) (r : WaveRef) : Bool := f.w = r && f.src = .wave && !f.gone

/-- Whether some access of the selected kinds that the wave issued is not yet performed with respect to the scope. LOCAL and
scratch accesses, HOST loads and atomics are performed when they issue (LOG 7); a CFETCH reads its image chunk by chunk (R158). -/
def outstanding (s : State) (r : WaveRef) (k : Kinds) (sc : Scope) : Bool :=
  (k.l && (s.mem.fabs.any (fun f => f.ofWave r && f.typ.remote && f.reads && !f.applied)
    || s.eng.fetch.any (fun f => f.kernel.isNone && f.w = r)
    || s.cores.any fun e => e.2.slots.any fun sl => sl.st = .held && sl.next.any (·.w = r))) ||
  (k.a && s.mem.fabs.any fun f => f.ofWave r && f.typ.remote && f.acc.kind = .atomic && !f.applied) ||
  (k.s && (s.mem.fabs.any (fun f => f.ofWave r && f.acc.kind = .store &&
      (if f.typ.remote then !f.started || f.path == 4 else wideScope sc || !bridgeHas s f))
    || s.mem.stores.any (fun st => st.w = r && st.typ = .mmio)
    || s.gate.rels.any (·.w = r) || s.gate.lnchs.any (·.w = r) || s.eng.tsets.any (·.w = r))) ||
  (k.e && (s.eng.copies.any (·.w = r) || s.eng.mmas.any (·.w = r)
    || s.mem.fabs.any fun f => f.w = r && f.src.command.isSome && f.acc.kind = .atomic && !f.applied && !f.gone))

/-- Whether a PEER or POD store of the wave is not acknowledged: it counts in a PATHCNT, or is still to be posted (R220, R225). -/
def unacked (s : State) (r : WaveRef) : Bool :=
  ((s.wave? r).map fun w => w.pathcnt.any (· != 0)).getD false ||
    s.mem.fabs.any fun f => f.ofWave r && f.typ.remote && f.acc.kind = .store

def fenceCond (s : State) (r : WaveRef) (k : Kinds) (sc : Scope) (acks : Bool) : Bool :=
  outstanding s r k sc || (acks && unacked s r)

def allKinds : Kinds := ⟨true, true, true, true⟩

/-- FENCE (R225). -/
def execFence (p : Bool) (sc : Scope) (k : Kinds) : State → Out := issue (.fence p sc k) { p } fun c s =>
  if fenceCond s c.ref k sc false then .wait s (.kinds k sc false) else .done s

/-- FENCEA (R225). -/
def execFencea (p : Bool) (sc : Scope) (k : Kinds) : State → Out := issue (.fencea p sc k) { p } fun c s =>
  if fenceCond s c.ref k sc true then .wait s (.kinds k sc true) else .done s

/-! ### Atomics (R226 to R230) -/

/-- The register file's value for a VCAS swap. -/
def atomLanes (c : Cur) (sp : Space) (sb vo d : Reg) (cas : Bool) : List LaneAcc :=
  (lanesOf64 c.act).map fun l =>
    ⟨l, memAddr c.w sp sb (c.w.lane vo l).toNat, (c.w.lane d l).toNat, if cas then (c.w.lane (d + 1) l).toNat else 0⟩

/-- One lane's atomic on scratch; the bank is written as by a store. -/
def scratchAtomic (op : AOp) (dl : Label) (ls : List LaneAcc) (g : Group) : Group × List (Nat × Word) :=
  match ls with
  | [] => (g, [])
  | l :: _ =>
    let (new, r) := op.at (nat32 (scratchVal g l.va 4)) ls
    (scratchPut l.va 4 new.toNat dl g, r)

/-- Lanes of one address together, when the instruction combines them; without, one by one. -/
def scratchGroups (agg : Bool) (ls : List LaneAcc) : List (List LaneAcc) :=
  if agg then ls.foldl (fun gs l =>
    if gs.any fun g => g.any (·.va == l.va) then gs.map fun g => if g.any (·.va == l.va) then g ++ [l] else g else gs ++ [[l]]) []
  else ls.map fun l => [l]

/-- An atomic of the wave: issue checks; on scratch at once; elsewhere between the fences that a scope from QUAD up makes
around it (R229). -/
def atomic (c : Cur) (sp : Space) (a : Acc) (tag : String) (s : State) : Res :=
  match a.lanes.find? fun l => l.va % 4 != 0 with
  | some l => .trap s misalign l.va a.al
  | none =>
    if sp = .scratch then
      match a.lanes.find? fun l => !scratchOk c.g l.va 4 false with
      | some l => .trap s scratchRange l.va a.al
      | none =>
        let lo := a.lanes.map (·.va)
        let hi := a.lanes.map (·.va + 3)
        if scoreHit s c.core c.g.gid lo hi then .wait s (.score lo hi)
        else
          let lab := a.lanes.foldl (fun x l => x ||| scratchLab c.g l.va) (a.al ||| a.dl)
          let (g, res) := (scratchGroups a.agg a.lanes).foldl (fun (acc : Group × List (Nat × Word)) ls =>
            let (g, r) := scratchAtomic a.op a.dl ls acc.1
            (g, acc.2 ++ r)) (c.g, [])
          let s := s.updGroup c.g.gid fun h => { h with win := g.win, wlab := g.wlab }
          let p := { a.pend 0 0 tag with job := .none }
          let p := res.foldl (fun p r => p.fill r.1 r.2.toNat) p
          .done (pushTimed c 16 { p with ws := p.ws.map fun w => { w with lab } } s)
    else if a.scope = .wave || a.scope = .grp then access c a tag s
    else if c.w.phase = 3 then
      if fenceCond s c.ref allKinds a.scope false then .wait s (.kinds allKinds a.scope false) else .done s
    else if fenceCond s c.ref allKinds a.scope false then .wait s (.kinds allKinds a.scope false)
    else match access c a tag s with
      | .done s =>
        if fenceCond s c.ref allKinds a.scope false then
          .wait (s.updWave c.ref fun w => { w with phase := 3 }) (.kinds allKinds a.scope false)
        else .done s
      | r => r

/-- The space that a V-A word names (R226). -/
def atomSpace (sb : Reg) : Space := if sb = 0 then .scratch else .global

def vecAtomic (c : Cur) (op : AOp) (agg cas : Bool) (sc : Scope) (d sb vo : Reg) (tag : String) (s : State) : Res :=
  let sp := atomSpace sb
  let al := vecAL c.w sp sb vo
  let dl := vlab c.w d ||| (if cas then vlab c.w (d + 1) else 0) ||| al
  atomic c sp ⟨.atomic, 4, atomLanes c sp sb vo d cas, op, agg, [.v d], al, dl, false, false, sc⟩ tag s

/-- VATOM (R228). -/
def execVatom (p : Bool) (op : AtomOp) (sc : Scope) (d sb vo : Reg) : State → Out := issue (.vatom p op sc d sb vo) { p, vs := [d, vo], entry := true } fun c s => vecAtomic c (.arith op) false false sc d sb vo "VATOM" s

/-- VATOMB (R228). -/
def execVatomb (p : Bool) (op : BitOp) (sc : Scope) (d sb vo : Reg) : State → Out := issue (.vatomb p op sc d sb vo) { p, vs := [d, vo], entry := true } fun c s => vecAtomic c (.bits op) false false sc d sb vo "VATOMB" s

/-- VAGG (R230). -/
def execVagg (p : Bool) (op : AtomOp) (sc : Scope) (d sb vo : Reg) : State → Out := issue (.vagg p op sc d sb vo) { p, vs := [d, vo], entry := true } fun c s => vecAtomic c (.arith op) true false sc d sb vo "VAGG" s

/-- VCAS (R228). -/
def execVcas (p : Bool) (sc : Scope) (d sb vo : Reg) : State → Out := issue (.vcas p sc d sb vo) { p, vs := [d.val, d.val + 1, vo.val], entry := true } fun c s => vecAtomic c .cas false true sc d sb vo "VCAS" s

/-- SATOM (R228). -/
def execSatom (p : Bool) (op : SatomOp) (sc : Scope) (d sb : Reg) : State → Out := issue (.satom p op sc d sb) { p, entry := true } fun c s =>
  let al := c.w.pairLab sb ||| c.w.ctxlbl
  let o : AOp := match op with
    | .arith o => .arith o
    | .bits o => .bits o
  atomic c .global ⟨.atomic, 4, [⟨lowLane c.act, c.w.pair sb % 2 ^ 64, (sval c.w d).toNat, 0⟩], o, false, [.s d], al, slab c.w d ||| al,
    false, false, sc⟩ "SATOM" s

end Sys2Proof.Machine
end

