-- ==== Sys2Proof/Machine/Barrier.lean ====
section
/-! DEFINITION. Barriers, the exchange between the groups of a cluster, the network reduction (spec/17_barrier.md R322 to R340). -/

namespace Sys2Proof.Machine

/-! ### Instances (R322 to R325) -/

/-- The scope of a level, by their common code (R322). -/
def levelScope : BarLevel → Scope
  | .grp => .grp
  | .quad => .quad
  | .die => .die
  | .pkg => .pkg
  | .pod => .pod
/-- Cycles from completion to release (R329). -/
def releaseTime : BarLevel → Nat
  | .grp => 8
  | .quad => 24
  | .die => 96
  | .pkg => 512
  | .pod => 4096

/-- Whether a kernel has the sets of a level (R323). -/
def hasLevel (s : State) (k : Nat) : BarLevel → Bool
  | .grp => true
  | .quad => true
  | .die => ((s.kernel? k).map (·.dieSet.isSome)).getD false
  | .pkg => ((s.kernel? k).map (·.pkgSet)).getD false
  | .pod => (podSet s k).isSome

/-- The instance that a level and number name for a wave's group. -/
def barRef (s : State) (g : Group) (lvl : BarLevel) (n : Nat) : BarRef :=
  match lvl with
  | .grp => ⟨.grp, g.kernel, g.gid, n⟩
  | .quad => ⟨.quad, g.kernel, g.lin / clusterSize s g.kernel, n⟩
  | .pod => ⟨.pod, 0, (podSet s g.kernel).getD 0, n⟩
  | l => ⟨l, g.kernel, 0, n⟩

/-- Kernels that have not come to their end (R305). -/
def Kernel.live (k : Kernel) : Bool := k.st ≠ .complete && k.st ≠ .faulted && k.st ≠ .refused
/-- The member kernels of a pod job in this package (R323). -/
def podKernels (s : State) (job : Nat) : List Kernel := s.hub.kernels.filter fun k => k.live && podSet s k.id == some job

/-- Whether every group of a grid has been placed: the waves of one that is not have not arrived. -/
def Kernel.placedAll (k : Kernel) : Bool := decide (k.dx * k.dy * k.dz ≤ k.next)

/-- Whether every member wave that has not ended has arrived, those of a pod job's other packages among them. -/
def allArrived (s : State) (x : BarInst) : Bool :=
  let placed := match x.ref.level with
    | .grp | .quad => true
    | .pod => (podKernels s x.ref.holder).all (·.placedAll) && s.link.peers.all fun p =>
        p.job != x.ref.holder || p.waves.all fun w => x.far.contains (p.pkg, p.grp, w)
    | .die | .pkg => ((s.kernel? x.ref.kernel).map (·.placedAll)).getD true
  placed && (s.groups.filter (barMember s x.ref)).all fun g =>
    (g.waves.mapIdx fun i w => w.hasEnded || x.arr.contains ⟨g.gid, i⟩).all id

/-- The lowest wave of a DET group that has not ended becomes current (R320). -/
def lowestCurrent (gid : Nat) (s : State) : State :=
  s.updGroup gid fun g => if g.det then
    { g with cur := ((List.range g.nwaves).find? fun k => (g.waves[k]?).any fun w => !w.hasEnded).getD g.cur } else g

/-- The test for completion (R324, R329); a DET group's stores are merged and its atomics flushed from the completion on (R330). -/
def testBar (b : BarRef) (s : State) : State :=
  let x := barAt s b
  if x.done || x.broken || (x.arr.isEmpty && x.far.isEmpty) || !allArrived s x then s
  else
    let s := (putBar { x with done := true } s).schedule (s.now + releaseTime b.level) (.barrierRelease b)
    match b.level with
    | .grp => match s.group? b.holder with
      | some g => lowestCurrent b.holder (if g.det then detFlush g.gid (detMerge g.gid s) else s)
      | none => s
    | _ => s

/-- A wave arrives (R325, R331), and with it the lease clock of its core, under which what it released is performed (R328). -/
def arrive (b : BarRef) (r : WaveRef) (swap : Bool) (s : State) : State :=
  let x := barAt s b
  let clk := (((s.group? r.gid).bind (·.place)).map fun p => (s.core p.core).lclk).getD 0
  if x.broken then s
  else testBar b (putBar { x with
    arr := x.arr ++ [r], swap := x.swap || swap, last := (r, x.phase) :: x.last.filter (·.1 ≠ r), clk := max x.clk clk } s)

/-- What a member of a pod job in another package tells the job's switch of barriers (R324): which waves it has, which of them end or
arrive, and which group ends by a fault. -/
def podBarrier (job pkg : Nat) (m : PodMsg) (s : State) : State :=
  let peers := fun (f : List PodPeer → List PodPeer) (s : State) => s.setLink { s.link with peers := f s.link.peers }
  let of := fun (g : Nat) (p : PodPeer) => p.job == job && p.pkg == pkg && p.grp == g
  match m with
  | .join g n => peers (fun l => l.filter (!of g ·) ++ [⟨job, pkg, g, List.range n⟩]) s
  | .leave g w =>
    let s := peers (fun l => (amend (of g) (fun p => { p with waves := p.waves.filter (· != w) }) l).filter (!·.waves.isEmpty)) s
    overList (fun b s =>
      let x := barAt s b
      if x.done || x.broken then s else testBar b (putBar { x with far := x.far.filter (· ≠ (pkg, g, w)) } s)) (podBars job) s
  | .lost g => overList breakBar (podBars job) (peers (·.filter (!of g ·)) s)
  | .arrive n g w =>
    let b : BarRef := ⟨.pod, 0, job, n⟩
    let x := barAt s b
    if x.broken || x.done || x.far.contains (pkg, g, w) || !s.link.peers.any (fun p => of g p && p.waves.contains w) then s
    else testBar b (putBar { x with far := x.far ++ [(pkg, g, w)] } s)
  | _ => s

/-- Waves that have ended are no longer counted, and their arrivals in open phases are withdrawn (R324). -/
def withdrawEnded (s : State) : State :=
  s.bars.foldl (fun s x =>
    if x.done || x.broken || (x.arr.isEmpty && x.far.isEmpty) then s
    else
      let arr := x.arr.filter fun r => match s.wave? r with
        | some w => !w.hasEnded
        | none => false
      testBar x.ref (if arr = x.arr then s else putBar { x with arr } s)) s

/-- The instances of a kernel that has ended are freed (R331): those of a pod job's set with the last of its member kernels. -/
def freeBars (k : Nat) (s : State) : State :=
  let kept := fun (b : BarRef) => match b.level with
    | .pod => podSet s k != some b.holder || (podKernels s b.holder).any (·.id != k) || s.link.peers.any (·.job == b.holder)
    | _ => b.kernel != k
  let s := s.setAgenda (s.agenda.filter fun e => match e.2 with
    | .barrierRelease b => kept b
    | _ => true)
  s.setBars (s.bars.filter fun x => kept x.ref)

/-! ### BAR (R326 to R328) -/

/-- What an arrival waits for: the wave's accesses and XSTs, and for POD its acknowledgements (R327). -/
def barWait (s : State) (r : WaveRef) (sc : Scope) (acks : Bool) : Bool :=
  fenceCond s r ⟨false, true, true, true⟩ sc acks || s.xsts.any (·.w = r)

/-- A wave waits at a barrier; at a group barrier, a DET group's current wave hands over (R320). -/
def barStands (c : Cur) (b : BarRef) (cond : Cond) (s : State) : Res :=
  let s := if b.level = .grp then handOver c.ref (s.updWave c.ref fun w => { w with status := .waiting cond (.nop false) }) else s
  .wait s cond

/-- The end of a wait acquires what the arrivals of its phase released: the core's lease clock comes up to theirs (R328). -/
def acquireBar (c : Cur) (b : BarRef) (s : State) : State :=
  setLclk c.core c.g.owner (max (s.core c.core).lclk (barAt s b).rel) s

/-- The wait for a phase: one that begins or goes on at a BROKEN instance traps. -/
def barPhase (c : Cur) (b : BarRef) (absent : Bool) (n : Nat) (s : State) : Res :=
  let x := barAt s b
  if absent || x.broken then .trap s barBroken (b.level.code * 128 + n) 0
  else if c.w.target ≠ x.phase.toNat then .done (acquireBar c b s)
  else barStands c b (.phase b c.w.target) s

/-- BAR (R327, parks after its arrival). -/
def execBar (p : Bool) (kind : BarKind) (lvl : BarLevel) (n : Fin 16) : State → Out := issue (.bar p kind lvl n) { p := false } fun c s =>
  let b := barRef s c.g lvl n
  let absent := !hasLevel s c.g.kernel lvl
  let x := barAt s b
  match c.w.phase with
  | 0 =>
    if kind = .wait then
      let t := (((x.last.find? (·.1 = c.ref)).map (·.2)).getD x.phase).toNat
      .park (s.updWave c.ref fun w => { w with phase := 1, target := t })
    else if !absent && !x.broken && (x.done || x.arr.contains c.ref) then barStands c b (.arrived b) s
    else
      let sc := levelScope lvl
      let acks := lvl = .pod
      if barWait s c.ref sc acks then .wait s (.barrier sc acks)
      else
        let t := x.phase.toNat
        let s := if absent then s.updOwner c.g.owner fun o => { o with bardiag := min 0xFFFF_FFFF (o.bardiag + 1) }
          else arrive b c.ref (kind = .swap) s
        .park (s.updWave c.ref fun w => { w with phase := 1, target := t })
  | 1 => if kind = .arrive then .done s else barPhase c b absent n s
  | _ => .done (acquireBar c b s)

/-- Whether a wave is on the way to wait for a phase of an instance, or waits for it, at a BAR: a wave saved in phase 1 is saved in the wait of
a BAR, or holds requests. -/
def waitsFor (s : State) (g : Group) (b : BarRef) (t : Nat) (w : Wave) : Bool :=
  let at_ := fun (i : Instr) => match i with
    | .bar _ _ lvl n => decide (barRef s g lvl n = b)
    | _ => false
  w.phase == 1 && w.target == t && (match w.status with
    | .waiting _ i => at_ i
    | .parked (.again i) => at_ i
    | .stopped => w.held.isEmpty
    | _ => false)

/-- The waiters of a completed phase are released, whatever becomes of the instance afterwards (R331, R332). -/
def releaseWaiters (b : BarRef) (t : Nat) (s : State) : State :=
  s.setGroups (s.groups.map fun g => if !barMember s b g then g
    else { g with waves := g.waves.map fun w => if waitsFor s g b t w then { w with phase := 2 } else w })

/-- Whether the merge of a DET group's stores goes on (R330). -/
def merging (s : State) (gid : Nat) : Bool :=
  s.mem.stores.any (fun st => st.merge && st.w.gid == gid) || s.mem.fabs.any fun f =>
    f.src = .group && f.w.gid == gid && !f.gone && (if f.typ.remote then !f.started || f.path == 4 else !bridgeHas s f)

/-- The exchange pair at the end of a QUAD phase (R335, R337). -/
def endPhase (swap : Bool) (g : Group) : Group :=
  if swap then { g with front := g.back, flab := g.blab, back := [], blab := 0, backSrc := [] } else { g with backSrc := [] }

/-- BARRIER_RELEASE (R329, R330, R335): the next phase, once the merge is done; a swap. While the merge goes on, the release looks again in the
next cycle. -/
def execBarrierRelease (b : BarRef) (s : State) : Out :=
  let x := barAt s b
  onOccasion "BARRIER_RELEASE" x.done
    (if b.level = .grp && merging s b.holder then s.schedule (s.now + 1) (.barrierRelease b)
     else
      let s := if b.level = .quad then s.setGroups (amend (fun g => barMember s b g && g.xchg) (endPhase x.swap) s.groups) else s
      putBar { x with
        phase := x.phase + 1, arr := [], far := [], done := false, swap := false, broken := x.brk, brk := false, rel := x.clk }
        (releaseWaiters b x.phase.toNat s))

/-- The fields of BARCMD (R333). -/
def setBarcmd (ctx group levels : Nat) (s : State) : State :=
  s.setHub { s.hub with barCtx := ctx, barGroup := group, barLevels := levels }

/-- BREAK, by BARCMD (R333): the command ends in its step, so that BUSY reads 0 (LOG 33). -/
def breakBarriers (ctx : Fin 1024) (group : Nat) (levels : BitVec 5) (s : State) : State :=
  let s := setBarcmd ctx group levels.toNat s
  let s := s.setHub { s.hub with barErr := false, barDone := true }
  match s.groups.find? fun g => g.ctx == ctx.val && g.lin == group && g.st = .saved && g.replay with
  | none => s.setHub { s.hub with barErr := true }
  | some g =>
    let lv := [(BarLevel.grp, 16), (.quad, 8), (.die, 4), (.pkg, 4), (.pod, 2)]
    lv.foldl (fun s e =>
      if levels.getLsbD (e.1.code - 1) && hasLevel s g.kernel e.1 then
        (List.range e.2).foldl (fun s n => breakBar (barRef s g e.1 n) s) s
      else s) s
def execBreakBarriers (ctx : Fin 1024) (group : Nat) (levels : BitVec 5) (s : State) : Out := .next (breakBarriers ctx group levels s)

/-! ### XST (R336, R337) -/

/-- XST (R336). -/
def execXst (p : Bool) (t sb vo : Reg) (sz : Size) : State → Out := issue (.xst p t sb vo sz) { p, vs := if sz = .d then [t.val, t.val + 1, vo.val] else [t.val, vo.val] } fun c s =>
  let n := Size.bytes sz
  let lanes := (lanesOf64 c.act).map fun l => (c.w.lane vo l).toNat
  let al := vlab c.w vo ||| slab c.w sb ||| c.w.ctxlbl
  let peer := (sval c.w sb).toNat
  let size := clusterSize s c.g.kernel
  match lanes.find? (· % n != 0) with
  | some o => .trap s misalign o al
  | none =>
    if !c.g.xchg || peer ≥ size then .trap s scratchRange peer al
    else match lanes.find? (· + n > bankSize) with
      | some o => .trap s scratchRange o al
      | none =>
        let (id, s) := s.fresh
        let bytes := (lanesOf64 c.act).flatMap fun l =>
          (leBytes n (laneData c.w t sz l)).mapIdx fun k b => ((c.w.lane vo l).toNat + k, b)
        let lab := al ||| vlab c.w t ||| (if sz = .d then vlab c.w (t + 1) else 0)
        let x : Xst := ⟨id, c.ref, c.g.lin % size, c.g.kernel, c.g.lin / size * size + peer, bytes, lab⟩
        .done ((s.setXsts (s.xsts ++ [x])).schedule (s.now + 8) (.xstPerform id))

/-- One byte of an XST: the highest member index wins (R337). -/
def backPut (member : Nat) (e : Nat × Byte) (g : Group) : Group :=
  if member < look 0 e.1 g.backSrc then g
  else { g with back := cellPut e.1 e.2 g.back, backSrc := enter e.1 member g.backSrc }

/-- XST_PERFORM (R336). -/
def execXstPerform (x : Nat) (s : State) : Out :=
  match s.xsts.find? (·.id == x) with
  | none => .refused (.notEnabled "XST_PERFORM")
  | some t =>
    let s := s.setXsts (s.xsts.filter (·.id != x))
    .next (s.setGroups (amend (fun g => g.kernel == t.kernel && g.lin == t.lin)
      (fun g => t.bytes.foldl (fun g e => backPut t.member e g) { g with blab := g.blab ||| t.lab }) s.groups))

/-! ### NRED (R338 to R340) -/

/-- The identity of a fold (R339). -/
def redIdentity : RedOp → Word
  | .add => 0
  | .fadd => 0
  | .min => 0x7FFF_FFFF
  | .max => 0x8000_0000
  | .minn => 0xFFFF_FFFF
  | .maxn => 0
  | .and => 0xFFFF_FFFF
  | .or => 0

/-- The two results of an entry, with their label. -/
def pairRes (d : Nat) (x y : Word) (lab : Label) : List RegWrite := [RegWrite.uni d x lab, RegWrite.uni (d + 1) y lab]

/-- Put two results into an entry that waits for them. -/
def fillPair (r : WaveRef) (id : Nat) (x y : Word) (lab : Label) : State → State :=
  updPend r id fun p => { p with ws := p.ws.mapIdx fun i w => { w with vals := [if i = 0 then x else y], lab } }

/-- Put an entry without a time of its own into the return buffer. -/
def pushEntry (c : Cur) (p : Pend) (s : State) : Nat × State :=
  let (id, s) := s.fresh
  (id, s.updWave c.ref fun w => { w with pend := w.pend ++ [{ p with id, pc := c.pc }] })

def nredOut (s : State) (r : WaveRef) : Bool :=
  ((s.wave? r).map fun w => w.pend.any fun p => p.tag == "NRED" && p.left != 0).getD false

/-- The pod job that a group's kernel belongs to, and what it adds to GROUP for the member index (R323, R338, R342). -/
def podJob (s : State) (g : Group) : Option (Nat × Nat) := (s.kernel? g.kernel).bind (·.podjob)

/-- NRED (R338). -/
def execNred (p : Bool) (op : RedOp) (d a b : Reg) : State → Out := issue (.nred p op d a b) { p, entry := true } fun c s =>
  if nredOut s c.ref then .wait s .nredOut
  else
    let n := (sval c.w b).toNat
    let x := sval c.w a
    let lab := slab c.w a ||| slab c.w b ||| c.w.ctxlbl
    let e := { Pend.blank "NRED" with ws := pairRes d (redIdentity op) 0 lab }
    if n = 0 then .done (pushTimed c 16 e s)
    else
      let (id, s) := pushEntry c e s
      let job := (podJob s c.g).map (·.1)
      let k : NredC := ⟨id, c.ref, id, c.g.kernel, job, s.link.pkgId, c.g.lin, op, n, x, lab⟩
      let s := s.setNcs (s.ncs ++ [k])
      .done (sendReq c.g.owner c.core [if job.isSome then .rota .fab .nredFab else .rota .d2d .nredPort] (.nred id) s)

/-- Contributions in the order of the fold (R338). -/
def nredInsert (x : NredC) : List NredC → List NredC
  | [] => [x]
  | y :: l =>
    let before := decide (x.pkg < y.pkg) || (x.pkg == y.pkg && (decide (x.grp < y.grp) || (x.grp == y.grp && decide (x.w.wave < y.w.wave))))
    if before then x :: y :: l else y :: nredInsert x l

/-- Time of a result's return after the instance completes (R340). -/
def nredReturn (job : Option Nat) : Nat := if job.isSome then 10800 else 1024

/-- A contribution's result returns: to a wave of this package (R340). -/
def nredGive (c : NredC) (r status : Word) (lab : Label) (s : State) : State :=
  if c.pkg != s.link.pkgId then s
  else (fillPair c.w c.pend r status lab s).schedule (s.now + nredReturn c.job) (.resultReturn c.w c.pend)

/-- An instance completes (R338, R340). -/
def nredComplete (k : NredInst) (code : Nat) (s : State) : State :=
  let cs := k.cs.foldr nredInsert []
  let r := match cs with
    | [] => redIdentity k.fn
    | c :: l => l.foldl (fun v c => (redStep k.fn v c.x).1) c.x
  let lab := cs.foldl (fun l c => l ||| c.lab) 0
  let status := nat32 (code * 2 ^ 24 + cs.length % 2 ^ 16)
  let s := (s.setNreds (s.nreds.filter (·.inst != k.inst))).unschedule (.nredTimerExpire k.kernel k.inst)
  cs.foldl (fun s c => nredGive c r status lab s) s

/-- The open instance that a contribution belongs to: its pod job's, or its kernel's (R338). -/
def nredInst? (s : State) (x : NredC) : Option NredInst :=
  s.nreds.find? fun k => k.job == x.job && (x.job.isSome || k.kernel == x.kernel)

/-- A contribution reaches the unit (R338, R339): it opens an instance, is counted by the open one, or does not match it. The timer of an
instance that another package opens is that of the job's member here (LOG 38). -/
def nredEnter (x : NredC) (s : State) : State :=
  match nredInst? s x with
  | none =>
    let (id, s) := s.fresh
    let k : NredInst := ⟨x.kernel, x.job, id, x.fn, x.n, [x]⟩
    if x.n = 1 then nredComplete k 0 s
    else
      let member := s.hub.kernels.find? fun k => k.live && (if x.pkg == s.link.pkgId then k.id == x.kernel else k.podjob.map (·.1) == x.job)
      let time := (member.bind fun k => (s.owner? k.owner).map (·.nredtimer)).getD 180000
      (s.setNreds (s.nreds ++ [k])).schedule (s.now + time) (.nredTimerExpire x.kernel id)
  | some k =>
    if k.fn ≠ x.fn ∨ k.n ≠ x.n then nredGive x x.x (nat32 (0xFF * 2 ^ 24 + 1)) x.lab s
    else
      let k := { k with cs := k.cs ++ [x] }
      if k.cs.length ≥ k.n then nredComplete k 0 s
      else s.setNreds (amend (·.inst == k.inst) (fun _ => k) s.nreds)

/-- NRED_CONTRIBUTION_ARRIVE (R338, R339). -/
def execNredContributionArrive (c : Nat) (s : State) : Out :=
  match s.ncs.find? (·.id == c) with
  | none => .refused (.notEnabled "NRED_CONTRIBUTION_ARRIVE")
  | some x => .next (nredEnter x (s.setNcs (s.ncs.filter (·.id != c))))

/-- NRED_TIMER_EXPIRE (R339). -/
def execNredTimerExpire (kernel inst : Nat) (s : State) : Out :=
  match s.nreds.find? fun k => k.kernel == kernel && k.inst == inst with
  | none => .refused (.notEnabled "NRED_TIMER_EXPIRE")
  | some k => .next (nredComplete k 0x15 s)

end Sys2Proof.Machine
end

