-- ==== Sys2Proof/Machine/Claim.lean ====
section
/-! DEFINITION. Claims (spec/19_claim.md R342 to R358): tickets, the claim plane, the slots at their home. -/

namespace Sys2Proof.Machine

/-! ### The claim group of a wave (R342 to R345) -/

/-- Whether the claim group spans the pod job. -/
def podClaims (s : State) (g : Group) : Bool := (s.ctx g.ctx).clpod && (podJob s g).isSome
def claimScope (s : State) (g : Group) : Scope := if podClaims s g then .pod else .pkg
/-- Member index of a group (R342). -/
def claimMember (s : State) (g : Group) : Nat :=
  g.lin + (if podClaims s g then ((podJob s g).map (·.2)).getD 0 else 0)
def claimSlots (s : State) (g : Group) : Nat := ((s.kernel? g.kernel).map (·.clslots)).getD 0

/-- A ticket (R349), and its fields. -/
def ticketOf (slot member wave count : Nat) : Nat :=
  slot % 256 * 2 ^ 24 + member % 64 * 2 ^ 18 + wave % 16 * 2 ^ 14 + count % 2 ^ 14
def ticketSlot (t : Nat) : Nat := t / 2 ^ 24
def ticketWho (t : Nat) : Nat := t / 2 ^ 14 % 2 ^ 10

/-- Put a message on the claim plane: through a port, delivered 1,440 or 10,800 cycles after its slot starts (R346). -/
def sendClaim (owner core : Nat) (inst : RotaInst) (pod : Bool) (p : Purpose) (s : State) : State :=
  sendReq owner core (.rota .claim inst :: (if pod then [.hold (10800 - 1440)] else [])) p s

def postClaim (c : Cur) (m : ClaimMsg) (s : State) : State :=
  let (id, s) := s.fresh
  let s := s.setClaims { s.claims with msgs := s.claims.msgs ++ [(id, c.g.kernel, m)] }
  sendClaim c.g.owner c.core (.claimCore c.core) (podClaims s c.g) (.claim id) s

/-- The home's debug log of a context that lxdb is attached to (R359). -/
def claimLog (k slot : Nat) (e : ClaimEvent) (s : State) : State :=
  match s.kernel? k with
  | none => s
  | some kn =>
    if s.dbg.attach.any (·.2 == kn.ctx) then
      s.setClaims { s.claims with log := ⟨s.now, kn.ctx, k, slot, kn.clbase.getD 0 + slot, kn.start, e⟩ :: s.claims.log }
    else s

/-- A reply of the home is admitted at its port (R359). -/
def replyAdmit (req : Nat) (s : State) : State :=
  match s.claims.replies.find? (·.req == req) with
  | none => s
  | some x => s.setClaims { s.claims with
      replies := s.claims.replies.filter (·.req != req)
      log := (x.note.map fun n => { n with cycle := s.now }).toList ++ s.claims.log }

/-- A claim message across a pod (R346, R392): what it says to the job's switch, if it proposes or objects. -/
def claimFlit (s : State) (k id : Nat) (m : ClaimMsg) : Flit :=
  let kn := s.kernel? k
  let job := ((kn.bind (·.podjob)).map (·.1)).getD 0
  let say : Option PodMsg := match m with
    | .propose slot ticket val lab _ core pos t => some (.propose slot ticket val core pos t lab)
    | .object ticket lab .. => some (.object ticket lab)
    | _ => none
  let owner := (kn.map (·.owner)).getD 0
  let ctx := (kn.map (·.ctx)).getD 0
  { srcpkg := s.link.pkgId, dstpkg := s.link.pkgId, dom := ((s.owner? owner).map (·.dom)).getD 0, tenant := (s.ctx ctx).latched.tenant, ctx, vc := .claim
    tc := 0, path := 0, seq := 0, tag := 0, gen := 0, type := .claimMsg, age := 0, of := false, dep := false, owner, req := id, bytes := [], base := 0
    map := [], pod := say.map fun x => (job, x) }

/-- The port by which claim messages leave for the pod job's switch: the lowest that is UP (LOG 38). -/
def claimPort (s : State) : Option Nat := (List.range s.link.ports.length).find? fun p => (s.link.ports[p]?).any (·.st = .up)

def ClaimMsg.at (t : Nat) : ClaimMsg → ClaimMsg
  | .propose slot ticket val lab pkg core pos _ => .propose slot ticket val lab pkg core pos t
  | m => m

/-- A message is admitted: a proposal's claim time is the cycle in which its slot starts at the core's port (R348); a message of a pod claim
group goes out as a flit (R392). -/
def claimAdmit (r : Req) (s : State) : State :=
  let s := replyAdmit r.id s
  match r.purpose with
  | .claim id =>
    let s := s.setClaims { s.claims with msgs := amend (·.1 == id) (fun m => (m.1, m.2.1, m.2.2.at s.now)) s.claims.msgs }
    match (if r.core < 512 then s.claims.msgs.find? (·.1 == id) else none) with
    | some (_, k, m) => match (if (s.kernel? k).any (fun k => (s.ctx k.ctx).clpod && k.podjob.isSome) then claimPort s else none) with
      | some p => putFlit p (claimFlit s k id m) s
      | none => s
    | none => s
  | _ => s

/-! ### The instructions (R353 to R356) -/

/-- The release before a claim instruction is sent (R353). -/
def claimWait (c : Cur) (s : State) (go : Res) : Res :=
  let sc := claimScope s c.g
  let acks := sc = .pod
  let k : Kinds := ⟨false, true, true, true⟩
  if fenceCond s c.ref k sc acks then .wait s (.kinds k sc acks) else go

/-- The failure of a slot number beyond the kernel's (R353). -/
def slotFail (addr : Nat) (lab : Label) : Fail := ⟨permFault, addr, lab, false, false⟩

/-- CLAIM (R354). -/
def execClaim (p : Bool) (d a b : Reg) : State → Out := issue (.claim p d a b) { p, entry := true } fun c s => claimWait c s <|
  let slot := (sval c.w b).toNat % 256
  let ticket := ticketOf slot (claimMember s c.g) c.ref.wave c.w.claims
  let lab := slab c.w b ||| c.w.ctxlbl
  let s := s.updWave c.ref fun w => { w with claims := (w.claims + 1) % 2 ^ 14 }
  if slot ≥ claimSlots s c.g then .done (pushTimed c 16 { Pend.blank "CLAIM" with fail := some (slotFail slot lab) } s)
  else
    let s := pushTimed c 16 { Pend.blank "CLAIM" with ws := [RegWrite.uni d (nat32 ticket) lab] } s
    let pos := (c.g.place.bind fun p => p.pos[c.ref.wave]?).getD 0
    .done (postClaim c (.propose slot ticket (sval c.w a) (slab c.w a ||| lab) s.link.pkgId c.core pos 0) s)

/-- OBJECT (R354). -/
def execObject (p : Bool) (a : Reg) : State → Out := issue (.object p a) { p } fun c s => claimWait c s <|
  let ticket := (sval c.w a).toNat
  let s := s.updWave c.ref fun w => w.absorb (slab c.w a)
  if ticketSlot ticket ≥ claimSlots s c.g then .done (pushFail c (slotFail ticket (slab c.w a)) "OBJECT" s)
  else
    let (id, s) := pushEntry c { Pend.blank "OBJECT" with entry := false } s
    .done (postClaim c (.object ticket (slab c.w a ||| c.w.ctxlbl) c.ref id) s)

/-- CLWAIT (R355). -/
def execClwait (p : Bool) (d a : Reg) : State → Out := issue (.clwait p d a) { p, entry := true } fun c s => claimWait c s <|
  let ticket := (sval c.w a).toNat
  let lab := slab c.w a ||| c.w.ctxlbl
  if ticketSlot ticket ≥ claimSlots s c.g then .done (pushTimed c 16 { Pend.blank "CLWAIT" with fail := some (slotFail ticket lab) } s)
  else
    let (id, s) := pushEntry c { Pend.blank "CLWAIT" with ws := [RegWrite.uni d 0 lab] } s
    .done (postClaim c (.query ticket c.ref id) s)

/-- CLRD (R356). -/
def execClrd (p : Bool) (d b : Reg) : State → Out := issue (.clrd p d b) { p, entry := true } fun c s => claimWait c s <|
  let slot := (sval c.w b).toNat % 256
  let lab := slab c.w b ||| c.w.ctxlbl
  if slot ≥ claimSlots s c.g then .done (pushTimed c 16 { Pend.blank "CLRD" with fail := some (slotFail slot lab) } s)
  else
    let (id, s) := pushEntry c { Pend.blank "CLRD" with ws := pairRes d 0 0 lab } s
    .done (postClaim c (.read slot c.ref id) s)

/-! ### The home (R347, R349 to R352) -/

/-- Rank of a message's handling within a cycle (R347). -/
def claimRank : ClaimMsg → Nat
  | .propose .. => 0
  | .object .. => 1
  | .query .. => 2
  | .read .. => 2
  | .verdict .. => 3

/-- Whether a resolution is due in this cycle, or a message of a lower rank still arrives in it (R347). -/
def earlierClaims (s : State) (rank : Nat) : Bool :=
  s.agenda.any fun e => e.1 == s.now && (match e.2 with
    | .claimClose _ => true
    | .proposalArrive _ => decide (0 < rank)
    | .objectionArrive _ => decide (1 < rank)
    | .paddedServiceComplete r => match s.req? r with
      | some q => match q.purpose, q.legs with
        | .claim id, [_] => (s.claims.msgs.find? (·.1 == id)).any fun m => decide (claimRank m.2.2 < rank)
        | _, _ => false
      | none => false
    | _ => false)

/-- A message arrives at the home: its kernel and contents; it is handled after those of lower rank of its cycle. -/
def homeTake (name : String) (self : Instr) (m : Nat) (f : Nat → ClaimMsg → State → State) (s : State) : Out :=
  match s.claims.msgs.find? (·.1 == m) with
  | none => .refused (.notEnabled name)
  | some (_, k, msg) =>
    if earlierClaims s (claimRank msg) then .next (s.schedule s.now self)
    else .next (f k msg (s.setClaims { s.claims with msgs := s.claims.msgs.filter (·.1 != m) }))

def claimSlotAt (s : State) (n : Nat) : Option ClaimSlot := s.claims.slots.find? (·.n == n)
def putClaimSlot (x : ClaimSlot) (s : State) : State :=
  s.setClaims { s.claims with slots := amend (·.n == x.n) (fun _ => x) s.claims.slots }
def kernelPod (s : State) (k : Nat) : Bool :=
  (s.kernel? k).any fun k => (s.ctx k.ctx).clpod && k.podjob.isSome
def kernelOwner (s : State) (k : Nat) : Nat := ((s.kernel? k).map (·.owner)).getD 0

/-- The core of a wave and its barrel position. -/
def seatOf (s : State) (w : WaveRef) : Nat × Nat :=
  match s.group? w.gid with
  | some g => (((g.place.map (·.core)).getD 0), (g.place.bind fun p => p.pos[w.wave]?).getD 0)
  | none => (0, 0)

/-- A reply of the home to a wave: replies of one cycle enter the port's queue in ascending identity of their waves (R360), those of one wave in
the order in which it issued what they answer (R29). -/
def sendReply (k slot : Nat) (w : WaveRef) (pend : Nat) (p : Purpose) (e : Nat → Nat → ClaimEvent) (s : State) : State :=
  let seat := seatOf s w
  let pod := kernelPod s k
  let (id, t) := newReq (kernelOwner s k) 512 (.rota .claim .claimHome :: (if pod then [.hold (10800 - 1440)] else [])) p s
  let t := setReqs t (amend (·.id == id) (fun r => { r with inp := 16 * seat.1 + seat.2, ord := pend }) t.rota.reqs)
  let note := (s.kernel? k).bind fun kn =>
    if s.dbg.attach.any (·.2 == kn.ctx) then
      some (⟨0, kn.ctx, k, slot, kn.clbase.getD 0 + slot, kn.start, e seat.1 (if pod then 10800 else 1440)⟩ : ClaimLog)
    else none
  startLeg id (t.setClaims { t.claims with replies := t.claims.replies ++ [⟨id, seat.1, pend, note⟩] })

/-- A reply of the home that fills an entry with one value. -/
def replyOutcome (k slot code : Nat) (lab : Label) (w : WaveRef) (pend : Nat) (s : State) : State :=
  let s := updPend w pend (fun p => { p with ws := p.ws.map fun r => { r with vals := [nat32 code], lab := r.lab ||| lab } }) s
  sendReply k slot w pend (.entryPart w pend) (fun core due => .reply core code due) s

/-- A proposal is settled: its outcome is recorded, and queries that wait for it are answered (R350, R355). -/
def settleClaim (k ticket code : Nat) (lab : Label) (s : State) : State :=
  let s := s.setClaims { s.claims with
    outs := amend (fun o => o.kernel == k && o.ticket == ticket && o.code == 0) (fun o => { o with code, lab }) s.claims.outs }
  let (now, later) := s.claims.held.partition fun h => h.1 == k && h.2.1 == ticket
  overList (fun h s => replyOutcome k (ticketSlot ticket) code lab h.2.2.1 h.2.2.2 s) now (s.setClaims { s.claims with held := later })

/-- Order of proposals: claim time, then package, core and position (R348, R350). -/
def claimBefore (a b : Proposal) : Bool :=
  decide (a.t < b.t) || (a.t == b.t && (decide (a.pkg < b.pkg) || (a.pkg == b.pkg &&
    (decide (a.core < b.core) || (a.core == b.core && decide (a.pos < b.pos))))))
def firstClaim : List Proposal → Option Proposal
  | [] => none
  | x :: l => some (l.foldl (fun b y => if claimBefore y b then y else b) x)

/-- PROPOSAL_ARRIVE (R350, R351). -/
def execProposalArrive (m : Nat) : State → Out :=
  homeTake "PROPOSAL_ARRIVE" (.proposalArrive m) m fun k msg s =>
    match msg with
    | .propose slot ticket val lab pkg core pos t =>
      match s.kernel? k with
      | none => s
      | some kn =>
        let n := kn.clbase.getD 0 + slot
        match claimSlotAt s n with
        | none => s
        | some x =>
          let s := s.setClaims { s.claims with outs := ⟨k, ticket, 0, 0⟩ :: s.claims.outs }
          if t < x.fin || x.set.length ≥ 8 then settleClaim k ticket 3 lab (claimLog k slot (.arrive ticket t val none) s)
          else
            let set := x.set ++ [⟨ticket, val, lab, t, pkg, core, pos, false, 0⟩]
            let tmin := set.foldl (fun n p => min n p.t) t
            let due := tmin + (s.ctx kn.ctx).clwin
            let s := claimLog k slot (.arrive ticket t val (some (due, x.com.isSome))) (putClaimSlot { x with set } s)
            (s.unschedule (.claimClose n)).schedule due (.claimClose n)
    | _ => s

/-- OBJECTION_ARRIVE (R352, R353). -/
def execObjectionArrive (m : Nat) : State → Out :=
  homeTake "OBJECTION_ARRIVE" (.objectionArrive m) m fun k msg s =>
    match msg with
    | .object ticket lab w pend =>
      match s.kernel? k with
      | none => s
      | some kn =>
        let n := kn.clbase.getD 0 + ticketSlot ticket
        let verdict := fun (note : ClaimNote) (s : State) =>
          let (id, s) := s.fresh
          let s := claimLog k (ticketSlot ticket) (.object ticket note) s
          -- an objection of another package's wave, whose verdict nothing waits for here
          if pend = 0 then s else
          let s := s.setClaims { s.claims with msgs := s.claims.msgs ++ [(id, k, .verdict (note = .late) ticket w pend)] }
          sendReply k (ticketSlot ticket) w pend (.claim id) (fun core due => .verdict core ticket note due) s
        match claimSlotAt s n with
        | none => verdict .void s
        | some x =>
          if x.set.any (·.ticket == ticket) then
            verdict .recorded (putClaimSlot { x with
              set := amend (·.ticket == ticket) (fun p => { p with objected := true, objlab := p.objlab ||| lab }) x.set } s)
          else if s.claims.outs.any fun o => o.kernel == k && o.ticket == ticket then verdict .late s
          else verdict .void (s.updOwner kn.owner fun o => { o with void := min 0xFFFF_FFFF (o.void + 1) })
    | _ => s

/-- CLWAIT_QUERY_ARRIVE (R355). -/
def execClwaitQueryArrive (m : Nat) : State → Out :=
  homeTake "CLWAIT_QUERY_ARRIVE" (.clwaitQueryArrive m) m fun k msg s =>
    match msg with
    | .query ticket w pend =>
      let own := ((s.group? w.gid).map fun g => ticketWho (ticketOf 0 (claimMember s g) w.wave 0)).getD 1024
      let last := (s.claims.outs.filter fun o => o.kernel == k && ticketWho o.ticket == own).take 16
      match (if ticketWho ticket == own then last.find? (·.ticket == ticket) else none) with
      | none => replyOutcome k (ticketSlot ticket) 0 0 w pend (claimLog k (ticketSlot ticket) (.query ticket false) s)
      | some o =>
        let s := claimLog k (ticketSlot ticket) (.query ticket (o.code == 0)) s
        if o.code = 0 then s.setClaims { s.claims with held := s.claims.held ++ [(k, ticket, w, pend)] }
        else replyOutcome k (ticketSlot ticket) o.code o.lab w pend s
    | _ => s

/-- CLRD_READ_ARRIVE (R356). -/
def execClrdReadArrive (m : Nat) : State → Out :=
  homeTake "CLRD_READ_ARRIVE" (.clrdReadArrive m) m fun k msg s =>
    match msg with
    | .read slot w pend =>
      match (s.kernel? k).bind fun kn => claimSlotAt s (kn.clbase.getD 0 + slot) with
      | none => s
      | some x =>
        let code := match x.com, x.set with
          | none, [] => 0
          | some _, [] => 1
          | none, _ => 2
          | some _, _ => 3
        let ticket := match firstClaim x.set with
          | some p => p.ticket
          | none => (x.com.map (·.2.1)).getD 0
        let lab := x.set.foldl (fun l p => l ||| p.lab) ((x.com.map (·.2.2)).getD 0)
        let val := (x.com.map (·.1)).getD 0
        let s := updPend w pend (fun p => { p with ws := p.ws.mapIdx fun i r =>
          { r with vals := [if i = 0 then val else nat32 (code * 2 ^ 30 + ticket % 2 ^ 24)], lab := r.lab ||| lab } }) s
        sendReply k slot w pend (.entryPart w pend) (fun core due => .value core due) (claimLog k slot (.read (seatOf s w).1) s)
    | _ => s

/-- CLAIM_CLOSE (R350, R351). -/
def execClaimClose (slot : Nat) (s : State) : Out :=
  match claimSlotAt s slot with
  | none => .refused (.notEnabled "CLAIM_CLOSE")
  | some x => match firstClaim x.set with
    | none => .refused (.notEnabled "CLAIM_CLOSE")
    | some win =>
      let lab := x.set.foldl (fun l p => l ||| p.lab ||| p.objlab) 0
      let x1 := { x with set := [], fin := s.now, com := if win.objected then x.com else some (win.val, win.ticket, win.lab) }
      let code := fun (p : Proposal) => if p.ticket = win.ticket then (if win.objected then 2 else 1) else 3
      let s := claimLog x.kernel (ticketSlot win.ticket) (.close (x.set.map fun p => (p.ticket, code p)) x1.com.isSome) (putClaimSlot x1 s)
      .next (overList (fun (p : Proposal) s => settleClaim x.kernel p.ticket (code p) lab s) x.set s)

/-- OBJECT_VERDICT_ARRIVE (R353). -/
def execObjectVerdictArrive (m : Nat) (s : State) : Out :=
  match s.claims.msgs.find? (·.1 == m) with
  | some (_, _, .verdict late ticket w pend) =>
    let s := s.setClaims { s.claims with msgs := s.claims.msgs.filter (·.1 != m) }
    .next (returnPart w pend (if late then failPend w pend ⟨claimLate, ticket, 0, false, false⟩ s else s))
  | _ => .refused (.notEnabled "OBJECT_VERDICT_ARRIVE")

/-- What a member of a pod job in another package tells the job's claim store (R342, R346): it arrives as a message of the member kernel here. -/
def podClaim (job pkg : Nat) (m : PodMsg) (s : State) : State :=
  match s.hub.kernels.find? fun k => k.live && k.podjob.map (·.1) == some job && kernelPod s k.id with
  | none => s
  | some k =>
    let post := fun (m : ClaimMsg) (i : Nat → Instr) =>
      let (id, s) := s.fresh
      (s.setClaims { s.claims with msgs := s.claims.msgs ++ [(id, k.id, m)] }).schedule s.now (i id)
    match m with
    | .propose slot ticket val core pos t lab => post (.propose slot ticket val lab pkg core pos t) .proposalArrive
    | .object ticket lab => post (.object ticket lab ⟨0, 0⟩ 0) .objectionArrive
    | _ => s

/-- What a member of a pod job in another package tells the job's switch. -/
def podMember (job pkg : Nat) (m : PodMsg) (s : State) : State :=
  match m with
  | .join .. | .leave .. | .lost _ | .arrive .. => podBarrier job pkg m s
  | .contribute fn n x grp wave lab =>
    let (id, s) := s.fresh
    nredEnter ⟨id, ⟨0, wave⟩, 0, 0, some job, pkg, grp, fn, n, x, lab⟩ s
  | .propose .. | .object .. => podClaim job pkg m s

end Sys2Proof.Machine
end

