-- ==== Sys2Proof/Machine/Tensor.lean ====
section
/-! DEFINITION. Tensor identifiers, the engines' accesses and failures, TSET and MLDB (spec/21_engines.md R361 to R369). -/

namespace Sys2Proof.Machine

/-! ### Descriptors (R362, R363) -/

/-- Bytes of an element; INT4 packs two in one. -/
def elemSize (fmt : Nat) : Nat :=
  match fmt with
  | 5 => 2
  | 6 => 4
  | 7 => 8
  | _ => 1

/-- An n-bit field as a signed number. -/
def signedFld (n v : Nat) : Int := if v ≥ 2 ^ (n - 1) then (v : Int) - 2 ^ n else v

def Tid.size (t : Tid) : Nat := elemSize t.fmt
def Tid.extent (t : Tid) (d : Nat) : Nat := t.dim.getD d 1

/-- Byte offset of an element (R364). -/
def Tid.offset (t : Tid) (e : List Nat) : Nat :=
  let e0 := e.getD 0 0
  (if t.fmt = 1 then e0 / 2 else e0 * t.size)
    + ((List.range 4).map fun d => e.getD (d + 1) 0 * t.stride.getD d 0).sum
/-- Whether some coordinate lies beyond its extent. -/
def Tid.beyond (t : Tid) (e : List Nat) : Bool := (List.range 5).any fun d => decide (t.extent d ≤ e.getD d 0)
/-- Address of an element's block exponent (R364). -/
def Tid.beAddr (t : Tid) (e : List Nat) : Nat :=
  t.be + e.getD 0 0 / 32 + (t.extent 0 + 31) / 32 *
    (e.getD 1 0 + t.extent 1 * (e.getD 2 0 + t.extent 2 * (e.getD 3 0 + t.extent 3 * e.getD 4 0)))

/-- The entry of a descriptor's 512 bits, checked by R363. -/
def tidOf (d : Nat) (lab : Label) : Tid :=
  let t : Tid :=
    { st := .valid, scratch := fld d 495 1 == 1, rank := fld d 492 3, fmt := fld d 488 4
      se := signedFld 8 (fld d 480 8), stride := [fld d 288 48, fld d 336 48, fld d 384 48, fld d 432 48]
      dim := [fld d 128 32, fld d 160 32, fld d 192 32, fld d 224 32, fld d 256 32], be := fld d 64 56, base := fld d 0 56, lab }
  let bad1 := fld d 496 16 != 0 || fld d 56 8 != 0 || fld d 120 8 != 0 || decide (t.fmt ≥ 8) || t.rank == 0 || decide (t.rank ≥ 6)
  let bad2 := ((List.range 5).any fun k => if k < t.rank then t.extent k == 0 else t.extent k != 1) || (t.fmt == 1 && t.extent 0 % 2 == 1)
  let bad3 := t.base % t.size != 0 || (List.range 4).any fun k => decide (k + 1 < t.rank) && t.stride.getD k 0 % t.size != 0
  let bad4 := (decide (t.fmt ≥ 4) && (t.se != 0 || t.be != 0)) || (t.scratch && t.be != 0) ||
    (t.scratch && decide (t.base + t.offset (t.dim.map (· - 1)) ≥ 2 ^ 32))
  if bad1 then { t with st := .invalid 1 }
  else if bad2 then { t with st := .invalid 2 }
  else if bad3 then { t with st := .invalid 3 }
  else if bad4 then { t with st := .invalid 4 }
  else t

/-- The entry as a core captures it (R361): PENDING while a TSET of it is outstanding on the core. -/
def tidAt (s : State) (ctx core tid : Nat) : Tid :=
  let t := look Tid.reset tid (s.ctx ctx).tids
  if s.eng.tsets.any fun j => j.ctx == ctx && j.core == core && j.tid == tid then { t with st := .pending } else t

/-! ### The engines' reads and writes -/

/-- What a series of reads has found: values, latest first; labels; the lines read within the package, and the requests for those off it; the
ways that its requests take, and the requests off the package with the cycle in which they leave, each with the walk that holds it back;
and whether a read failed at once. -/
structure Batch where
  vals  : List EngVal
  lab   : Label
  lines : List Line
  aways : List (MemType × Nat × Nat)
  legs  : List (List Leg × Option Nat)
  fabs  : List (Nat × Nat × Option Nat)
  over_ : Bool

def Batch.empty : Batch := ⟨[], 0, [], [], [], [], false⟩
/-- Requests of a series of reads. -/
def Batch.parts (b : Batch) : Nat := b.legs.length + b.fabs.length
def Batch.fail (cause va : Nat) (b : Batch) : Batch := { b with vals := .bad cause va :: b.vals, over_ := true }
def Batch.take (v : EngVal) (lab : Label) (b : Batch) : Batch := { b with vals := v :: b.vals, lab := b.lab ||| lab }

/-- The first failure among some values. -/
def firstBad (l : List EngVal) : Option (Nat × Nat) := l.findSome? fun v => match v with
  | .bad c a => some (c, a)
  | _ => none
def EngVal.num : EngVal → Nat
  | .val v => v
  | _ => 0

/-- A read of a line off the package (R394, R397): a request with its tag and its place, or one that waits for them. What it finds on the host
is bound here (LOG 7). -/
def readFab (src : FabSrc) (job : Purpose) (x : Who) (t : MemType) (dst line va : Nat) (s : State) : Nat × State :=
  let acc : Acc := ⟨.load, 64, [⟨0, va, 0, 0⟩], .cas, false, [], 0, 0, false, false, .wave⟩
  let (id, s) := newFab src x acc 0 0 t line dst [line] s
  let data := if t = .host then (homeBytes s.mem .host line).mapIdx fun k b => ownByte x s .host (line + k) b else []
  let s := updFab id (fun f => { f with held := true, job, data, own := detOwn x t line s }) s
  (id, if fabricReady s x.core x.owner src.tc 1 (if t.remote then [dst] else []) then claimFab id s else s)

/-- Read n bytes for an engine or the gate, as a load of a wave, or from its group's scratch. -/
def engRead (src : FabSrc) (job : Purpose) (x : Who) (scratch : Bool) (a n : Nat) (b : Batch) (s : State) : Batch × State :=
  if b.over_ then (b, s)
  else if scratch then
    match s.held? x.ref.gid with
    | none => (b.fail scratchRange a, s)
    | some g => (if scratchOk g a n true then b.take (.val (scratchVal g a n)) (scratchLab g a) else b.fail scratchRange a, s)
  else
    let (q, s) := translate x.core x.owner x.ctx a .load s
    match q.res with
    | .error cause => ({ b.fail cause (a % 2 ^ 56) with legs := if q.walk.isSome then b.legs ++ [([], q.walk)] else b.legs }, s)
    | .ok t =>
      let pa := t.pa + (a - t.va)
      let line := lineOf pa
      let m := b.parts
      let lead := if m = 0 then [] else [Leg.hold m]
      let found := fun (y : Line) (s : State) => EngVal.val (laneVal x s true y n pa)
      if t.typ = .mmio then
        let v := (Config.mmio s.mem.reads pa).toNat % 2 ^ (8 * n)
        ({ b.take (.val v) t.lab with legs := b.legs ++ [(lead ++ mmioWay x line s, q.walk)] }, s.setMem { s.mem with reads := s.mem.reads + 1 })
      else match b.lines.find? (fun y => y.typ = t.typ && y.pa == line), b.aways.find? fun e => e.1 = t.typ && e.2.1 == line with
        | some y, _ => (b.take (found y s) t.lab, s)
        | none, some e => (b.take (.away e.2.2 pa n a) t.lab, s)
        | none, none =>
          let (y, served, s) := loadLine x.core x.owner t.typ line false (copyFree x t.typ line [(pa, n)] s) s
          match served with
          | .off =>
            let (id, s) := readFab src job x t.typ t.peer line a s
            ({ b.take (.away id pa n a) t.lab with aways := (t.typ, line, id) :: b.aways, fabs := b.fabs ++ [(id, m, q.walk)] }, s)
          | .l1 => ({ b.take (found y s) t.lab with lines := y :: b.lines, legs := b.legs ++ [([.hold (24 + m)], q.walk)] }, s)
          | .way l => ({ b.take (found y s) t.lab with lines := y :: b.lines, legs := b.legs ++ [(lead ++ l, q.walk)] }, s)

/-- Send the requests of a series of reads: those within the package for a purpose. -/
def sendBatch (x : Who) (p : Purpose) (b : Batch) (s : State) : State :=
  let s := b.legs.foldl (fun s e => match e.2 with
    | none => sendReq x.owner x.core e.1 p s
    | some k =>
      let (q, s) := newReq x.owner x.core e.1 p s
      awaitWalk k q s) s
  b.fabs.foldl (fun s e => goFab e.1 e.2.1 e.2.2 s) s

/-- The checks of an engine's write or counter add: where it goes, or the failing check's cause. -/
def engCheck (x : Who) (k : AccKind) (a : Nat) (dl : Label) (s : State) : Except Nat (MemType × Nat × Nat) × State :=
  let (q, s) := translate x.core x.owner x.ctx a k s
  match q.res with
  | .error cause => (.error cause, s)
  | .ok t => match labelCheck t.typ dl t.lab with
    | some cause => (.error cause, s)
    | none => (.ok (t.typ, t.pa + (a - t.va), t.peer), s)

/-- One write of an engine, the gate or the hub: type, physical address, virtual address, bytes. -/
structure EngWrite where
  typ : MemType
  pa  : Nat
  va  : Nat
  bs  : List Byte

/-- Neighbouring writes of one line together: one request each. -/
def joinWrites : List EngWrite → List EngWrite
  | [] => []
  | w :: l => match joinWrites l with
    | [] => [w]
    | v :: r =>
      if w.typ ≠ .mmio && v.typ = w.typ && v.pa == w.pa + w.bs.length && lineOf v.pa == lineOf w.pa then
        { w with bs := w.bs ++ v.bs } :: r
      else w :: v :: r

/-- What one line's write or atomic on LOCAL memory makes of traffic: to its home and back, and to HBM where the MSC misses (R17, R19, R22). -/
def homeTraffic (x : Who) (line : Nat) (miss : Bool) (s : State) : State :=
  let way := if 512 ≤ x.core then hubHome line miss
    else
      let sl := sliceOf s x.owner (dieOf x.core) line
      toSlice x.core sl ++ homeWay x.core sl line miss ++ fromSlice x.core sl
  sendReq x.owner x.core way .idle s

/-- A write of an engine, the gate or the hub: performed at once on LOCAL and HOST memory and at a register (LOG 7), posted to a home off the
package, with the step of the device that goes on when it has been acknowledged. -/
def engPut (src : FabSrc) (x : Who) (pc : Nat) (job : Purpose) (w : EngWrite) (s : State) : State :=
  let line := lineOf w.pa
  let bytes := w.bs.mapIdx fun k b => (w.pa + k, b)
  match w.typ with
  | .mmio => s.setMem { s.mem with mmio := (w.pa, w.bs.length, leVal w.bs) :: s.mem.mmio }
  | .loc =>
    let miss := (mscMisses x.owner [line] s).headD false
    homeTraffic x line miss (postLine src x .loc line pc w.va false .idle bytes s)
  | t => postLine src x t line pc w.va false job bytes s
def engPuts (src : FabSrc) (x : Who) (pc : Nat) (l : List EngWrite) (s : State) : State :=
  (joinWrites l).foldl (fun s w => engPut src x pc .idle w s) s

/-- Whether a command's posted writes hold back what follows them at a scope (R231): acknowledgements at POD and SYS, else posting. -/
def postsOut (s : State) (cmd : Nat) (sc : Scope) : Bool :=
  let wide := match sc with
    | .pod | .sys => true
    | _ => false
  s.mem.fabs.any fun f => !f.gone && !f.reads && (wide || !f.started || f.path == 4) && (match f.src with
    | .engine _ c => c == cmd
    | _ => false)

def homeVal (m : Mem) (t : MemType) (pa n : Nat) : Nat :=
  match t with
  | .loc => cellVal m.cells pa n
  | .host => cellVal m.host pa n
  | _ => cellVal m.remote pa n

/-- One increment of a 64-bit counter (R294, R376): an atomic of 8 bytes that a home off the package performs; on the host, whose new value the
bridge has still to write (R224). -/
def addOne (src : FabSrc) (x : Who) (t : MemType) (pa va : Nat) (job : Purpose) (s : State) : State :=
  let line := lineOf pa
  let new := fun (s : State) => leBytes 8 ((homeVal s.mem t pa 8 + 1) % 2 ^ 64)
  let a : Acc := ⟨.atomic, 8, [⟨0, va, 1, 0⟩], .arith .add, false, [], 0, 0, false, false, .pod⟩
  match t with
  | .mmio =>
    let v := (Config.mmio s.mem.reads pa).toNat + 1
    s.setMem { s.mem with reads := s.mem.reads + 1, mmio := (pa, 8, v % 2 ^ 64) :: s.mem.mmio }
  | .loc => engPut src x 0 .idle ⟨.loc, pa, va, new s⟩ (markMixed .loc line s)
  | .host =>
    let s := markMixed .host line s
    (postAtom src x a .host pa none job (dropLine .host line (putBytes .host pa (new s) s))).2
  | t => (postAtom src x a t pa none job s).2

/-- An engine adds 1 to its completion counter, as an atomic in the context (R376). -/
def counterAdd (src : FabSrc) (x : Who) (a : Nat) (dl : Label) (s : State) : Except Nat Unit × State :=
  match engCheck x .atomic a dl s with
  | (.error cause, s) => (.error cause, s)
  | (.ok (t, pa, _), s) => (.ok (), addOne src x t pa a .idle s)

/-- An engine failure is recorded in its group (R367). -/
def engineError (gid kind cause addr : Nat) (lab : Label) : State → State :=
  State.updGroup gid fun g => { g with eseq := g.eseq + 1, ekind := kind, ecause := cause, eaddr := addr % 2 ^ 56, elbl := g.elbl ||| lab }

/-- The identity of an engine command for its accesses. -/
def whoOf (s : State) (r : WaveRef) (core : Nat) : Who :=
  match s.held? r.gid with
  | some g => g.who r core
  | none => ⟨r, core, 0, 0, 0, false⟩

/-- TRAPADDR of a TID_INVALID trap: the entry's number low, the reason high (R366). -/
def tidTrap (s : State) (low reason : Nat) (lab : Label) : Res := .trap s tidInvalid (low + 2 ^ 32 * reason) lab

/-! ### TSET (R365) -/

/-- A TSET, as an instruction or as a replay sends it: its read is a load of the wave; behind an unreported failure it is only
recorded (R56). -/
def runTset (x : Who) (d tid : Nat) (al : Label) (pc : Nat) (s : State) : State :=
  let (id, s) := s.fresh
  let p := { Pend.blank "TSET" with id, entry := false, pc, job := .tset d tid al }
  let push := fun (p : Pend) (s : State) => s.updWave x.ref fun w => { w with pend := w.pend ++ [p] }
  if (s.wave? x.ref).any (fun w => w.pend.any (·.fail.isSome)) then push { p with left := 0 } s
  else
    let (b, s) := engRead .wave (.tset id) x false d 64 .empty (push p s)
    let j : TsetJob := ⟨id, x.ref, id, x.ctx, tid, x.core, b.vals.headD (.val 0), al ||| b.lab⟩
    let s := s.setEng { s.eng with tsets := s.eng.tsets ++ [j] }
    if b.parts = 0 then s.schedule s.now (.tsetDescriptorDone id) else sendBatch x (.tset id) b s

/-- TSET (R365): as a load of the wave, its read stands behind a RELEASE of the wave (R210). -/
def execTset (p : Bool) (a : Reg) (tid : Fin 256) : State → Out := issue (.tset p a tid) { p } fun c s =>
  let d := c.w.pair a
  let al := c.w.pairLab a ||| c.w.ctxlbl
  if d % 64 != 0 then .trap s misalign d al else if gateOut s c.ref then .wait s .gate else .done (runTset c.who d tid al c.pc s)

/-- TSET_DESCRIPTOR_DONE (R363, R365): the descriptor is there, or its read has failed; every copy of the table holds the new entry. -/
def execTsetDescriptorDone (t : Nat) (s : State) : Out :=
  match s.eng.tsets.find? fun j => j.id == t && j.got.there with
  | none => .refused (.notEnabled "TSET_DESCRIPTOR_DONE")
  | some j =>
    let s := s.setEng { s.eng with tsets := s.eng.tsets.filter (·.id != t) }
    let al : Label := ((s.wave? j.w).bind fun w => w.pend.findSome? fun p => match p.job with
      | .tset _ _ al => if p.id = j.pend then some al else none
      | _ => none).getD 0
    let (ent, s) := match j.got with
      | .bad cause va => ({ Tid.reset with st := .invalid 1 }, failPend j.w j.pend ⟨cause, va, al, cause == pageFault || cause == fabTimeout, false⟩ s)
      | v => (tidOf v.num j.lab, s)
    .next (returnDone j.w j.pend (s.updCtx j.ctx fun y => { y with tids := enter j.tid ent y.tids }))

/-! ### The parameter block (R370) -/

def paramVal (p : List Byte) (o n : Nat) : Nat := leVal ((p.drop o).take n)

namespace Mma
def atid (m : Mma) : Nat := paramVal m.param 0 1
def prio (m : Mma) : Nat := paramVal m.param 3 1 % 4
def acci (m : Mma) : Bool := paramVal m.param 3 1 / 4 % 2 == 1
def acq (m : Mma) : Bool := paramVal m.param 3 1 / 8 % 2 == 1
def scopeCode (m : Mma) : Nat := paramVal m.param 3 1 / 32
def coord (m : Mma) (k : Nat) : Nat := paramVal m.param (4 + 4 * k) 4
def accAt (m : Mma) : Nat := paramVal m.param 24 4
def stride (m : Mma) : Nat := paramVal m.param 28 4
def doneVa (m : Mma) : Nat := paramVal m.param 32 8
def nk (m : Mma) : Nat := m.macs.length
/-- Rows that have completed stage b. -/
def rowsDone (m : Mma) (b : Nat) : Nat := m.done.getD b 0
/-- Serial width of A (R102): cycles of a stage per row. -/
def width (m : Mma) : Nat :=
  match m.ent.fmt with
  | 0 => 8
  | 1 => 4
  | 2 => 5
  | _ => 3
end Mma

/-- The banks that a row of C touches take the accumulator's label (R372). -/
def labelC (m : Mma) (g : Group) : Group :=
  let hit := fun (k : Nat) => (List.range m.rows).any fun i =>
    let lo := m.accAt + i * m.stride
    decide (lo / bankSize ≤ k) && decide (k ≤ (lo + 511) / bankSize)
  { g with wlab := g.wlab.mapIdx fun k l => if hit k then l ||| m.lab else l }

/-! ### MLDB (R369) -/

/-- Bits of 0 to 3 as macro numbers. -/
def maskMacros (m : Nat) : List Nat := (List.range 4).filter fun k => m / 2 ^ k % 2 == 1

def macroBusy (s : State) (core m : Nat) : Bool :=
  s.eng.mmas.any fun x => x.core == core && x.macs.contains m && x.st ≠ .saved

/-- The element coordinates of a tile, in ascending (k, n) order. -/
def tileCoords (o : List Nat) : List (List Nat) :=
  (List.range 128).flatMap fun k => (List.range 128).map fun n => (o.getD 0 0 + n) :: (o.getD 1 0 + k) :: o.drop 2

/-- Read some elements in order, each its byte and then its block exponent; beyond the extent nothing is read. -/
def elemsRead (src : FabSrc) (job : Purpose) (x : Who) (t : Tid) (l : List (List Nat)) (s : State) : Batch × State :=
  l.foldl (fun (r : Batch × State) e =>
    if t.beyond e then r
    else
      let (b, s) := engRead src job x t.scratch (t.base + t.offset e) 1 r.1 r.2
      if t.be = 0 then (b, s) else engRead src job x false (t.beAddr e) 1 b s) (.empty, s)

/-- The codes and block exponents of some elements, given what their reads found in order; beyond the extent a zero. -/
def elemsOf (t : Tid) (l : List (List Nat)) (vals : List EngVal) : List Byte × List Int :=
  let r := l.foldl (fun (r : List Byte × List Int × List EngVal) e =>
    if t.beyond e then ((0 : Byte) :: r.1, (0 : Int) :: r.2.1, r.2.2)
    else
      let v := (r.2.2.headD (.val 0)).num
      let code := if t.fmt = 1 then (if e.getD 0 0 % 2 = 0 then v % 16 else v / 16) else v
      let rest := r.2.2.drop 1
      if t.be = 0 then (BitVec.ofNat 8 code :: r.1, (0 : Int) :: r.2.1, rest)
      else (BitVec.ofNat 8 code :: r.1, signedFld 8 (rest.headD (.val 0)).num :: r.2.1, rest.drop 1)) ([], [], vals)
  (r.1.reverse, r.2.1.reverse)

/-- MLDB (R369, m is the macro). -/
def execMldb (p : Bool) (a : Reg) (m : Fin 4) (tid : Fin 256) : State → Out := issue (.mldb p a m tid) { p } fun c s =>
  let t := tidAt s c.g.ctx c.core tid
  let regs : List Reg := (List.range 5).map fun k => Fin.ofNat 64 (a.val + k)
  let lab := regs.foldl (fun l r => l ||| slab c.w r) c.w.ctxlbl
  match t.st with
  | .pending => .wait s (.tidPending [tid])
  | .invalid n => tidTrap s tid n 0
  | .valid =>
    if t.fmt ≥ 4 then tidTrap s tid 5 0
    else if macroBusy s c.core m then .wait s (.macroBusy m)
    else
      if fenceCond s c.ref allKinds .pkg false then .wait s (.kinds allKinds .pkg false)
      else
        let x := c.who
        let org := regs.map fun r => (sval c.w r).toNat
        let (id, s) := s.fresh
        let (b, s) := elemsRead (.engine 0 id) (.mldb id) x t (tileCoords org) s
        let j : MldbJob := ⟨id, c.g.gid, c.core, m, t, org, b.vals.reverse, lab ||| b.lab ||| t.lab, b.parts, lab ||| t.lab⟩
        let s := s.setEng { s.eng with mldbs := s.eng.mldbs ++ [j] }
        let s := s.updCore c.core fun k => { k with
          macros := k.macros.modify m fun x => { x with tag := some c.g.gid, loading := some id } }
        .done (if b.parts = 0 then s.schedule s.now (.mldbLoadComplete id) else sendBatch x (.mldb id) b s)

/-- Start the engine of a core at its next decision (R373). -/
def kickMma (core : Nat) (s : State) : State := s.scheduleOnce s.now (.mmaStart core)

/-- An MMA fails: it is recorded in its group, C takes its label (R372), and the engine goes on (R367). -/
def mmaFail (id cause addr : Nat) (s : State) : State :=
  match s.eng.mmas.find? (·.id == id) with
  | none => s
  | some m =>
    let s := s.setEng { s.eng with mmas := s.eng.mmas.filter (·.id != id) }
    kickMma m.core (engineError m.gid 1 cause addr m.lab (s.updGroup m.gid (labelC m)))

/-- MLDB_LOAD_COMPLETE (R369): the macro holds its tile, and the MMAs held for it go on; a failed load leaves no tag. -/
def execMldbLoadComplete (l : Nat) (s : State) : Out :=
  match s.eng.mldbs.find? fun j => j.id == l && j.vals.all EngVal.there with
  | none => .refused (.notEnabled "MLDB_LOAD_COMPLETE")
  | some j =>
    let s := s.setEng { s.eng with mldbs := s.eng.mldbs.filter (·.id != l) }
    let upd := fun (f : Macro → Macro) (s : State) => s.updCore j.core fun k =>
      { k with macros := k.macros.modify j.mac fun x => if x.loading = some l then f x else x }
    match firstBad j.vals with
    | none =>
      let (src, be) := elemsOf j.ent (tileCoords j.org) j.vals
      let t : Tile := ⟨j.mac, j.ent.fmt, src, j.ent.se, be, j.tlab⟩
      let s := upd (fun x => { x with tile := t, loading := none }) s
      let take := fun (m : Mma) => if m.hold.contains l then
        { m with hold := m.hold.filter (· != l), tiles := m.tiles.map (fun y => if y.mac == j.mac then t else y), lab := m.lab ||| t.lab } else m
      .next (kickMma j.core (s.setEng { s.eng with mmas := s.eng.mmas.map take }))
    | some f =>
      let s := engineError j.gid 0 f.1 f.2 j.lab (upd (fun x => { x with tag := none, loading := none }) s)
      .next (overList (fun (m : Mma) s => if m.hold.contains l then mmaFail m.id f.1 f.2 s else s) s.eng.mmas s)

end Sys2Proof.Machine
end

