-- ==== Sys2Proof/Machine/Matrix.lean ====
section
/-! DEFINITION. MMA: the parameter block, the engine's queue, stages and stops, MQRY (spec/21_engines.md R370 to R378;
spec/05_numbers.md R102 to R107). -/

namespace Sys2Proof.Machine

/-! ### The parameter block (R370) -/

/-- Whether the fields have values of R370. -/
def paramOk (p : List Byte) : Bool :=
  let mask := paramVal p 1 1
  let rows := paramVal p 2 1
  let f := paramVal p 3 1
  decide (0 < mask) && decide (mask < 16) && decide (1 ≤ rows) && decide (rows ≤ 128)
    && (if f / 8 % 4 = 0 then f / 32 == 0 else decide (f / 32 ≤ 6))
    && paramVal p 24 4 % 4 == 0 && paramVal p 28 4 % 4 == 0 && decide (512 ≤ paramVal p 28 4) && paramVal p 32 8 % 8 == 0
    && paramVal p 40 24 == 0

/-- Scopes by code (R59). -/
def scopeOf (n : Nat) : Scope :=
  match n with
  | 0 => .wave
  | 1 => .grp
  | 2 => .quad
  | 3 => .die
  | 4 => .pkg
  | 5 => .pod
  | _ => .sys

/-! ### Order with respect to the wave's accesses (R231) -/

/-- Whether an access that a wave issued before number n is not yet performed with respect to a scope. -/
def earlierOut (s : State) (r : WaveRef) (n : Nat) (sc : Scope) : Bool :=
  let mem := { s.mem with fabs := s.mem.fabs.filter fun f => decide ((f.src.command.getD f.id) < n), stores := s.mem.stores.filter fun f => decide (f.id < n) }
  let eng := { s.eng with
    tsets := s.eng.tsets.filter fun t => decide (t.id < n)
    copies := s.eng.copies.filter fun c => decide (c.id < n)
    fetch := s.eng.fetch.filter fun c => decide (c.id < n)
    mmas := s.eng.mmas.filter fun m => decide (m.id < n) }
  let gate := { s.gate with rels := s.gate.rels.filter fun x => decide (x.id < n), lnchs := s.gate.lnchs.filter fun x => decide (x.id < n) }
  outstanding (((s.setMem mem).setEng eng).setGate gate) r allKinds sc

/-! ### The debugger's record (R385) -/

def recordEngine (gid : Nat) (e : String) (s : State) : State :=
  match s.group? gid with
  | none => s
  | some g =>
    if s.dbg.watch && s.dbg.attach.any (·.2 == g.ctx) then
      s.setDbg { s.dbg with elog := (s.now, toString g.lin ++ " " ++ e) :: s.dbg.elog }
    else s

def rowsText (m : Mma) : String := m.done.foldl (fun t n => t ++ " " ++ toString n) " ROWSDONE"

/-! ### Reads of A (R372) -/

def updMma (id : Nat) (f : Mma → Mma) (s : State) : State :=
  s.setEng { s.eng with mmas := amend (·.id == id) f s.eng.mmas }
def State.mma? (s : State) (id : Nat) : Option Mma := s.eng.mmas.find? (·.id == id)

/-- The elements of A that a row needs, k-block by k-block. -/
def rowCoords (m : Mma) (i : Nat) : List (List Nat) :=
  (List.range (128 * m.nk)).map fun k => [m.coord 0 + k, m.coord 1 + i, m.coord 2, m.coord 3, m.coord 4]

/-- Read one row, as loads of the wave; scratch gives its data after its 16 cycles. -/
def askRow (id i : Nat) (s : State) : State :=
  match s.mma? id with
  | none => s
  | some m =>
    let x := whoOf s m.w m.core
    let (b, s) := elemsRead (.engine 1 id) (.mmaRow id i) x m.ent (rowCoords m i) s
    let row : ARow := ⟨i, b.vals.reverse, [], [], b.lab, b.parts, false⟩
    let s := updMma id (fun m => { m with adata := m.adata ++ [row] }) s
    if b.parts = 0 then s.schedule (s.now + 16) (.mmaADataArrive id i) else sendBatch x (.mmaRow id i) b s

/-- The reads of an MMA, from its lowest row that is not complete; an acquire holds them back (R231). -/
def askRows (id : Nat) (s : State) : State :=
  match s.mma? id with
  | none => s
  | some m =>
    if m.asked || m.st = .saved || (m.acq && earlierOut s m.w m.id (scopeOf m.scopeCode)) then s
    else
      let s := updMma id (fun m => { m with asked := true }) s
      let first := m.rowsDone (m.nk - 1)
      ((List.range (m.rows - first)).map (· + first)).foldl (fun s i => askRow id i s) s

/-! ### MMA (R371) -/

/-- MMAs in a core's queue: issued, not running and not complete. -/
def queuedMmas (s : State) (core : Nat) : Nat := (s.eng.mmas.filter fun m => m.core == core && m.st = .queued).length

/-- MMA (R371). -/
def execMma (p : Bool) (a : Reg) : State → Out := issue (.mma p a) { p } fun c s =>
  let o := (sval c.w a).toNat
  if o % 64 != 0 then .trap s misalign o (slab c.w a)
  else if !scratchOk c.g o 64 true then .trap s scratchRange o (slab c.w a)
  else
    let prm := leBytes 64 (scratchVal c.g o 64)
    let acc := paramVal prm 24 4
    let span := (paramVal prm 2 1 - 1) * paramVal prm 28 4 + 512
    if paramOk prm && !scratchOk c.g acc span false then .trap s scratchRange acc (slab c.w a ||| scratchLab c.g o)
    else
      let plab := slab c.w a ||| scratchLab c.g o
      if !paramOk prm then tidTrap s o 7 plab else
      let atid := paramVal prm 0 1
      let ent := tidAt s c.g.ctx c.core atid
      match ent.st with
      | .pending => .wait s (.tidPending [atid])
      | .invalid n => tidTrap s atid n plab
      | .valid =>
        let macs := maskMacros (paramVal prm 1 1)
        let k := s.core c.core
        if ent.fmt ≥ 4 then tidTrap s atid 5 plab
        else match macs.find? fun m => (k.macros.getD m Macro.empty).tag != some c.g.gid with
          | some m => tidTrap s m 6 plab
          | none =>
            if queuedMmas s c.core ≥ 16 then .wait s .mmaFull
            else
              -- a macro that is still loading gives its tile once it is loaded (R369)
              let mine := macs.map fun m =>
                let y := k.macros.getD m Macro.empty
                if y.loading.isSome then { y with tile := { Tile.none with mac := m } } else { y with tile := { y.tile with mac := m } }
              let lab := mine.foldl (fun l m => l ||| m.tile.lab) (ent.lab ||| scratchLab c.g o ||| slab c.w a ||| c.w.ctxlbl)
              let (id, s) := s.fresh
              let m : Mma :=
                { id, gid := c.g.gid, core := c.core, w := c.ref, seq := k.mmaSeq, issued := s.now, param := prm, ent, macs
                  tiles := mine.map fun m => m.tile, lab, ctxl := c.w.ctxlbl, rows := paramVal prm 2 1, done := macs.map fun _ => 0
                  adata := [], asked := false, flight := [], flags := 0, sat := false, st := .queued, stopping := false, next := 0
                  hold := mine.filterMap (·.loading) }
              let s := s.setEng { s.eng with mmas := s.eng.mmas ++ [m] }
              let s := s.updCore c.core fun k => { k with mmaSeq := k.mmaSeq + 1 }
              .done (askRows id (recordEngine c.g.gid "MMA enqueued" s))

/-! ### Arithmetic (R102 to R106) -/

/-- Value of an element with its scale (R103). -/
def elemV (fmt code : Nat) (sc : Int) : Fv :=
  let v := match fmt with
    | 0 => Fv.ofInt (signedFld 8 code)
    | 1 => Fv.ofInt (signedFld 4 (code % 16))
    | 2 => taperedV .lt8 code
    | _ => taperedV .lt6 code
  match v with
  | .fin s m e => .fin s m (e + sc)
  | v => v

/-- BlockSum (R104). -/
def blockSum (ps : List Fv) : Fv :=
  if ps.any (·.isNaN) then .nan
  else
    let tops := ps.filterMap fun p => match p with
      | .fin _ m e => if m = 0 then none else some ((Nat.log2 m : Int) + e)
      | _ => none
    match tops with
    | [] => .zero
    | t :: ts =>
      let q := ts.foldl max t - 87
      let sum := ps.foldl (fun (n : Int) p => match p with
        | .fin s m e =>
          let k : Nat := if q ≤ e then m * 2 ^ (e - q).toNat else m / 2 ^ (q - e).toNat
          if s then n - k else n + k
        | _ => n) 0
      if sum = 0 then .zero else .fin (decide (sum < 0)) sum.natAbs q

/-- The 128 elements of A of one block of a row. -/
def aBlock (m : Mma) (r : ARow) (b : Nat) : List Fv :=
  (((r.codes.drop (128 * b)).take 128).zip ((r.bes.drop (128 * b)).take 128)).map fun e => elemV m.ent.fmt e.1.toNat (m.ent.se + e.2)
/-- Column j of a tile. -/
def tileCol (t : Tile) (j : Nat) : List Fv :=
  (List.range 128).map fun k => elemV t.fmt (t.src.getD (128 * k + j) 0).toNat (t.se + t.be.getD (128 * k + j) 0)

/-- One block for one accumulator word: F32 (R105), or saturating I32 (R106). -/
def accStep (acci : Bool) (c : Word) (ps : List Fv) : Word × Flags × Bool :=
  if acci then
    let sum := ps.foldl (fun (n : Int) p => match p with
      | .fin s m e => if s then n - m * 2 ^ e.toNat else n + m * 2 ^ e.toNat
      | _ => n) c.toInt
    (ofInt32 (satS sum 32), 0, satS sum 32 != sum)
  else
    let (v, f) := finish f32 (addV (decodeF f32 c.toNat) (blockSum ps))
    (nat32 v, f, false)

/-- A row goes through stage b. -/
def stageRow (m : Mma) (r : ARow) (b : Nat) (c : List Word) : List Word × Flags × Bool :=
  let a := aBlock m r b
  let t := m.tiles.getD b Tile.none
  let out := c.mapIdx fun j w => accStep m.acci w ((a.zip (tileCol t j)).map fun e => (mulV e.1 e.2).1)
  (out.map (·.1), out.foldl (fun f e => f ||| e.2.1) 0, out.any (·.2.2))

/-- Whether the check of R106 passes for the formats and scales of A and the tiles. -/
def acciOk (m : Mma) : Bool :=
  !m.acci || (decide (m.ent.fmt ≤ 1) && m.ent.se == 0 && m.tiles.all fun t => decide (t.fmt ≤ 1) && t.se == 0 && t.be.all (· == 0))

/-! ### C in scratch (R372) -/

def rowC (g : Group) (m : Mma) (i : Nat) : List Word :=
  (List.range 128).map fun j => nat32 (scratchVal g (m.accAt + i * m.stride + 4 * j) 4)
def putC (m : Mma) (r : MmaRow) (s : State) : State :=
  s.updGroup m.gid fun g => labelC m (r.c.zipIdx.foldl (fun g e => scratchPut (m.accAt + r.row * m.stride + 4 * e.2) 4 e.1.toNat 0 g) g)

/-! ### The engine (R373, R374) -/

def effPrio (now : Nat) (m : Mma) : Nat := min 3 (m.prio + (now - m.issued) / 16384)

def rowHere (m : Mma) (i : Nat) : Bool := m.adata.any fun r => r.row == i && r.here
/-- Rows that have begun and are not complete. -/
def partRows (m : Mma) : List Nat :=
  let lo := m.rowsDone (m.nk - 1)
  (List.range (m.rowsDone 0 - lo)).map (· + lo)

/-- A queued MMA takes part in the choice once its next rows are present (R373). -/
def eligible (m : Mma) : Bool :=
  m.st = .queued && m.hold.isEmpty && (partRows m).all (rowHere m) && (decide (m.rows ≤ m.rowsDone 0) || rowHere m (m.rowsDone 0))

/-- The first of a core's queue by effective priority and sequence number. -/
def nextMma (s : State) (core : Nat) : Option Mma :=
  (s.eng.mmas.filter fun m => m.core == core && eligible m).foldl (fun b m =>
    match b with
    | none => some m
    | some x => if effPrio s.now x < effPrio s.now m || (effPrio s.now x == effPrio s.now m && decide (m.seq < x.seq)) then some m else b) none

def runningMma (s : State) (core : Nat) : Option Mma := s.eng.mmas.find? fun m => m.core == core && m.st = .running

/-- Put a row into a stage; its C comes from scratch. In I32 mode a nonzero block exponent fails the MMA (R372). -/
def enterRow (id i b : Nat) (s : State) : State :=
  match s.mma? id with
  | none => s
  | some m => match m.adata.find? (·.row == i), s.group? m.gid with
    | some r, some g =>
      if m.acci && r.bes.any (· != 0) then mmaFail id engineTrap 0 s
      else updMma id (fun m => { m with flight := m.flight ++ [⟨i, b, rowC g m i⟩] }) s
    | _, _ => s

/-- MMA_START on a core whose engine is idle (R373, R374). -/
def mmaBegin (core : Nat) (s : State) : State :=
  if (runningMma s core).isSome then s
  else match nextMma s core with
    | none => s
    | some m =>
      if !acciOk m then mmaFail m.id engineTrap 0 s
      else
        let s := updMma m.id (fun m => { m with st := .running, stopping := false, flight := [], next := s.now + m.width }) s
        let s := recordEngine m.gid (if m.rowsDone 0 = 0 then "MMA start" else "MMA resume") s
        let s := (s.updGroup m.gid (labelC m)).schedule (s.now + m.width) (.mmaStageOpportunity core)
        let stage := fun i => ((List.range m.nk).find? fun b => decide (m.rowsDone b ≤ i)).getD 0
        let s := (partRows m).foldl (fun s i => enterRow m.id i (stage i) s) s
        if m.rowsDone 0 < m.rows then enterRow m.id (m.rowsDone 0) 0 s else s

/-- MMA_START (R373). -/
def execMmaStart (core : Nat) : State → Out := fun s =>
  onOccasion "MMA_START" ((runningMma s core).isSome || (nextMma s core).isSome || s.eng.mmas.any (·.core == core)) (mmaBegin core s)

/-- MMA_A_DATA_ARRIVE (R372). -/
def execMmaADataArrive (mma row : Nat) : State → Out := fun s =>
  match s.mma? mma with
  | none => .refused (.notEnabled "MMA_A_DATA_ARRIVE")
  | some m => match m.adata.find? fun r => r.row == row && !r.here && r.vals.all EngVal.there with
    | none => .refused (.notEnabled "MMA_A_DATA_ARRIVE")
    | some r =>
      let (codes, bes) := elemsOf m.ent (rowCoords m row) r.vals
      let come := fun (r : ARow) => { r with codes, bes, here := true }
      let s := updMma mma (fun m => { m with lab := m.lab ||| r.lab, adata := amend (·.row == row) come m.adata }) s
      .next (match firstBad r.vals with
        | some f => mmaFail mma f.1 f.2 s
        | none => kickMma m.core s)

/-- Every row in flight completes its stage; a row after its last is written back. -/
def stageAll (m : Mma) (s : State) : Mma × State :=
  m.flight.foldl (fun (acc : Mma × State) (x : MmaRow) =>
    let (m, s) := acc
    match m.adata.find? (·.row == x.row) with
    | none => (m, s)
    | some r =>
      let (c, f, sat) := stageRow m r x.stage x.c
      let x' : MmaRow := { x with stage := x.stage + 1, c }
      let keep := m.flight.filter (·.row != x.row)
      let m := { m with flags := m.flags ||| f, sat := m.sat || sat, done := m.done.modify x.stage (· + 1) }
      if x.stage + 1 ≥ m.nk then ({ m with flight := keep }, putC m x' s) else ({ m with flight := keep ++ [x'] }, s)) (m, s)

/-- A stop at a k-block boundary: rows that have begun are written back (R374). -/
def mmaStop (id : Nat) (saved : Bool) (s : State) : State :=
  match s.mma? id with
  | none => s
  | some m =>
    let s := m.flight.foldl (fun s r => putC m r s) s
    let s := recordEngine m.gid ("MMA stop" ++ rowsText m) s
    let s := updMma id (fun m => { m with flight := [], stopping := false, st := if saved then .saved else .queued }) s
    kickMma m.core s

/-- One opportunity of the running MMA's stages. -/
def mmaStageStep (core : Nat) (m : Mma) (s : State) : State :=
  let (m, s) := stageAll m s
  let s := updMma m.id (fun _ => m) s
  let more := decide (m.rowsDone 0 < m.rows)
  let rival := (nextMma s core).any fun x => decide (effPrio s.now m < effPrio s.now x)
  if !more && m.flight.isEmpty then s.schedule s.now (.mmaComplete m.id)
  else if m.stopping then mmaStop m.id true s
  else if more && rival then mmaStop m.id false s
  else
    let s := updMma m.id (fun m => { m with next := s.now + m.width }) s
    let s := s.schedule (s.now + m.width) (.mmaStageOpportunity core)
    if more && rowHere m (m.rowsDone 0) then enterRow m.id (m.rowsDone 0) 0 s else s

/-- MMA_STAGE_OPPORTUNITY (R372). -/
def execMmaStageOpportunity (core : Nat) : State → Out := fun s =>
  match runningMma s core with
  | none => .refused (.notEnabled "MMA_STAGE_OPPORTUNITY")
  | some m => onOccasion "MMA_STAGE_OPPORTUNITY" (m.next == s.now) (mmaStageStep core m s)

/-- MMA_COMPLETE (R376). -/
def execMmaComplete (mma : Nat) : State → Out := fun s =>
  match s.mma? mma with
  | none => .refused (.notEnabled "MMA_COMPLETE")
  | some m =>
    if m.st ≠ .running || !m.flight.isEmpty || m.rowsDone (m.nk - 1) < m.rows then .refused (.notEnabled "MMA_COMPLETE")
    else
      let s := s.updGroup m.gid fun g => labelC m { g with mflags := g.mflags ||| m.flags, msat := g.msat || m.sat, mlab := g.mlab ||| m.lab }
      let s := recordEngine m.gid "MMA complete" s
      let x := whoOf s m.w m.core
      let s := s.setEng { s.eng with mmas := s.eng.mmas.filter (·.id != mma) }
      let s := if m.doneVa = 0 then s else match counterAdd (.engine 1 m.id) x m.doneVa m.ctxl s with
        | (.ok _, s) => s
        | (.error cause, s) => engineError m.gid 1 cause m.doneVa m.ctxl s
      .next (kickMma m.core s)

/-! ### MQRY (R377, R378) -/

/-- The engine state of a group that MQRY reads, and its label. -/
def engineState (s : State) (g : Group) (what : MqryWhat) : Word × Label :=
  let mine := s.eng.mmas.filter (·.gid == g.gid)
  match what with
  | .mstat =>
    let run := mine.any (·.st = .running)
    let n := (mine.filter (·.st ≠ .running)).length
    (nat32 ((if run then 2 ^ 31 else 0) + n % 128 * 2 ^ 24 + (if g.msat then 32 else 0) + g.mflags.toNat), g.mlab)
  | .estat => (nat32 (g.eseq.toNat * 2 ^ 16 + g.ekind * 2 ^ 8 + g.ecause), g.elbl)
  | .eaddrl => (nat32 g.eaddr, g.elbl)
  | .eaddrh => (nat32 (g.eaddr / 2 ^ 32), g.elbl)
  | .copies => (nat32 ((s.eng.copies.filter (·.gid == g.gid)).length), 0)

/-- MQRY (R377). -/
def execMqry (p : Bool) (clr : Bool) (d : Reg) (what : MqryWhat) : State → Out := issue (.mqry p clr d what) { p, entry := true } fun c s =>
  let (v, l) := engineState s c.g what
  let s := pushTimed c 16 { Pend.blank "MQRY" with ws := [RegWrite.uni d v (l ||| c.w.ctxlbl)] } s
  .done (if clr then s.updGroup c.g.gid fun g => { g with mflags := 0, msat := false } else s)

end Sys2Proof.Machine
end

