-- ==== Sys2Proof/Machine/Copy.lean ====
section
/-! DEFINITION. The copy engine: CPY, CWAIT, segment loads (spec/21_engines.md R379 to R383; spec/07_uniform_flow.md R156, R158). -/

namespace Sys2Proof.Machine

/-! ### The engine of a quad (R379) -/

/-- Commands of an owner in a quad's engine, which holds 64 of each: no owner waits for another's (R25, R379, LOG 36). -/
def engineCommands (s : State) (quad owner : Nat) : Nat :=
  (s.eng.copies.filter fun c => c.quad == quad && c.owner == owner).length
    + (s.eng.fetch.filter fun f => f.quad == quad && f.owner == owner && f.turn.isSome).length

/-- Loads of segment slots that no instruction waits with enter the engine as it has room (R379). -/
def enterEngine (quad owner : Nat) (s : State) : State :=
  overList (fun (f : Fetch) s =>
    if f.turn.isSome || f.quad != quad || f.owner != owner || engineCommands s quad owner ≥ 64 then s
    else
      let (n, s) := s.fresh
      s.setEng { s.eng with fetch := amend (·.id == f.id) (fun f => { f with turn := some n }) s.eng.fetch }) s.eng.fetch s

/-- Start an owner's next command of a quad's engine, unless one is being served: the earliest that entered it. -/
def kickCopy (quad owner : Nat) (s : State) : State :=
  let s := enterEngine quad owner s
  let cs := s.eng.copies.filter fun c => c.quad == quad && c.owner == owner
  let fs := s.eng.fetch.filter fun f => f.quad == quad && f.owner == owner && f.turn.isSome
  if cs.any (·.moving) || fs.any (·.moving) then s
  else match (cs.map (·.id) ++ fs.filterMap (·.turn)).min? with
    | none => s
    | some n =>
      let leg := Leg.rota .copy (.copyEngine quad)
      match cs.find? (·.id == n), fs.find? (·.turn == some n) with
      | some c, _ =>
        if c.acq && earlierOut s c.w c.id c.scope then s
        else sendReq owner c.core [leg] (.chunk c.id)
          (s.setEng { s.eng with copies := amend (·.id == c.id) (fun c => { c with moving := true }) s.eng.copies })
      | none, some f =>
        sendReq owner f.core [leg] (.chunk f.id)
          (s.setEng { s.eng with fetch := amend (·.id == f.id) (fun f => { f with moving := true }) s.eng.fetch })
      | none, none => s

/-! ### Boxes (R380, R381) -/

/-- INT4 tensors move as bytes of two elements. -/
def Tid.packed (t : Tid) : Tid := if t.fmt = 1 then { t with fmt := 4, dim := t.dim.modify 0 (· / 2) } else t
def Tid.total (t : Tid) : Nat := t.extent 0 * t.extent 1 * t.extent 2 * t.extent 3 * t.extent 4
/-- The coordinates of a linear index. -/
def Tid.coords (t : Tid) (i : Nat) : List Nat :=
  let a := t.extent 0
  let b := a * t.extent 1
  let c := b * t.extent 2
  let d := c * t.extent 3
  [i % a, i / a % t.extent 1, i / b % t.extent 2, i / c % t.extent 3, i / d]
def addOrg (o e : List Nat) : List Nat := (List.range 5).map fun d => o.getD d 0 + e.getD d 0

/-- The bytes of a tensor that a box of some extents at an origin touches. -/
def Tid.span (t : Tid) (o : List Nat) (box : Tid) : Option (Nat × Nat) :=
  if t.beyond o then none
  else
    let last := (List.range 5).map fun d => min (o.getD d 0 + box.extent d) (t.extent d) - 1
    some (t.base + t.offset o, t.base + t.offset last + t.size - 1)

/-! ### CPY (R380) -/

def freeScore (s : State) (core : Nat) : Nat := 32 - (s.core core).score.length

/-- CPY (R380). -/
def execCpy (p : Bool) (a : Reg) (sc : Scope) (rel acq : Bool) : State → Out := issue (.cpy p a sc rel acq) { p } fun c s =>
  let r := fun (k : Nat) => sval c.w (Fin.ofNat 64 (a.val + k))
  let lab := (List.range 8).foldl (fun l k => l ||| slab c.w (Fin.ofNat 64 (a.val + k))) c.w.ctxlbl
  let si := (r 0).toNat % 256
  let di := (r 0).toNat / 256 % 256
  let q := (r 6).toNat + 2 ^ 32 * (r 7).toNat
  let ts := tidAt s c.g.ctx c.core si
  let td := tidAt s c.g.ctx c.core di
  if q % 8 != 0 then .trap s misalign q (slab c.w (Fin.ofNat 64 (a.val + 6)) ||| slab c.w (Fin.ofNat 64 (a.val + 7)))
  else match ts.st, td.st with
    | .pending, _ => .wait s (.tidPending [si])
    | .invalid n, _ => tidTrap s si n (slab c.w a)
    | .valid, .pending => .wait s (.tidPending [di])
    | .valid, .invalid n => tidTrap s di n (slab c.w a)
    | .valid, .valid =>
      if ts.fmt ≠ td.fmt then tidTrap s si 5 (slab c.w a)
      else if ts.fmt = 1 && (r 1).toNat % 2 == 1 then tidTrap s si 7 (slab c.w a ||| slab c.w (Fin.ofNat 64 (a.val + 1)))
      else if !ts.scratch && !td.scratch && (s.core c.core).spF == 0 then tidTrap s si 8 (slab c.w a)
      else
        let org := (List.range 5).map fun k => (r (k + 1)).toNat / (if k = 0 && ts.fmt = 1 then 2 else 1)
        let src := ts.packed
        let dst := td.packed
        let ss := if src.scratch then (src.span org dst) else none
        let ds := if dst.scratch then (dst.span [] dst) else none
        let bad : Bool → Option (Nat × Nat) → Option Nat := fun load x => match x with
          | some (lo, hi) => if scratchOk c.g lo (hi + 1 - lo) load then none else some lo
          | none => none
        match bad true ss <|> bad false ds with
        -- its labels are those of what decides it: operands, and the entries' bases and extents (R250)
        | some o => .trap s scratchRange o (lab ||| ts.lab ||| td.lab)
        | none =>
          let need := (if src.scratch then 1 else 0) + (if dst.scratch then 1 else 0)
          let quad := quadOf c.core
          if freeScore s c.core < need then .wait s (.scoreFull need)
          else if engineCommands s quad c.g.owner ≥ 64 then .wait s .copyFull
          else
            let (id, s) := s.fresh
            let entry := fun (side : Bool) (x : Option (Nat × Nat)) =>
              if side then (let (lo, hi) := x.getD (1, 0); [(⟨c.g.gid, id, lo, hi⟩ : Score)]) else []
            let s := s.updCore c.core fun k => { k with score := k.score ++ entry src.scratch ss ++ entry dst.scratch ds }
            let cp : Copy :=
              { id, gid := c.g.gid, w := c.ref, core := c.core, quad, owner := c.g.owner, ctx := c.g.ctx, kernel := c.g.kernel, src, dst, org, q, rel, acq
                scope := sc
                lab := lab ||| src.lab ||| dst.lab, ctxl := c.w.ctxlbl, pos := 0, moving := false
                vals := none, vlab := 0 }
            .done (kickCopy quad c.g.owner (s.setEng { s.eng with copies := s.eng.copies ++ [cp] }))

/-! ### Chunks (R379, R381, R382) -/

def Copy.who (s : State) (c : Copy) : Who := { whoOf s c.w c.core with owner := c.owner, ctx := c.ctx }

/-- A copy ends: its scoreboard entries go, and the next command starts. -/
def endCopy (c : Copy) (s : State) : State :=
  let s := s.updCore c.core fun k => { k with score := k.score.filter (·.copy != c.id) }
  kickCopy c.quad c.owner (s.setEng { s.eng with copies := s.eng.copies.filter (·.id != c.id) })

def failCopy (c : Copy) (cause addr : Nat) (lab : Label) (s : State) : State :=
  endCopy c (engineError c.gid 2 cause addr lab s)

/-- Read the source elements of a chunk, in order. -/
def chunkReads (x : Who) (c : Copy) (l : List (List Nat)) (s : State) : Batch × State :=
  l.foldl (fun (r : Batch × State) e =>
    let se := addOrg c.org e
    if c.src.beyond se then r
    else engRead (.engine 2 c.id) (.chunk c.id) x c.src.scratch (c.src.base + c.src.offset se) c.src.size r.1 r.2) (Batch.empty, s)

/-- The elements of a chunk, given what its reads found: an exact zero where the source ends. -/
def chunkVals (c : Copy) : List (List Nat) → List EngVal → List Nat
  | [], _ => []
  | e :: l, vs => if c.src.beyond (addOrg c.org e) then 0 :: chunkVals c l vs else (vs.headD (.val 0)).num :: chunkVals c l (vs.drop 1)

/-- Where a chunk's elements go: the first failing check, or types, physical and virtual addresses. -/
def chunkChecks (x : Who) (c : Copy) (dl : Label) : List (List Nat) → State → Except (Nat × Nat) (List (MemType × Nat × Nat)) × State
  | [], s => (.ok [], s)
  | e :: l, s =>
    let a := c.dst.base + c.dst.offset e
    if c.dst.scratch then
      match chunkChecks x c dl l s with
      | (.ok r, s) => (.ok ((.loc, a, a) :: r), s)
      | (.error f, s) => (.error f, s)
    else match engCheck x .store a dl s with
      | (.error cause, s) => (.error (cause, a), s)
      | (.ok (t, pa, _), s) => match chunkChecks x c dl l s with
        | (.ok r, s) => (.ok ((t, pa, a) :: r), s)
        | (.error f, s) => (.error f, s)

/-- Whether every chunk of a copy is written, and only a release's posts hold back its counter (R231). -/
def Copy.written (c : Copy) : Bool := c.moving && decide (c.dst.total ≤ c.pos)

/-- A written copy ends and counts (R381), once a release's writes are performed with respect to its scope. -/
def finishCopy (x : Who) (c : Copy) (s : State) : State :=
  if c.rel && postsOut s c.id c.scope then s.setEng { s.eng with copies := amend (·.id == c.id) (fun _ => c) s.eng.copies }
  else
    let s := endCopy c s
    if c.q = 0 then s else match counterAdd (.engine 2 c.id) x c.q c.ctxl s with
      | (.ok _, s) => s
      | (.error cause, s) => engineError c.gid 2 cause c.q c.ctxl s

/-- The next chunk of a copy: the coordinates of its elements. -/
def Copy.chunk (c : Copy) : List (List Nat) :=
  (List.range (min (256 / c.dst.size) (c.dst.total - c.pos))).map fun k => c.dst.coords (c.pos + k)

/-- A chunk is written once every read of it has returned (R381, R382); the last ends the copy's accesses to scratch (R198). -/
def chunkWrite (x : Who) (c : Copy) (vals : List EngVal) (vlab : Label) (s : State) : State :=
  let es := c.chunk
  match firstBad vals with
  | some f => failCopy c f.1 f.2 c.lab s
  | none =>
    let dl := c.lab ||| vlab
    match chunkChecks x c dl es s with
    | (.error f, s) => failCopy c f.1 f.2 dl s
    | (.ok places, s) =>
      let vs := chunkVals c es vals
      let s := if c.dst.scratch then (places.zip vs).foldl (fun s e => s.updHeld c.gid (scratchPut e.1.2.1 c.dst.size e.2 dl)) s
        else engPuts (.engine 2 c.id) x 0 ((places.zip vs).map fun e => ⟨e.1.1, e.1.2.1, e.1.2.2, leBytes c.dst.size e.2⟩) s
      let c := { c with pos := c.pos + es.length, lab := dl, vals := none }
      if c.pos < c.dst.total then
        sendReq c.owner c.core [.rota .copy (.copyEngine c.quad)] (.chunk c.id)
          (s.setEng { s.eng with copies := amend (·.id == c.id) (fun _ => c) s.eng.copies })
      else finishCopy x c (s.updCore c.core fun k => { k with score := k.score.filter (·.copy != c.id) })

/-- A chunk of a copy: its reads, whose traffic within the package goes its way beside it, and once all of them are there its writes. -/
def copyChunk (c : Copy) (s : State) : State :=
  let x := c.who s
  match c.vals with
  | some vals => chunkWrite x c vals c.vlab s
  | none =>
    let (b, s) := chunkReads x c c.chunk s
    let s := sendBatch x .idle b s
    if b.vals.all EngVal.there then chunkWrite x c b.vals.reverse b.lab s
    else s.setEng { s.eng with copies := amend (·.id == c.id) (fun c => { c with vals := some b.vals.reverse, vlab := b.lab }) s.eng.copies }

/-! ### Segment images (R83, R158) -/

/-- Address of the liveness table of an image. -/
def tableAt (va words : Nat) : Nat := (va + 4 * words + 15) / 16 * 16

/-- Entries of the table whose header an image's reads have found. -/
def ImageJob.entries (i : ImageJob) (vals : List EngVal) : Nat :=
  min ((vals.getD i.words (.val 0)).num % 2 ^ 32) 2048

/-- The reads of an image that are known so far: offset and size of the words, of the table's header, and once that is there of its entries. -/
def ImageJob.units (i : ImageJob) (vals : List EngVal) : List (Nat × Nat) :=
  let ws := (List.range i.words).map fun k => (4 * k, 4)
  if !i.table then ws
  else
    let t := tableAt i.va i.words - i.va
    let n := if (vals.drop (i.words + 1)).any EngVal.there then i.entries vals else 0
    ws ++ (List.range (2 + 2 * n)).map fun k => (t + 8 * k, 8)

/-- A slot as a load leaves it (R156): PRESENT, or FAILED with its cause. -/
def loadedSlot (i : ImageJob) (vals : List EngVal) (lab : Label) (kernel : Option Nat) (id : Nat) : Slot :=
  let base : Slot := { Slot.empty with kernel, va := i.va, len := i.words, load := id }
  match firstBad vals with
  | some f => { base with st := .failed, cause := f.1, addr := f.2 }
  | none =>
    let h0 := (vals.getD i.words (.val 0)).num
    let es := (vals.drop (i.words + 2)).map EngVal.num
    let live := (List.range (i.entries vals)).flatMap fun k =>
      let lo := es.getD (2 * k) 0
      let mask := BitVec.ofNat 64 (es.getD (2 * k + 1) 0)
      (List.range (min (fld lo 16 16) 2048)).map fun j => (fld lo 0 16 + j, mask)
    if i.vdecl.any (· != fld h0 40 8) then { base with st := .failed, cause := codeAbsent, addr := tableAt i.va i.words }
    else { base with st := .present, words := (vals.take i.words).map EngVal.num, live := if i.table then live else [], lab }

/-- The identity of a load for its reads. -/
def Fetch.who (f : Fetch) : Who := ⟨f.w, f.core, f.owner, f.ctx, f.kernel.getD 0, f.det⟩

def putFetch (f : Fetch) (s : State) : State := s.setEng { s.eng with fetch := amend (·.id == f.id) (fun _ => f) s.eng.fetch }

/-- The reads of a load's chunk of 256 B that can be made by now. -/
def fetchReads (i : ImageJob) (f : Fetch) (s : State) : Fetch × State :=
  let todo := ((i.units f.vals).drop f.vals.length).takeWhile fun u => decide (u.1 < 256 * (f.chunk + 1))
  if !f.vals.all EngVal.there || (firstBad f.vals).isSome then (f, s)
  else
    let x := f.who
    let (b, s) := todo.foldl (fun (r : Batch × State) u => engRead (.engine 2 f.id) (.chunk f.id) x false (i.va + u.1) u.2 r.1 r.2) (Batch.empty, s)
    ({ f with vals := f.vals ++ b.vals.reverse, lab := f.lab ||| b.lab }, sendBatch x .idle b s)

/-- An image is read: its slot stands, and the next image follows; with the last one the load is over. -/
def imageDone (i : ImageJob) (f : Fetch) (s : State) : State :=
  let kernel := if i.slot = 15 then none else match f.kernel with
    | some k => some k
    | none => ((s.core f.core).slot i.slot).kernel
  let f := { f with
    imgs := f.imgs.drop 1, chunk := 0, vals := [], lab := 0, asking := false
    slots := f.slots ++ [(i.slot, loadedSlot i f.vals f.lab kernel f.id)] }
  let s := putFetch f s
  if !f.imgs.isEmpty then sendReq f.owner f.core [.rota .copy (.copyEngine f.quad)] (.chunk f.id) s
  else s.schedule s.now (match f.kernel with
    | some k => .preloadComplete f.core k
    | none => .slotLoadComplete f.core (Fin.ofNat 16 i.slot))

/-- A chunk of a load (R158, R379): its words, then its table, whose header says how long it is. -/
def fetchChunk (f : Fetch) (s : State) : State :=
  match f.imgs with
  | [] => s
  | i :: _ =>
    let (f, s) := fetchReads i f s
    let (f, s) := fetchReads i f s
    if !f.vals.all EngVal.there then putFetch { f with asking := true } s
    else if (firstBad f.vals).isSome || decide ((i.units f.vals).length ≤ f.vals.length) then imageDone i f s
    else sendReq f.owner f.core [.rota .copy (.copyEngine f.quad)] (.chunk f.id) (putFetch { f with chunk := f.chunk + 1, asking := false } s)

/-- COPY_CHUNK_COMPLETE (R379): of a copy, or of a load of segment slots; again when the reads off the package of a chunk have returned. -/
def execCopyChunkComplete (copy : Nat) : State → Out := fun s =>
  match s.eng.copies.find? fun c => c.id == copy && c.moving && c.vals.all (·.all EngVal.there) with
  | some c => .next (copyChunk c s)
  | none => match s.eng.fetch.find? fun f => f.id == copy && f.moving && f.vals.all EngVal.there with
    | some f => .next (fetchChunk f s)
    | none => .refused (.notEnabled "COPY_CHUNK_COMPLETE")

/-! ### CWAIT (R383) -/

/-- Read the counter once more, after the check for a failure of the engines. ESEEN follows at the trap's park, once the trap itself is
taken, so that the cause recurs where an earlier failure is reported first (R269). -/
def cwaitRead (c : Cur) (va : Nat) (lab : Label) (s : State) : Res :=
  if c.w.eseen ≠ c.g.eseq then
    .trap s engineTrap c.g.eaddr c.g.elbl
  else if gateOut s c.ref then .wait s .gate
  else
    let (n, s) := s.fresh
    let (b, s) := engRead .wave (.cwait c.ref n) c.who false va 8 .empty s
    let go := fun (v : Nat) => Res.wait (sendBatch c.who (.cwait c.ref n) b
      (s.updWave c.ref fun w => { (w.absorb b.lab) with phase := 1, target := v })) .cwait
    match b.vals.headD (.val 0) with
    | .bad cause a => .trap s cause a lab
    | .val v => go v
    | .away _ pa _ _ => go pa

/-- CWAIT (R383): phase 1 while a read is out, 2 once it has given the counter's value, 3 once it has failed. -/
def execCwait (p : Bool) (a b : Reg) : State → Out := issue (.cwait p a b) { p } fun c s =>
  let va := c.w.pair a
  let v := c.w.pair b
  let lab := c.w.pairLab a ||| c.w.pairLab b
  if c.w.phase = 2 && decide (v ≤ c.w.target) then .done s
  else if c.w.phase = 3 then .trap s c.w.target (va % 2 ^ 56) (c.w.pairLab a)
  else if va % 8 != 0 then .trap s misalign va (c.w.pairLab a)
  else cwaitRead c va (c.w.pairLab a) (s.updWave c.ref fun w => w.absorb lab)

/-- CWAIT_READ_RETURN (R383). -/
def execCwaitReadReturn (w : WaveRef) : State → Out := fun s =>
  let ok := (s.wave? w).any fun x => decide (x.phase ≠ 0) && (match x.status with
    | .waiting .cwait _ => true
    | _ => false)
  onOccasion "CWAIT_READ_RETURN" ok (s.updWave w fun x => if x.phase = 1 then { x with phase := 2 } else x)

/-! ### CFETCH (R156, R158) -/

/-- The load of a slot begins (R156, LOADING): it enters the engine as it has room. -/
def beginLoad (core n : Nat) (h : HeldLoad) (s : State) : State :=
  let (id, s) := s.fresh
  let i : ImageJob := ⟨n, h.va, h.words, n != 15, if n = 15 then none else some h.vdecl⟩
  let f : Fetch := { id, quad := quadOf core, owner := h.owner, core, kernel := none, w := h.w, ctx := h.ctx, det := h.det, turn := none
                     moving := false, asking := false, imgs := [i], chunk := 0, vals := [], lab := 0, slots := [] }
  let s := s.updCore core (·.updSlot n fun sl => { sl with st := .loading, lab := 0, next := none, load := id })
  kickCopy (quadOf core) h.owner (s.setEng { s.eng with fetch := s.eng.fetch ++ [f] })

/-- Whether a wave has a lane in a slot. -/
def inSlot (w : Wave) (n : Nat) : Bool := w.liveLanes.any fun l => w.pcAt l / 2048 == n
/-- Whether some wave on a core has a lane in a slot. -/
def slotOccupied (s : State) (core n : Nat) : Bool :=
  s.groups.any fun g => (g.place.map (·.core)) == some core && g.waves.any fun w => inSlot w n

/-- CFETCH (R158). Lanes of other waves in an EMPTY or FAILED slot hold the load as they do in a PRESENT one (LOG 33: the table of R156 has no
row for them); the copy engine must have room for a load that begins at once (R379). -/
def execCfetch (p : Bool) (a b : Reg) (slot : Fin 16) : State → Out := issue (.cfetch p a b slot) { p } fun c s =>
  let va := c.w.pair a
  let n := (sval c.w b).toNat
  let core := s.core c.core
  if (slot.val == 15 && !privileged s c.g) || (slot.val != 15 && !slotGranted core slot c.g.kernel) then .trap s privOp 0 0
  else if n = 0 || n > 2048 || inSlot c.w slot then .trap s illegalOp 0 (slab c.w b)
  else if va % 64 != 0 then .trap s misalign va (c.w.pairLab a)
  else if core.slotLoading slot then .wait s (.slotBusy slot)
  else
    let s := s.updWave c.ref fun w => w.absorb (w.pairLab a ||| slab c.w b)
    let h : HeldLoad := ⟨c.ref, va, n, c.g.vdecl, c.g.owner, c.g.ctx, c.g.det⟩
    let held := slotOccupied s c.core slot
    if !held && engineCommands s (quadOf c.core) c.g.owner ≥ 64 then .wait s .copyFull
    else if held then .done (s.updCore c.core (·.updSlot slot fun sl => { sl with st := .held, next := some h }))
    else .done (beginLoad c.core slot h s)

/-- A held load begins when no lane is left in its slot (R156). -/
def releaseHeld (core n : Nat) (s : State) : State :=
  let sl := (s.core core).slot n
  match sl.st, sl.next with
  | .held, some h => if slotOccupied s core n then s else beginLoad core n h s
  | _, _ => s

/-- SLOT_LOAD_COMPLETE (R156). -/
def execSlotLoadComplete (core : Nat) (slot : Fin 16) : State → Out := fun s =>
  match s.eng.fetch.find? fun f => f.core == core && f.kernel.isNone && f.moving && f.imgs.isEmpty && f.slots.any (·.1 == slot.val) with
  | none => .refused (.notEnabled "SLOT_LOAD_COMPLETE")
  | some f =>
    let s := s.setEng { s.eng with fetch := s.eng.fetch.filter (·.id != f.id) }
    let s := f.slots.foldl (fun s e => s.updCore core (·.updSlot e.1 fun sl => if sl.st = .loading && sl.load == f.id then e.2 else sl)) s
    .next (kickCopy f.quad f.owner s)

end Sys2Proof.Machine
end

