-- ==== Sys2Proof/Machine/Page.lean ====
section
/-! DEFINITION. LBLRD, PROBE, TLBINV, poisoned frames (spec/12_page.md R246, R247, R257 to R261; spec/26_reliability.md R412). -/

namespace Sys2Proof.Machine

/-! ### LBLRD (R257) -/

def labelOf (c : Cur) : LblReg → Label
  | .s r => slab c.w r
  | .v r => vlab c.w r
  | .m r => (c.w.mreg r).lab
  | .h r => (c.g.h.getD r .zero).lab
  | .a r => (c.g.a.getD r .zero).lab

def LblReg.vs : LblReg → List Nat
  | .v r => [r.val]
  | _ => []
def LblReg.hs : LblReg → List Nat
  | .h r => [r.val]
  | _ => []
def LblReg.as : LblReg → List Nat
  | .a r => [r.val]
  | _ => []

/-- LBLRD (R257). -/
def execLblrd (p : Bool) (d : Reg) (x : LblReg) : State → Out := issueW (.lblrd p d x) { p, vs := LblReg.vs x, hs := LblReg.hs x, as := LblReg.as x } fun c =>
  c.w.writeS d ((labelOf c x).setWidth 32) (labelOf c x ||| c.w.ctxlbl)

/-! ### PROBE (R258) -/

def typeCode : MemType → Nat
  | .loc => 0
  | .peer => 1
  | .pod => 2
  | .host => 3
  | .mmio => 4

/-- SIZE: 4 KiB, 64 KiB, 2 MiB, 1 GiB. -/
def sizeCode (n : Nat) : Nat := if n = 2 ^ 12 then 0 else if n = 2 ^ 16 then 1 else if n = 2 ^ 21 then 2 else 3

def probeOk (t : Tlb) : Nat :=
  2 ^ 31 + t.peer % 1024 * 2 ^ 13 + t.own % 8 * 2 ^ 10 + sizeCode t.size * 2 ^ 8 + typeCode t.typ * 2 ^ 5
    + (if t.w then 16 else 0) + (if t.r then 8 else 0) + 1

/-- Where a load's translation fails: level, stage and state; a permission or owner failure at the leaf that refuses. -/
def probeErr (s : State) (owner ctx va : Nat) : WalkErr :=
  if va ≥ 2 ^ 56 then ⟨pageFault, 0, 1, 0, []⟩
  else match walkLeaves s owner ctx va with
    | .error e => e
    | .ok (l1, l2, _) => if fld l1.lo 6 1 = 0 then ⟨permFault, leafLevel l1.size, 1, 1, []⟩ else ⟨permFault, leafLevel l2.size, 2, 1, []⟩

def probeBad (e : WalkErr) : Nat := e.level * 2 ^ 25 + (if e.stage = 2 then 2 ^ 24 else 0) + e.st % 8

/-- PROBE (R258). -/
def execProbe (p : Bool) (pa : Bool) (a b : Reg) : State → Out := issue (.probe p pa a b) { p, entry := true } fun c s =>
  let va := c.w.pair a
  let al := c.w.pairLab a ||| c.w.ctxlbl
  let e := probeErr s c.g.owner c.g.ctx va
  let (x, s) := translate c.core c.g.owner c.g.ctx va .load s
  let (lo, hi, lab, fail) : Nat × Nat × Label × Option Fail := match x.res with
    | .ok t =>
      let at_ := (t.pa + (va - t.va)) % 2 ^ 52
      if pa then (at_ % 2 ^ 32, at_ / 2 ^ 32, al ||| t.lab, none) else (probeOk t, t.lab.toNat, al ||| t.lab, none)
    | .error _ => (if pa then 0 else probeBad e, 0, al, if e.st = 8 then some ⟨eccUncorr, va % 2 ^ 56, al, false, false⟩ else none)
  let (id, s) := pushEntry c { Pend.blank "PROBE" with left := 0, fail, ws := pairRes b (nat32 lo) (nat32 hi) lab } s
  .done (addPart c.who id (if x.walk.isSome then [] else [.hold Config.probeLatency]) x.walk s)

/-! ### TLBINV (R259 to R261) -/

def invTlb (k : TlbKind) (va key : Nat) (t : Tlb) : Bool :=
  match k with
  | .page => t.pasid == key && decide (t.va ≤ va) && decide (va < t.va + t.size)
  | .pasid => t.pasid == key
  | .owner => t.owner == key
  | .all => true

/-- Entries of the page-walk cache; for a page, every stage-1 entry of its PASID. -/
def invPwc (k : TlbKind) (key : Nat) (e : Nat × Nat × Nat × Nat × Nat × Nat) : Bool :=
  match k with
  | .page => e.2.2.1 == 1 && e.2.2.2.1 == key
  | .pasid => e.2.2.1 == 1 && e.2.2.2.1 == key
  | .owner => e.2.1 == key
  | .all => true

/-- Whether a TIMED owner has groups resident on some cores: its entries there stay for the while (R261). -/
def keepsOn (s : State) (owner : Nat) (p : Nat → Bool) : Bool :=
  s.timed owner && s.groups.any fun g => g.owner == owner && (g.place.map fun x => p x.core).getD false

/-- What a walk in progress would bring into the TLBs, as far as an invalidation takes it (R246). -/
def invWalk (k : TlbKind) (va key : Nat) (w : Walk) : Bool := w.tlb.any (invTlb k va key)

/-- Remove the matching entries that may go now, those of walks in progress too. -/
def invalidate (k : TlbKind) (va key : Nat) (s : State) : State :=
  let t := s.setCores (s.cores.map fun e =>
    (e.1, { e.2 with utlb := e.2.utlb.filter fun x => !invTlb k va key x || keepsOn s x.owner (· == e.1) }))
  t.setMem { t.mem with
    qtlb := t.mem.qtlb.filter fun x => !invTlb k va key x.2 || keepsOn s x.2.owner (quadOf · == x.1)
    walks := amend (fun w : Walk => invWalk k va key w && !keepsOn s w.owner (quadOf · == quadOf w.core)) (fun w => { w with tlb := none }) t.mem.walks
    pwc := t.mem.pwc.filter fun e => !invPwc k key e || keepsOn s e.2.1 (dieOf · == e.1) }

/-- Size of the largest page that an invalidation takes from the package's TLBs and walks. -/
def invSize (s : State) (k : TlbKind) (va key : Nat) : Nat :=
  let all := s.cores.flatMap (·.2.utlb) ++ s.mem.qtlb.map (·.2) ++ s.mem.walks.filterMap (·.tlb)
  (all.filter (invTlb k va key)).foldl (fun n t => max n t.size) 4096

/-- Whether an access that used a removed translation, of a page of some size, is not yet performed: one on its way to a home off the
package, or a deterministic store or atomic that waits in a buffer or in its kernel's log (R232, R233). -/
def invUses (s : State) (k : TlbKind) (va key size : Nat) : Bool :=
  let uses := fun (owner ctx : Nat) (vas : List Nat) => match k with
    | .page => (s.ctx ctx).latched.pasid == key && vas.any fun v => v / size == va / size
    | .pasid => !vas.isEmpty && (s.ctx ctx).latched.pasid == key
    | .owner => !vas.isEmpty && owner == key
    | .all => !vas.isEmpty
  let held := s.groups ++ s.eng.ghosts
  (s.mem.fabs.any fun f => !f.applied && !f.gone && f.typ.remote && uses f.owner f.ctx (f.acc.lanes.map (·.va)))
    || (held.any fun g => uses g.owner g.ctx (g.detBuf.map (·.va) ++ g.detAtoms.map (·.va)
      ++ s.cores.flatMap fun c => (c.2.detBuf.filter (·.gid == g.gid)).map (·.va)))
    || s.hub.kernels.any fun n => uses n.owner n.ctx (n.detLog.map (·.va))

def invLeft (s : State) (k : TlbKind) (va key size : Nat) : Bool :=
  s.cores.any (fun e => e.2.utlb.any (invTlb k va key)) || s.mem.qtlb.any (fun x => invTlb k va key x.2)
    || s.mem.pwc.any (invPwc k key) || s.mem.walks.any (invWalk k va key) || invUses s k va key size

/-- One round of the invalidations that are not complete. -/
def runInvs (s : State) : State :=
  s.mem.invs.foldl (fun s e =>
    let s := invalidate e.2.1 e.2.2.1 e.2.2.2.1 s
    if invLeft s e.2.1 e.2.2.1 e.2.2.2.1 e.2.2.2.2 then s else s.setMem { s.mem with invs := s.mem.invs.filter (·.1 != e.1) }) s

/-- TLBINV (R260). -/
def execTlbinv (p : Bool) (k : TlbKind) (a b : Reg) : State → Out := issue (.tlbinv p k a b) { p } fun c s =>
  if c.w.phase = 1 then .done s
  else if fenceCond s c.ref allKinds .sys false then .wait s (.kinds allKinds .sys false)
  else
    let va := if k = .page then c.w.pair a else 0
    let x := (sval c.w b).toNat
    let key := match k with
      | .owner => x % 8
      | .all => 0
      | _ => x % 2 ^ 20
    let (id, s) := s.fresh
    let s := runInvs (s.setMem { s.mem with invs := s.mem.invs ++ [(id, k, va, key, invSize s k va key)] })
    if s.mem.invs.any (·.1 == id) then .wait (s.updWave c.ref fun w => { w with phase := 1 }) (.tlb id) else .done s

/-- PAGE_WALK_COMPLETE (R245). -/
def execPageWalkComplete (walk : Nat) : State → Out := fun s =>
  onOccasion "PAGE_WALK_COMPLETE" (s.mem.walks.any (·.id == walk)) (walkComplete walk s)

/-! ### Poisoned frames (R247) -/

/-- Indexes of a table's entries that are not zero. -/
def tableSlots (cells : List Host.Cell) (base n : Nat) : List Nat :=
  ((cells.filter fun c => decide (base ≤ c.1) && decide (c.1 < base + 16 * n)).map fun c => (c.1 - base) / 16).eraseDups

/-- The stage-2 leaves that map a physical address of the package's own memory: address, and first byte and size of the memory it maps. -/
def leafRanges (cells : List Host.Cell) (fa : Nat) : List (Nat × Nat × Nat) → Nat → List (Nat × Nat × Nat)
  | [], _ => []
  | (lv, lo, wd) :: rest, table =>
    let base := table / (16 * 2 ^ wd) * (16 * 2 ^ wd)
    (tableSlots cells base (2 ^ wd)).flatMap fun i =>
      let a := base + 16 * i
      let e0 := cellVal cells a 8
      let e1 := cellVal cells (a + 8) 8
      if fld e0 10 1 = 1 then
        let c64 := fld e0 11 1 == 1
        let size := if c64 then 2 ^ 16 else 2 ^ lo
        let maps := decide (pteAddr e0 / size * size ≤ fa) && decide (fa < pteAddr e0 / size * size + size)
        if decide (2 ≤ lv) && (!c64 || (lv == 4 && i % 16 == 0)) && decide (1 ≤ pteState e0) && decide (pteState e0 ≤ 2) && maps
            && pteType e1 = some .loc then [(a, pteAddr e0 / size * size, size)] else []
      else if pteState e0 = 1 then leafRanges cells fa rest (pteAddr e0) else []

/-- Their addresses. -/
def leavesOf (cells : List Host.Cell) (fa : Nat) (levels : List (Nat × Nat × Nat)) (table : Nat) : List Nat :=
  (leafRanges cells fa levels table).map (·.1)

/-- A leaf's STATE becomes POISONED. -/
def poison (a : Nat) (s : State) : State :=
  s.setMem { s.mem with cells := cellPut a ((cellGet a s.mem.cells &&& 0xE3) ||| 0x0C) s.mem.cells }

/-- One record of the hub's ring of 256 (R412). -/
def recordEvent (kind unit cycle : Nat) (owners : BitVec 8) (s : State) : State :=
  s.setRel { s.rel with
    seq := s.rel.seq + 1
    events := (⟨s.rel.seq + 1, cycle, owners, s.clk.mhz, unit, kind⟩ :: s.rel.events).take 256 }

/-- The super-frame boundary at or before a cycle. -/
def boundaryAt (c : Nat) : Nat := c / 256 * 256

/-- FRAME_POISONED (R247): every translation that was read through a leaf now POISONED goes, whichever of its frames it maps (R246). -/
def execFramePoisoned (frame : Nat) : State → Out := fun s =>
  let fa := 4096 * frame
  let gone := s.owners.flatMap fun o => (leafRanges s.mem.cells fa walkLevels o.spec.s2root).map fun e => (o.id, e)
  let s := overList (fun e s =>
    let (hit, s) := storeStamp (hubClock e.1) e.1 (lineOf e.2.1) s
    poison e.2.1 (sendReq e.1 512 (hubHome e.2.1 (!hit)) .idle s)) gone s
  let covers := fun (t : Tlb) => t.typ = .loc && gone.any fun e => e.1 == t.owner && decide (e.2.2.1 ≤ t.pa) && decide (t.pa < e.2.2.1 + e.2.2.2)
  let hit := ((s.cores.flatMap (·.2.utlb)) ++ s.mem.qtlb.map (·.2) ++ s.mem.walks.filterMap (·.tlb)).filter covers
  let invs := (hit.map fun t => (t.pasid, t.va, t.size)).eraseDups
  let s := overList (fun e s =>
    let (id, s) := s.fresh
    s.setMem { s.mem with invs := s.mem.invs ++ [(id, .page, e.2.1, e.1, e.2.2)] }) invs s
  let s := s.setRel { s.rel with frames := s.rel.frames ++ [frame] }
  .next (runInvs (recordEvent 8 frame (boundaryAt s.now) 0 s))

end Sys2Proof.Machine
end

