-- ==== Sys2Proof/Machine/Gate.lean ====
section
/-! DEFINITION. The release gate: policies, RELEASE, tenant keys (spec/12_page.md R252 to R256; spec/26_reliability.md R416). -/

namespace Sys2Proof.Machine

/-! ### Policies (R252, R253) -/

namespace Policy
def fieldAt (p : Policy) (o n : Nat) : Nat := leVal ((p.body.drop o).take n)
def labelSet (p : Policy) : Label := BitVec.ofNat 16 (p.fieldAt 0 2)
def result (p : Policy) : Label := BitVec.ofNat 16 (p.fieldAt 2 2)
def byteLim (p : Policy) : Nat := p.fieldAt 4 4
def rate (p : Policy) : Nat := p.fieldAt 8 4
def dstPasid (p : Policy) : Nat := p.fieldAt 12 4 % 2 ^ 20
def dstBase (p : Policy) : Nat := p.fieldAt 16 8 % 2 ^ 56
def dstLen (p : Policy) : Nat := p.fieldAt 24 8
end Policy

def Policy.none : Policy := ⟨[], false, 0, 0, 0, 0, 0, []⟩
def policy (s : State) (n : Nat) : Policy := look Policy.none n s.gate.pols
def updPolicy (n : Nat) (f : Policy → Policy) (s : State) : State :=
  s.setGate { s.gate with pols := enter n (f (policy s n)) s.gate.pols }

/-- The registered key of a tenant slot: none while it is zero. -/
def tenKey (s : State) (t : Nat) : Option (List Byte) :=
  let k := look [] t s.gate.tenkeys
  if k.all (· == 0) then none else some k

def tenantsOf (l : Label) : List Nat := (List.range 16).filter l.getLsbD

/-- The first failing check of INSTALL (R252), 0 when all pass. -/
def installErr (s : State) (n : Nat) : Nat :=
  let p : Policy := { Policy.none with body := s.gate.body }
  let ts := tenantsOf p.labelSet
  if (policy s n).valid then 3
  else if p.labelSet = 0 then 2
  else if p.result = 0 || p.byteLim < 8 || p.byteLim > 4096 then 4
  else if ts.any (fun t => (tenKey s t).isNone) then 5
  else if ts.any (fun t => !Config.mldsaVerify ((tenKey s t).getD []) (Config.sha3 s.gate.body) (look [] t s.gate.sigs)) then 1
  else 0

/-- A write of GATECTL with an operation starts it; while one runs, writes are ignored. -/
def gateCommand (op n : Nat) (s : State) : State :=
  if s.gate.busy || !(op == 1 || op == 2) then s
  else (s.setGate { s.gate with op, pol := n, busy := true, done := false, err := 0 }).schedule (s.now + Config.gateCommand) .gateCommandDone

/-- INSTALL (R252). -/
def execInstall (pol : Fin 64) : State → Out := fun s => .next (gateCommand 1 pol s)
/-- REMOVE (R252). -/
def execRemove (pol : Fin 64) : State → Out := fun s => .next (gateCommand 2 pol s)

/-- The next cycle that is a multiple of 2^20. -/
def refillAt (now : Nat) : Nat := (now / 2 ^ 20 + 1) * 2 ^ 20

/-- GATE_COMMAND_DONE (R252). -/
def execGateCommandDone : State → Out := fun s =>
  let n := s.gate.pol
  let done := fun (err : Nat) (s : State) => s.setGate { s.gate with busy := false, done := true, err }
  let t := if s.gate.op = 1 then
      let e := installErr s n
      if e ≠ 0 then done e s
      else
        let p : Policy := { Policy.none with body := s.gate.body, valid := true }
        (done 0 (updPolicy n (fun _ => { p with bucket := List.replicate 8 p.rate }) s)).scheduleOnce (refillAt s.now) .bucketRefill
    else done 0 (updPolicy n (fun p => { p with valid := false }) s)
  onOccasion "GATE_COMMAND_DONE" s.gate.busy t

/-- BUCKET_REFILL (R254). -/
def execBucketRefill : State → Out := fun s =>
  let t := s.setGate { s.gate with pols := s.gate.pols.map fun e => (e.1, { e.2 with bucket := List.replicate 8 e.2.rate }) }
  onOccasion "BUCKET_REFILL" (s.now % 2 ^ 20 == 0)
    (if s.gate.pols.any (·.2.valid) then t.scheduleOnce (refillAt s.now) .bucketRefill else t)

/-- Whether a bound context holds a tenant slot (R416). -/
def tenantBound (s : State) (t : Nat) : Bool := s.ctxs.any fun c => c.st ≠ .free && c.latched.tenant == t

/-- A registered key as the 1,312 bytes of TENKEY_t: what a write leaves out of them is 0. -/
def keyBytes (key : List Byte) : List Byte := (List.range 1312).map fun k => key.getD k 0

/-- TENKEY_WRITE (R416). -/
def execTenkeyWrite (t : Fin 16) (key : List (BitVec 8)) : State → Out := fun s =>
  if tenantBound s t then .next s
  else
    let s := s.setGate { s.gate with tenkeys := enter t.val (keyBytes key) s.gate.tenkeys }
    let drop := fun (e : Nat × Policy) => if e.2.labelSet.getLsbD t then (e.1, { e.2 with valid := false }) else e
    .next (s.setGate { s.gate with pols := s.gate.pols.map drop })

/-! ### RELEASE (R254, R255) -/

/-- A RELEASE, as an instruction or as a replay sends it: behind an unreported failure it is only recorded (R56). -/
def runRelease (x : Who) (pol src dst n : Nat) (al : Label) (pc : Nat) (s : State) : State :=
  let (id, s) := s.fresh
  let p := { Pend.blank "RELEASE" with id, entry := false, pc, job := .release pol src dst n al }
  let push := fun (p : Pend) (s : State) => s.updWave x.ref fun w => { w with pend := w.pend ++ [p] }
  if (s.wave? x.ref).any (fun w => w.pend.any (·.fail.isSome)) then push { p with left := 0 } s
  else
    -- the source is read here (R255): no policy releases more than 4,096 bytes
    let (b, s) := (List.range (min n 4096 / 8)).foldl (fun (r : Batch × State) k =>
      engRead .wave (.release id) x false (src + 8 * k) 8 r.1 r.2) (.empty, push p s)
    let r : Release :=
      { id, w := x.ref, pend := id, owner := x.owner, ctx := x.ctx, pol, src, dst, n, al, pc, core := x.core, vals := b.vals.reverse, lab := b.lab
        served := false, fail := none }
    let s := sendBatch x .idle b (s.setGate { s.gate with rels := s.gate.rels ++ [r] })
    if r.vals.all EngVal.there then sendReq x.owner x.core [.rota .host .gate] (.release id) s else s

/-- Stores alone (R225). -/
def storeKind : Kinds := { e := false, a := false, s := true, l := false }

/-- RELEASE (R255): its reads follow the wave's earlier stores, once these are performed; its request goes to the gate once they are there. -/
def execRelease (p : Bool) (a b : Reg) (pol : Fin 64) (len : Reg) : State → Out := issue (.release p a b pol len) { p } fun c s =>
  let src := c.w.pair a
  let dst := c.w.pair b
  let n := (sval c.w len).toNat
  let al := c.w.pairLab a ||| c.w.pairLab b ||| slab c.w len ||| c.w.ctxlbl
  if src % 8 != 0 then .trap s misalign src (c.w.pairLab a)
  else if dst % 8 != 0 then .trap s misalign dst (c.w.pairLab b)
  else if n % 8 != 0 then .trap s misalign n (slab c.w len)
  else if gateOut s c.ref then .wait s .gate
  else if fenceCond s c.ref storeKind .pkg true then .wait s (.kinds storeKind .pkg true)
  else .done (runRelease c.who pol src dst n al c.pc s)

/-- The failure of a denied release. -/
def denied (r : Release) (lab : Label) : Fail := ⟨releaseDenied, r.dst % 2 ^ 56, r.al ||| lab, false, false⟩

def denyCount (pol reason owner : Nat) : State → State :=
  updPolicy pol fun p => { p with denycnt := min 0xFFFF_FFFF (p.denycnt + 1), reason, lastowner := owner }

/-- The 8-byte units of the destination, translated as stores. -/
def releaseDst (x : Who) (dst : Nat) : List Nat → State → Except (Nat × Nat) (List (Tlb × Nat)) × State
  | [], s => (.ok [], s)
  | k :: l, s =>
    let a := dst + 8 * k
    let (q, s) := translate x.core x.owner x.ctx a .store s
    match q.res with
    | .error cause => (.error (cause, a), s)
    | .ok t => match releaseDst x dst l s with
      | (.ok r, s) => (.ok ((t, t.pa + (a - t.va)) :: r), s)
      | (.error f, s) => (.error f, s)

/-- Whether the result label fails on a destination page (R251, R255). -/
def resultBad (res : Label) (t : Tlb) : Bool := (labelCheck t.typ res t.lab).isSome

/-- What the gate does with a release at its admission: its failure, if any. -/
def releaseServe (x : Who) (r : Release) (s : State) : Option Fail × State :=
  let p := policy s r.pol
  let deny := fun (k : Nat) (lab : Label) (s : State) => (some (denied r lab), denyCount r.pol k r.owner s)
  let bad := fun (f : Nat × Nat) => (⟨f.1, f.2 % 2 ^ 56, r.al, f.1 == pageFault || f.1 == fabTimeout, false⟩ : Fail)
  if !p.valid then deny 1 0 s
  else if p.dstPasid ≠ (s.ctx r.ctx).latched.pasid then deny 2 0 s
  else if r.n = 0 || r.n > p.byteLim then deny 3 0 s
  else if r.dst < p.dstBase || r.dst + r.n > p.dstBase + p.dstLen then deny 4 0 s
  else if p.rate ≠ 0 && r.n > p.bucket.getD r.owner 0 then deny 5 0 s
  else
    match firstBad r.vals with
    | some f => (some (bad f), s)
    | none => match releaseDst x r.dst (List.range (r.n / 8)) s with
      | (.error f, s) => (some (bad f), s)
      | (.ok places, s) =>
        let sl := r.al ||| r.lab
        if sl &&& ~~~p.labelSet != 0 then deny 6 sl s
        else if places.any (fun e => resultBad p.result e.1) then deny 7 (places.foldl (fun l e => l ||| e.1.lab) 0) s
        else
          let s := engPuts .wave x r.pc ((places.zip r.vals).zipIdx.map fun e => ⟨e.1.1.1.typ, e.1.1.2, r.dst + 8 * e.2, leBytes 8 e.1.2.num⟩) s
          (none, updPolicy r.pol (fun p => { p with
            relcnt := p.relcnt + 1, bytecnt := p.bytecnt + r.n, bucket := p.bucket.modify r.owner (· - r.n) }) s)

/-- Admission at the gate (R254): completion follows 2,048 cycles later. -/
def releaseAdmit (q : Req) (s : State) : State :=
  match q.purpose with
  | .release id => match s.gate.rels.find? (·.id == id) with
    | none => s
    | some r =>
      let x : Who := { whoOf s r.w q.core with owner := r.owner, ctx := r.ctx }
      let (f, s) := releaseServe x r s
      (s.setGate { s.gate with rels := amend (·.id == id) (fun r => { r with fail := f, served := true }) s.gate.rels }).schedule (s.now + 2048) (.releaseComplete id)
  | _ => s

/-- RELEASE_COMPLETE (R254). -/
def execReleaseComplete (rel : Nat) : State → Out := fun s =>
  match s.gate.rels.find? (·.id == rel) with
  | none => .refused (.notEnabled "RELEASE_COMPLETE")
  | some r =>
    let s := s.setGate { s.gate with rels := s.gate.rels.filter (·.id != rel) }
    .next (returnDone r.w r.pend (match r.fail with
      | some f => failPend r.w r.pend f s
      | none => s))

end Sys2Proof.Machine
end

