-- ==== Sys2Proof/Machine/Queue.lean ====
section
/-! DEFINITION. Queues: the hub's accesses in a context, notifies, hardware queue slots, LNCH (spec/14_queue.md R282 to R291;
spec/15_kernel.md R307, R308). -/

namespace Sys2Proof.Machine

/-! ### The hub's accesses in a context (R282, R291, R294, R298) -/

/-- Translate for the hub, which keeps no TLB of its own. -/
def hubXlat (s : State) (ctx va : Nat) (k : AccKind) : Except Nat Tlb :=
  if va ≥ 2 ^ 56 then .error pageFault
  else
    let o := (s.ctx ctx).latched.owner
    match walkBoth s o ctx va k with
    | .error e => .error e.cause
    | .ok (t, _) => checkTlb t o k

/-- The hub as the agent of an access of a context (LOG 36). -/
def hubWho (s : State) (ctx : Nat) : Who := ⟨⟨0, 0⟩, 512, (s.ctx ctx).latched.owner, ctx, 0, false⟩

/-- What a read of the hub has come to: bytes, a failing cause, or nothing yet. -/
abbrev HubGot := Option (Except Nat (List Byte))

/-- Several reads together: the first failure, or all their bytes, or nothing yet. -/
def joinReads : List HubGot → HubGot
  | [] => some (.ok [])
  | some (.error c) :: _ => some (.error c)
  | some (.ok a) :: l => match joinReads l with
    | some (.ok b) => some (.ok (a ++ b))
    | r => r
  | none :: l => match joinReads l with
    | some (.error c) => some (.error c)
    | _ => none

/-- Whether a read's way to its home and back has been sent already, with the admission that R291 asks for. -/
def Purpose.sent : Purpose → Bool
  | .depRead .. => true
  | _ => false

/-- LOCAL bytes as the hub loads them: line by line at home, under the clock of the hub for the owner (R210, R212), with the traffic that
this makes (R17, R19, R22). -/
def hubLoad (sent : Bool) (owner pa n : Nat) (s : State) : List Byte × State :=
  let (bs, s) := (linesOf pa n).foldl (fun (r : List Byte × State) l =>
    let (hit, y, s) := homeLoad (hubClock owner) owner l r.2
    (r.1 ++ y.bytes, if sent then s else sendReq owner 512 (hubHome l (!hit)) .idle s)) ([], s)
  ((bs.drop (pa % 64)).take n, s)

/-- One line off the package for a step of the device: as its reply brought it, or a request for it, which the step goes on from (R394,
R397, R405). -/
def hubLine (step : Instr) (job : Purpose) (ctx : Nat) (t : MemType) (dst line va : Nat) (s : State) : HubGot × State :=
  match s.hub.reads.find? fun r => r.step = step && r.typ = t && r.line == line with
  | some r => (match r.bad with
    | some c => some (.error c)
    | none => if r.bytes.isEmpty then none else some (.ok r.bytes), s)
  | none =>
    let (id, s) := readFab .hub job (hubWho s ctx) t dst line va s
    (none, goFab id 0 none (s.setHub { s.hub with reads := s.hub.reads ++ [⟨step, t, line, id, [], none⟩] }))

/-- Bytes of one page as a step of the device reads them for the hub. -/
def hubPage (step : Instr) (job : Purpose) (ctx va n : Nat) (s : State) : HubGot × State :=
  match hubXlat s ctx va .load with
  | .error c => (some (.error c), s)
  | .ok t =>
    let pa := t.pa + (va - t.va)
    match t.typ with
    | .mmio =>
      let (bs, s) := (List.range ((n + 7) / 8)).foldl (fun (r : List Byte × State) k =>
        (r.1 ++ leBytes 8 (Config.mmio r.2.mem.reads (pa + 8 * k)).toNat, r.2.setMem { r.2.mem with reads := r.2.mem.reads + 1 })) ([], s)
      (some (.ok (bs.take n)), s)
    | .loc =>
      let (bs, s) := hubLoad job.sent (s.ctx ctx).latched.owner pa n s
      (some (.ok bs), s)
    | k =>
      let (got, s) := (linesOf pa n).foldl (fun (r : List HubGot × State) l =>
        let (g, s) := hubLine step job ctx k t.peer l (va + (max l pa - pa)) r.2
        (r.1 ++ [g], s)) ([], s)
      ((joinReads got).map fun
        | .error c => .error c
        | .ok bs => .ok ((bs.drop (pa % 64)).take n), s)

/-- n bytes from an address up, of at most two pages, for a step of the device: `none` while some are still to come, and then the step is
taken again for the purpose named. -/
def hubRead (step : Instr) (job : Purpose) (ctx va n : Nat) (s : State) : HubGot × State :=
  let m := min n (4096 - va % 4096)
  let (a, s) := hubPage step job ctx va m s
  let (b, s) := if n ≤ m then (some (.ok []), s) else hubPage step job ctx (va + m) (n - m) s
  match joinReads [a, b] with
  | none => (none, s)
  | r => (r, s.setHub { s.hub with reads := s.hub.reads.filter (·.step ≠ step) })

/-- Bytes off the package as the hub knows them: its own writes that the home has not performed yet come before the home's (R221). -/
def hubAway (s : State) (pa n : Nat) : List Byte :=
  (List.range n).map fun k =>
    (s.mem.fabs.reverse.findSome? fun f => if f.src = .hub && f.typ.remote && !f.applied && !f.gone then f.byteAt (pa + k) else none).getD
      (cellGet (pa + k) s.mem.remote)

/-- What memory holds at an address of a context: no access to it. -/
def peekPage (s : State) (ctx va n : Nat) : Except Nat (List Byte) :=
  match hubXlat s ctx va .load with
  | .error c => .error c
  | .ok t =>
    let pa := t.pa + (va - t.va)
    .ok (match t.typ with
      | .mmio => (((List.range ((n + 7) / 8)).map fun k => leBytes 8 (Config.mmio (s.mem.reads + k) (pa + 8 * k)).toNat).flatten).take n
      | .loc => cellBytes s.mem.cells pa n
      | .host => cellBytes s.mem.host pa n
      | _ => hubAway s pa n)
def peek (s : State) (ctx va n : Nat) : Except Nat (List Byte) :=
  let m := min n (4096 - va % 4096)
  match peekPage s ctx va m, (if n ≤ m then .ok [] else peekPage s ctx (va + m) (n - m)) with
  | .ok a, .ok b => .ok (a ++ b)
  | .error c, _ => .error c
  | _, .error c => .error c

/-- The pieces of a write, line by line: each piece's first byte, counted from the write's. -/
def linePieces (pa : Nat) (bs : List Byte) : List (Nat × List Byte) :=
  (linesOf pa bs.length).map fun l =>
    let lo := max l pa - pa
    (lo, (bs.drop lo).take (l + 64 - (pa + lo)))

/-- The hub writes bytes of one page, with a data label; a write off the package is posted in the order of its delivery context, for the
purpose named, which goes on when it has been acknowledged. -/
def hubWrite (job : Purpose) (ctx va : Nat) (bs : List Byte) (lab : Label) (s : State) : Except Nat State :=
  match hubXlat s ctx va .store with
  | .error c => .error c
  | .ok t => match labelCheck t.typ lab t.lab with
    | some c => .error c
    | none =>
      let pa := t.pa + (va - t.va)
      let x := hubWho s ctx
      .ok (if t.typ = .mmio then engPut .hub x 0 job ⟨.mmio, pa, va, bs⟩ s
        else (linePieces pa bs).foldl (fun s e => engPut .hub x 0 job ⟨t.typ, pa + e.1, va + e.1, e.2⟩ s) s)

/-- The hub adds 1 to a 64-bit counter, as an atomic in the context (R294). -/
def hubAdd (job : Purpose) (ctx va : Nat) (s : State) : Except Nat State :=
  match hubXlat s ctx va .atomic with
  | .error c => .error c
  | .ok t => match labelCheck t.typ 0 t.lab with
    | some c => .error c
    | none => .ok (addOne .hub (hubWho s ctx) t.typ (t.pa + (va - t.va)) va job s)

/-- Whether a write or a counter's increment of the hub for a purpose is still on its way. -/
def hubOut (s : State) (job : Purpose) : Bool := s.mem.fabs.any fun f => f.job = job && !f.reads && !f.gone

/-! ### Interfaces (R284, R285) -/

def aqiOf (s : State) (i : Nat) : Aqi := (s.hub.aqis.find? (·.id == i)).getD (Aqi.reset i)
def updAqi (i : Nat) (f : Aqi → Aqi) (s : State) : State :=
  s.setHub { s.hub with aqis := f (aqiOf s i) :: s.hub.aqis.filter (·.id != i) }
/-- The context whose interface i is (R262). -/
def aqiCtx (s : State) (i : Nat) : Option Ctx := s.ctxs.find? fun c => c.st ≠ .free && c.latched.aqimask.getLsbD i

/-- Append a 16 B record to an interface's error ring in host memory (R284), by a request in the HOST slots of the interface's owner (R405). -/
def errorRecord (i q pasid code value : Nat) (s : State) : State :=
  let a := aqiOf s i
  let r := (a.errs + 1) % 2 ^ 32 + code % 8 * 2 ^ 58 + i % 64 * 2 ^ 61 + q % 512 * 2 ^ 67 + pasid % 2 ^ 20 * 2 ^ 76 + value % 2 ^ 32 * 2 ^ 96
  let at_ := a.errbase + 16 * (a.errtail % 2 ^ a.errlog2)
  let owner := ((aqiCtx s i).map (·.latched.owner)).getD 8
  let s := sendReq owner 512 [.rota .host .hostPort, .hold Config.hostTravel] .idle s
  let s := putBytes .host at_ (leBytes 16 r) (dropLine .host (lineOf at_) s)
  let s := s.setHub { s.hub with errRecs := (i, BitVec.ofNat 128 r) :: s.hub.errRecs }
  updAqi i (fun a => { a with errs := a.errs + 1, errtail := (a.errtail + 1) % 2 ^ 32 }) s

/-- PENDING's bits by the queues that hold an unmapped notify (R285). -/
def pendMark (q : Nat) (a : Aqi) : Aqi := { a with pendW1C := a.pendW1C ||| BitVec.ofNat 64 (2 ^ (q / 8)) }
def pendClear (q : Nat) (a : Aqi) : Aqi :=
  let pend := a.pend.filter (·.1 != q)
  { a with pend, pendW1C := if pend.any (·.1 / 8 == q / 8) then a.pendW1C else a.pendW1C &&& ~~~BitVec.ofNat 64 (2 ^ (q / 8)) }

/-- A queue that is not mapped holds a notify (R287); its time limit counts from the first. -/
def holdPending (i q tail : Nat) (s : State) : State :=
  match (aqiOf s i).pend.find? (·.1 == q) with
  | some e => updAqi i (fun a => pendMark q { a with pend := (q, tail, e.2.2) :: a.pend.filter (·.1 != q) }) s
  | none => (updAqi i (fun a => pendMark q { a with pend := (q, tail, s.wall) :: a.pend }) s).schedule
      (s.now + usCycles s s.hub.pendLim) (.pendLimitExpire (Fin.ofNat 64 i) q)

/-! ### Queue slots (R286, R288) -/

def State.slot? (s : State) (n : Nat) : Option QSlot := s.hub.slots.find? (·.n == n)
def slotOf (s : State) (n : Nat) : QSlot := (s.slot? n).getD (QSlot.reset n)
/-- Change a slot, whether or not it stands in the list already. -/
def setSlot (n : Nat) (f : QSlot → QSlot) (s : State) : State :=
  s.setHub { s.hub with slots := f (slotOf s n) :: s.hub.slots.filter (·.n != n) }
/-- The slot in which a queue is mapped. -/
def mappedSlot (s : State) (i q : Nat) : Option QSlot := s.hub.slots.find? fun x => x.st ≠ .free && x.aqi == i && x.q == q
def slotOwner (s : State) (x : QSlot) : Nat := (s.ctx x.ctx).latched.owner
def descVa (s : State) (i q : Nat) : Nat := (aqiOf s i).qtbase + 64 * q
def bytesVal (l : List Byte) (o n : Nat) : Nat := leVal ((l.drop o).take n)

/-- The slot becomes READY: a new arrival number, and its head packet is read (R288). -/
def becomeReady (n : Nat) (s : State) : State :=
  let q := s.hub.seq
  let s := setSlot n (fun x => { x with st := .ready, seq := q, readyAt := s.wall, pkt := [], segs := [], reread := none }) s
  (noReads n (s.setHub { s.hub with seq := q + 1 })).schedule
    (s.now + Config.packetRead) (.packetReadDone (Fin.ofNat 256 n))

/-- IDLE, or READY with packets left (R288). -/
def idleOrReady (n : Nat) (s : State) : State :=
  let x := slotOf s n
  if x.tail = x.headc then setSlot n (fun x => { x with st := .idle, idleAt := s.now, pkt := [], segs := [] }) (noReads n s) else becomeReady n s

/-- A read or write of the hub for a slot fails: STALLED, with a record READFAULT (R284, R288, R294). -/
def stallSlot (n : Nat) (s : State) : State :=
  let x := slotOf s n
  errorRecord x.aqi x.q (s.ctx x.ctx).latched.pasid 6 0 (noReads n (setSlot n (fun x => { x with st := .stalled, reread := none }) s))

/-- Distance modulo 2^32. -/
def ahead (a b : Nat) : Nat := (a + 2 ^ 32 - b % 2 ^ 32) % 2 ^ 32

/-- What a notify of a mapped queue does: accepted, ignored, or refused with BADTAIL (R283). -/
inductive TailCase | accept | ignore | bad
  deriving DecidableEq
def tailCase (x : QSlot) (t : Nat) : TailCase :=
  if ahead t x.tail ≤ 2 ^ x.ringlog - ahead x.tail x.headc then .accept
  else if ahead t x.headc < ahead x.tail x.headc then .ignore
  else .bad

/-- A tail is accepted: an IDLE slot becomes READY. -/
def acceptTail (n t : Nat) (s : State) : State :=
  let s := setSlot n (fun x => { x with tail := t % 2 ^ 32 }) s
  let x := slotOf s n
  if x.st = .idle && x.tail != x.headc then becomeReady n s else s

/-- A notify meets the slot of its queue (R283). -/
def notifySlot (n t pasid : Nat) (s : State) : State :=
  let x := slotOf s n
  match tailCase x t with
  | .accept => acceptTail n t s
  | .ignore => s
  | .bad => errorRecord x.aqi x.q pasid 5 t s

/-- Read a queue's descriptor into its slot, then apply its pending tail (R286, R288). -/
def readDescriptor (n : Nat) (s : State) : State :=
  let x := slotOf s n
  match hubRead (.packetReadDone (Fin.ofNat 256 n)) (.packet n x.tok) x.ctx (descVa s x.aqi x.q) 32 s with
  | (none, s) => s
  | (some (.error _), s) => stallSlot n s
  | (some (.ok b), s) =>
    let s := setSlot n (fun x => { x with
      known := true, ringbase := bytesVal b 0 8 % 2 ^ 64, ringlog := bytesVal b 8 1, crlog := bytesVal b 9 1, crbase := bytesVal b 16 8
      headc := bytesVal b 24 4, tail := bytesVal b 24 4, ctail := bytesVal b 28 4
      st := if (s.ctx x.ctx).st = .suspended then .halted else .idle, idleAt := s.now }) s
    let pend := (aqiOf s x.aqi).pend.find? (·.1 == x.q)
    let s := (updAqi x.aqi (pendClear x.q) s).unschedule (.pendLimitExpire (Fin.ofNat 64 x.aqi) x.q)
    match pend with
    | some e => notifySlot n e.2.1 (s.ctx x.ctx).latched.pasid s
    | none => s

/-- Map queue q of interface i in a FREE slot (R286, R288). -/
def mapSlot (n i q : Nat) (s : State) : State :=
  match aqiCtx s i with
  | none => s
  | some c =>
    if (slotOf s n).st ≠ .free || (mappedSlot s i q).isSome || q ≥ (aqiOf s i).qcount || c.st = .revoked then s
    else readDescriptor n (setSlot n (fun x => { QSlot.reset n with aqi := i, q, asel := x.asel, qsel := x.qsel, st := .idle, ctx := c.id, tok := x.tok + 1 }) s)

/-- The hold of a slot's victims ends: they are placed again in the order of R314 (R317). -/
def releaseVictims (n : Nat) (s : State) : State :=
  let held := s.groups.filter (·.victim == some n)
  let s := setSlot n (fun x => { x with vicFrom := none })
    (s.setGroups (amend (fun g => g.victim == some n) (fun g => { g with victim := none }) s.groups))
  overList (fun (g : Group) s => placeOpp g.owner s) held s

/-- An LNCH is refused with an error record; nothing holds back its completion any more (R307, R308). -/
def refuseLnch (code : Nat) (j : LnchJob) (s : State) : State :=
  let s := errorRecord j.aqi j.q (s.ctx j.ctx).latched.pasid code 0 s
  match j.due with
  | some d => s.scheduleOnce (max s.now d) (.lnchComplete j.id)
  | none => s

/-- A slot becomes FREE; its AQI and QSLOTQ fields keep their values. LNCHs that wait in it find their queue unmapped (R307). -/
def freeSlot (n : Nat) (s : State) : State :=
  let x := slotOf s n
  let s := releaseVictims n (noReads n s)
  let s := setSlot n (fun x => { QSlot.reset n with asel := x.asel, qsel := x.qsel, tok := x.tok }) s
  overList (fun (j : LnchJob) s => if x.line.contains (.lnch j.id) then refuseLnch 7 j s else s) s.gate.lnchs s

/-- Write HEAD into the descriptor (R282). -/
def writeHead (n : Nat) (s : State) : Except Nat State :=
  let x := slotOf s n
  hubWrite (.head n) x.ctx (descVa s x.aqi x.q + 24) (leBytes 4 x.headc) 0 s

/-- UNMAP of a slot that may be unmapped: HEAD is written, packets left become a pending tail (R287, R288). -/
def unmapNow (n : Nat) (s : State) : State :=
  let x := slotOf s n
  let s := if !x.known then s else match writeHead n s with
    | .ok s => s
    | .error _ => errorRecord x.aqi x.q (s.ctx x.ctx).latched.pasid 6 0 s
  let s := freeSlot n s
  let s := if x.known && x.tail != x.headc then holdPending x.aqi x.q x.tail s else s
  -- notifies that waited in the slot are now those of a queue that is not mapped
  x.line.foldl (fun s op => match op with
    | .notify t _ => holdPending x.aqi x.q t s
    | .lnch _ => s) s

/-- The IDLE slot of an owner that has been idle longest. -/
def longestIdle (s : State) (o : Nat) : Option QSlot :=
  (s.hub.slots.filter fun x => x.st = .idle && slotOwner s x == o).foldl (fun b x =>
    match b with
    | none => some x
    | some y => if x.idleAt < y.idleAt || (x.idleAt == y.idleAt && decide (x.n < y.n)) then some x else some y) none

/-- The hub maps a queue that has waited PEND_LIMIT, if it may be mapped and its owner has an idle slot (R287). -/
def hubMap (i q : Nat) (s : State) : State :=
  match aqiCtx s i with
  | none => s
  | some c =>
    if c.st = .revoked || (mappedSlot s i q).isSome || q ≥ (aqiOf s i).qcount then s
    else match longestIdle s c.latched.owner with
      | none => s
      | some x => mapSlot x.n i q (unmapNow x.n s)

/-- Queues that have waited PEND_LIMIT try again at an unmap (R287): their limit has passed, so no expiry stands in the agenda. -/
def retryPending (s : State) : State :=
  let late := s.hub.aqis.flatMap fun a => (a.pend.filter fun e =>
    !(s.agenda.any fun x => x.2 = .pendLimitExpire (Fin.ofNat 64 a.id) e.1)).map fun e => (a.id, e.1)
  overList (fun e s => if ((aqiOf s e.1).pend.any (·.1 == e.2)) then hubMap e.1 e.2 s else s) late s

/-- UNMAP, and what it leaves room for. -/
def unmapSlot (n : Nat) (s : State) : State := retryPending (unmapNow n s)

/-! ### Appends of LNCH, in turn with the notifies of a queue (R307, R308) -/

/-- Whether an append to a mapped queue, or something behind one, waits. -/
def appending (s : State) (x : QSlot) : Bool := !x.line.isEmpty || s.gate.lnchs.any fun j => j.aqi == x.aqi && j.q == x.q && j.ring.isSome

def updLnch (id : Nat) (f : LnchJob → LnchJob) (s : State) : State := s.setGate { s.gate with lnchs := amend (·.id == id) f s.gate.lnchs }

/-- The hub writes an LNCH's packet into the ring of the slot's queue, unless that is full (R307): TAIL advances once the write is
performed. -/
def lnchAppend (n : Nat) (j : LnchJob) (s : State) : State :=
  let m := slotOf s n
  if ahead m.tail m.headc = 2 ^ m.ringlog then refuseLnch 5 j s
  else
    let va := m.ringbase + 64 * (m.tail % 2 ^ m.ringlog)
    match hubWrite (.lnch j.id) j.ctx va (leBytes 64 j.pkt.num) j.lab s with
    | .error cause =>
      let absorb := if cause = labelStore || cause = labelExport then j.lab else j.absorb
      (failPend j.w j.pend ⟨cause, va % 2 ^ 56, absorb, cause == pageFault, false⟩ s).scheduleOnce (max s.now (j.due.getD 0)) (.lnchComplete j.id)
    | .ok s =>
      if hubOut s (.lnch j.id) then updLnch j.id (fun x => { x with ring := some m.tail }) s
      else (acceptTail n (m.tail + 1) s).scheduleOnce (max s.now (j.due.getD 0)) (.lnchComplete j.id)

/-- A notify or an LNCH reaches the slot of its queue; each waits for the append before it (R307). -/
def ringOp (n : Nat) (op : RingOp) (s : State) : State :=
  if appending s (slotOf s n) then setSlot n (fun x => { x with line := x.line ++ [op] }) s
  else match op with
    | .notify t pasid => notifySlot n t pasid s
    | .lnch l => match s.gate.lnchs.find? (·.id == l) with
      | some j => lnchAppend n j s
      | none => s

/-- An append is over: performed, it is an accepted tail of its queue; what waited behind it follows. -/
def endAppend (j : LnchJob) (ok : Bool) (s : State) : State :=
  let s := updLnch j.id (fun x => { x with ring := none }) s
  let t := j.ring.getD 0 + 1
  match (mappedSlot s j.aqi j.q).filter (·.known) with
  | none => if ok then holdPending j.aqi j.q (t % 2 ^ 32) s else s
  | some m =>
    let s := if ok then notifySlot m.n t (s.ctx j.ctx).latched.pasid s else s
    let wait := (slotOf s m.n).line
    wait.foldl (fun s op => ringOp m.n op s) (setSlot m.n (fun x => { x with line := [] }) s)

/-- What a read of an interface's notify page gives (R283). -/
def notifyRead (_aqi : Fin 64) (_offset _width : Nat) (_s : State) : Nat := 0

/-- NOTIFY (R283). -/
def execNotify (aqi : Fin 64) (offset width : Nat) (v : BitVec 32) (pasid : BitVec 20) : State → Out := fun s =>
  let i := aqi.val
  let refuse := fun (code q : Nat) => Host.Outcome.next (errorRecord i q pasid.toNat code v.toNat s)
  let revoked := s.ctxs.any fun c => c.st = .revoked && c.latched.pasid == pasid.toNat
  match aqiCtx s i with
  | none => refuse (if revoked then 1 else 2) (offset / 8)
  | some c =>
    if revoked || c.st = .revoked then refuse 1 (offset / 8)
    else if c.latched.pasid != pasid.toNat then refuse 2 (offset / 8)
    else if offset % 8 != 0 || offset / 8 ≥ (aqiOf s i).qcount then refuse 3 (offset / 8)
    else if width != 32 then refuse 4 (offset / 8)
    else match mappedSlot s i (offset / 8) with
      | some x => if x.known then .next (ringOp x.n (.notify v.toNat pasid.toNat) s) else .next (holdPending i x.q v.toNat s)
      | none => .next (holdPending i (offset / 8) v.toNat s)

/-- MAP (R286). -/
def execMap (slot : Fin 256) : State → Out := fun s =>
  let x := slotOf s slot
  .next (mapSlot slot x.asel x.qsel s)

/-- UNMAP (R288). -/
def execUnmap (slot : Fin 256) : State → Out := fun s =>
  match (slotOf s slot).st with
  | .dispatching => .next (setSlot slot (fun x => { x with unmap := true }) s)
  | .idle | .ready | .blocked | .stalled => .next (unmapSlot slot s)
  | .free | .halted => .next s

/-- RESTART (R288). -/
def execRestart (slot : Fin 256) : State → Out := fun s =>
  let x := slotOf s slot
  if x.st ≠ .stalled then .next s
  else if x.cur.isSome then .next (setSlot slot (fun x => { x with st := .dispatching }) s)
  else if !x.known then .next (readDescriptor slot s)
  else .next (idleOrReady slot s)

/-- PEND_LIMIT_EXPIRE (R287). -/
def execPendLimitExpire (aqi : Fin 64) (q : Nat) : State → Out := fun s =>
  let t := hubMap aqi q s
  onOccasion "PEND_LIMIT_EXPIRE" ((aqiOf s aqi).pend.any (·.1 == q)) (if (mappedSlot t aqi q).isSome then retryPending t else t)

/-! ### The launch packet and its dependence (R289, R291) -/

namespace Pkt
def kind (b : List Byte) : Nat := bytesVal b 0 4 % 4
def prio (b : List Byte) : Nat := fld (bytesVal b 0 4) 2 5
def bit (b : List Byte) (k : Nat) : Bool := fld (bytesVal b 0 4) k 1 == 1
def cluster (b : List Byte) : Nat := fld (bytesVal b 0 4) 10 2 + 1
def irq (b : List Byte) : Bool := bit b 12
def segtab (b : List Byte) : Nat := bytesVal b 4 2
def entry (b : List Byte) : Nat := bytesVal b 6 2 % 2 ^ 15
def dx (b : List Byte) : Nat := bytesVal b 8 4
def dy (b : List Byte) : Nat := bytesVal b 12 2
def dz (b : List Byte) : Nat := bytesVal b 14 2
def waves (b : List Byte) : Nat := bytesVal b 16 1
def vregs (b : List Byte) : Nat := bytesVal b 17 1
def hregs (b : List Byte) : Nat := bytesVal b 18 1
def accs (b : List Byte) : Nat := bytesVal b 19 1
def scratch (b : List Byte) : Nat := bytesVal b 20 2
def fifo (b : List Byte) : Nat := bytesVal b 22 1
def args (b : List Byte) : Nat := bytesVal b 24 8
def done (b : List Byte) : Nat := bytesVal b 32 8
def depva (b : List Byte) : Nat := bytesVal b 40 8
def depval (b : List Byte) : Nat := bytesVal b 48 8
def ivec (b : List Byte) : Nat := bytesVal b 56 2
def tag (b : List Byte) : Nat := bytesVal b 58 6
/-- Whether every reserved field is zero. -/
def reservedOk (b : List Byte) : Bool :=
  fld (bytesVal b 0 4) 13 19 == 0 && fld (bytesVal b 4 4) 31 1 == 0 && bytesVal b 23 1 == 0
/-- Whether the packet waits for a counter: every type but NOP, and a LAUNCH whose DEPVA its check will not refuse. -/
def waits (b : List Byte) : Bool := kind b != 0 && depva b != 0 && !(kind b == 1 && depva b % 8 != 0)
end Pkt

/-- Whether a queue holds a LAUNCH between two of its indexes. -/
def launchBetween (s : State) (c base log headc tail : Nat) : Bool :=
  (List.range (min ((tail + 2 ^ 32 - headc) % 2 ^ 32) (2 ^ log))).any fun k =>
    match peek s c (base + 64 * ((headc + k) % 2 ^ log)) 64 with
    | .ok b => Pkt.kind b == 1
    | .error _ => false
/-- Whether a notified queue that is not mapped holds a LAUNCH. -/
def launchPending (s : State) (c i q tail : Nat) : Bool :=
  match peek s c (descVa s i q) 32 with
  | .ok b => launchBetween s c (bytesVal b 0 8) (bytesVal b 8 1) (bytesVal b 24 4) tail
  | .error _ => false
/-- Whether a LAUNCH of a context, one of those that satisfy `p`, is queued: in a mapped queue, or notified to one that is not. -/
def launchQueued (s : State) (p : Nat → Bool) : Bool :=
  s.hub.slots.any (fun x => x.st ≠ .free && p x.ctx && x.known && launchBetween s x.ctx x.ringbase x.ringlog x.headc x.tail)
    || s.hub.aqis.any fun a => (aqiCtx s a.id).any fun c => p c.id && a.pend.any fun e => launchPending s c.id a.id e.1 e.2.1

/-- The way of a load of the hub that its request takes before the load is made: to the home of a LOCAL address and back (R17, R291). -/
def hubWay (s : State) (ctx va : Nat) : List Leg :=
  match hubXlat s ctx va .load with
  | .error _ => [.hold Config.packetRead]
  | .ok t =>
    let pa := t.pa + (va - t.va)
    match t.typ with
    | .mmio => [.hold Config.packetRead]
    | .loc => hubHome pa ((mscMisses (s.ctx ctx).latched.owner [lineOf pa] s).headD false)
    | _ => []

/-- Ask for the dependence counter: in the owner's HOST slots, then as a load of the context along the path of its memory type (R291). -/
def askDep (n : Nat) (s : State) : State :=
  let x := slotOf s n
  let s := setSlot n (fun x => { x with reread := some s.now }) s
  sendReq (slotOwner s x) 512 (.rota .host .hostPort :: hubWay s x.ctx (Pkt.depva x.pkt)) (.depRead n x.tok) s

/-- PACKET_READ_DONE (R288): of a head packet, or of a queue's descriptor. -/
def execPacketReadDone (slot : Fin 256) : State → Out := fun s =>
  let x := slotOf s slot
  if x.st ≠ .free && !x.known then
    onOccasion "PACKET_READ_DONE" (s.hub.reads.any (·.step = .packetReadDone slot)) (readDescriptor slot s)
  else if !((x.st = .ready || x.st = .blocked) && x.pkt.isEmpty) then .refused (.notEnabled "PACKET_READ_DONE")
  else match hubRead (.packetReadDone slot) (.packet slot x.tok) x.ctx (x.ringbase + 64 * (x.headc % 2 ^ x.ringlog)) 64 s with
    | (none, s) => .next s
    | (some (.error _), s) => .next (stallSlot slot s)
    | (some (.ok b), s) =>
      let s := setSlot slot (fun x => { x with pkt := b }) s
      .next (if Pkt.waits b then askDep slot s else dispatchOpp (slotOwner s x) s)

/-- DEPENDENCE_REREAD (R291). -/
def execDependenceReread (slot : Fin 256) : State → Out := fun s =>
  onOccasion "DEPENDENCE_REREAD" ((slotOf s slot).st = .blocked) (askDep slot s)

/-- DEPENDENCE_READ_DONE (R291). -/
def execDependenceReadDone (slot : Fin 256) : State → Out := fun s =>
  let x := slotOf s slot
  match x.reread with
  | none => .refused (.notEnabled "DEPENDENCE_READ_DONE")
  | some t =>
    if !(x.st = .ready || x.st = .blocked) then .refused (.notEnabled "DEPENDENCE_READ_DONE")
    else match hubRead (.packetReadDone slot) (.depRead slot x.tok) x.ctx (Pkt.depva x.pkt) 8 s with
      | (none, s) => .next s
      | (some (.error _), s) => .next (stallSlot slot s)
      | (some (.ok b), s) =>
        if leVal b ≥ Pkt.depval x.pkt then
          .next (dispatchOpp (slotOwner s x) (setSlot slot (fun x => { x with st := .ready, reread := none }) s))
        else
          let due := if x.st = .ready then s.now + 4096 else max s.now (t + 4096)
          .next ((setSlot slot (fun x => { x with st := .blocked }) s).schedule due (.dependenceReread slot))

/-! ### LNCH (R307, R308) -/

/-- An LNCH, as an instruction or as a replay sends it: its packet is read as a load of the wave; behind an unreported failure it
is only recorded (R56). -/
def runLnch (x : Who) (p aqi q : Nat) (al : Label) (pc : Nat) (s : State) : State :=
  let (id, s) := s.fresh
  let e := { Pend.blank "LNCH" with id, entry := false, pc, left := 0, job := .lnch p aqi q al }
  let push := fun (e : Pend) (s : State) => s.updWave x.ref fun w => { w with pend := w.pend ++ [e] }
  if (s.wave? x.ref).any (fun w => w.pend.any (·.fail.isSome)) then push e s
  else
    let (b, s) := engRead .wave (.lnch id) x false p 64 .empty (push { e with left := 1 } s)
    let j : LnchJob := ⟨id, x.ref, id, x.ctx, aqi, q, b.vals.headD (.val 0), al ||| b.lab, al, none, none⟩
    let s := s.setGate { s.gate with lnchs := s.gate.lnchs ++ [j] }
    if b.parts = 0 || b.over_ then s.scheduleOnce s.now (.lnchComplete id)
    else
      -- the request of a packet within the package goes on to the hub
      let on := fun (e : List Leg × Option Nat) => (e.1 ++ [Leg.rota .host .lnchPort], e.2)
      sendBatch x (.lnch id) { b with legs := b.legs.map on } s

/-- LNCH (R307). -/
def execLnch (p : Bool) (a b : Reg) (aqi : Fin 64) : State → Out := issue (.lnch p a b aqi) { p } fun c s =>
  let va := c.w.pair a
  if va % 64 != 0 then .trap s misalign va (c.w.pairLab a)
  else if fenceCond s c.ref allKinds .sys false then .wait s (.kinds allKinds .sys false)
  else .done (runLnch c.who va aqi ((sval c.w b).toNat % 512) (c.w.pairLab a ||| slab c.w b ||| c.w.ctxlbl) c.pc s)

/-- What the hub does with an LNCH at its admission: its packet joins its queue in turn, or it is refused (R307). -/
def lnchServe (j : LnchJob) (s : State) : State :=
  if !(s.ctx j.ctx).latched.aqimask.getLsbD j.aqi then refuseLnch 2 j s
  else if j.q ≥ (aqiOf s j.aqi).qcount then refuseLnch 3 j s
  else match (mappedSlot s j.aqi j.q).filter (·.known) with
    | none => refuseLnch 7 j s
    | some m => ringOp m.n (.lnch j.id) s

/-- Admission of an LNCH: it completes 1,024 cycles later (R308), but not before its ring write is performed (LOG 33). -/
def lnchAdmit (r : Req) (s : State) : State :=
  match r.purpose, r.legs with
  | .lnch id, [_] => match s.gate.lnchs.find? (·.id == id) with
    | some j =>
      let j := { j with due := some (s.now + 1024) }
      lnchServe j (updLnch id (fun _ => j) s)
    | none => s
  | _, _ => s

/-- An LNCH whose read of the packet, or whose ring write, timed out (R308, R398). -/
def lnchLost (j : LnchJob) (va : Nat) (s : State) : State :=
  (endAppend j false (failPend j.w j.pend ⟨fabTimeout, va % 2 ^ 56, j.absorb, true, false⟩ s)).scheduleOnce (max s.now (j.due.getD 0)) (.lnchComplete j.id)

/-- LNCH_COMPLETE (R308): first TAIL advances, where the ring write was posted; a read of the packet that failed ends it at once. -/
def execLnchComplete (lnch : Nat) : State → Out := fun s =>
  let late := fun (s : State) => (s.gate.lnchs.find? (·.id == lnch)).filter fun j => j.due.any fun d => decide (d ≤ s.now)
  let done := fun (j : LnchJob) (s : State) => returnDone j.w j.pend (s.setGate { s.gate with lnchs := s.gate.lnchs.filter (·.id != lnch) })
  let waits := s.hub.slots.any (·.line.contains (.lnch lnch))
  match s.gate.lnchs.find? (·.id == lnch) with
  | none => .refused (.notEnabled "LNCH_COMPLETE")
  | some j => match firstBad [j.pkt], j.ring with
    | some f, _ => .next (done j (failPend j.w j.pend ⟨f.1, f.2 % 2 ^ 56, j.absorb, f.1 == pageFault || f.1 == fabTimeout, false⟩ s))
    | none, some _ =>
      if hubOut s (.lnch lnch) then .refused (.notEnabled "LNCH_COMPLETE")
      else
        let s := endAppend j true s
        .next (match late s with
          | some j => done j s
          | none => s.scheduleOnce (max s.now (j.due.getD 0)) (.lnchComplete lnch))
    | none, none => if waits then .refused (.notEnabled "LNCH_COMPLETE") else match late s with
      | some j => .next (done j s)
      | none => .refused (.notEnabled "LNCH_COMPLETE")

end Sys2Proof.Machine
end

