-- ==== Sys2Proof/Machine/Group.lean ====
section
/-! DEFINITION. Groups: identities, placement, start, save and restore, end, compaction (spec/16_group.md R310 to R321;
spec/13_context.md R277 to R281; spec/15_kernel.md R299, R300, R306). -/

namespace Sys2Proof.Machine

/-! ### What a group needs (R187, R312) -/

structure Ask where
  owner  : Nat
  ctx    : Nat
  kernel : Nat
  waves  : Nat
  vregs  : Nat
  hregs  : Nat
  accs   : Nat
  s      : Nat
  x      : Nat
  f      : Nat
  det    : Bool
  slots  : List Nat
  comp   : Bool := false      -- the group is being put back by a compaction (R316)

def scratchBanks (kib : Nat) : Nat := (kib + 7) / 8
/-- Windows of a split (R187). -/
def splitWindows (sb x f w : Nat) : Nat := if sb + x = 0 then 0 else min (16 / w) ((38 - f) / (sb + x))

def Kernel.validSlots (k : Kernel) : List Nat := (List.range 15).filter fun n => (k.segs[n]?).any (·.valid)
def Kernel.ask (k : Kernel) : Ask :=
  { owner := k.owner, ctx := k.ctx, kernel := k.id, waves := k.waves, vregs := k.vregs, hregs := k.hregs, accs := k.accs
    s := scratchBanks k.scratch, x := if k.xchg then 2 else 0, f := k.fifo, det := k.det, slots := k.validSlots }
def Kernel.groups (k : Kernel) : Nat := k.dx * k.dy * k.dz

/-- Groups resident on a core. -/
def coreGroups (s : State) (core : Nat) : List Group := s.groups.filter fun g => (g.place.map (·.core)) == some core

/-- Register ranges in use or in quarantine. -/
def takenRegs (s : State) (core : Nat) : List (Nat × Nat) :=
  ((coreGroups s core).map fun g => ((g.place.map (·.base)).getD 0, g.nwaves * g.vdecl)) ++ (s.core core).quar.map fun q => (q.base, q.len)
/-- The lowest base at which a block is free (R313). -/
def freeBase (taken : List (Nat × Nat)) (need : Nat) : Option Nat :=
  ((List.range 64).map (16 * ·)).find? fun b =>
    decide (b + need ≤ 1024) && taken.all fun t => decide (b + need ≤ t.1) || decide (t.1 + t.2 ≤ b)
def freeRegs (taken : List (Nat × Nat)) : Nat := 1024 - (taken.map (·.2)).sum

/-- The free positions in the order in which a group takes them (R313). -/
def freePositions (s : State) (core : Nat) (det : Bool) : List Nat :=
  let used := (coreGroups s core).flatMap fun g => (g.place.map (·.pos)).getD []
  ((List.range 16).map fun k => if det then k / 2 + 8 * (k % 2) else k).filter (!used.contains ·)

/-- The window that a group takes: none needed, or the lowest free one. -/
def freeWindow (s : State) (core : Nat) (a : Ask) : Option (Option Nat) :=
  let here := coreGroups s core
  let c := s.core core
  if !here.isEmpty && !(c.spS == a.s && c.spX == a.x && c.spF == a.f && c.spW == a.waves) then none
  else if a.s + a.x = 0 then some none
  else
    let used := here.filterMap fun g => g.place.bind (·.win)
    ((List.range (splitWindows a.s a.x a.f a.waves)).find? (!used.contains ·)).map some

/-- R299 on a core: slot 15 stands for the handler of the groups that are there, unless its load failed. -/
def slotsFit (s : State) (core : Nat) (a : Ask) : Bool :=
  (a.slots.all fun n =>
    let sl := (s.core core).slot n
    sl.kernel == some a.kernel || (sl.kernel.isNone && sl.st = .empty)) && (coreGroups s core).all (·.ctx == a.ctx)
    && ((s.core core).slot 15).st ≠ .failed

/-- Whether a core is to be spared (R411): no group takes a place there until the spare has taken over. -/
def underRepair (s : State) (core : Nat) : Bool := s.rel.repairs.contains (1, core)

/-- Whether a compaction keeps a core for the groups that it saved there (R316). -/
def underCompaction (s : State) (core : Nat) (a : Ask) : Bool :=
  !a.comp && ((s.owner? a.owner).map fun o => o.cbusy && o.ccore == core).getD false

/-- Everything of R312 but the register block. -/
def fitsOther (s : State) (core : Nat) (a : Ask) : Bool :=
  let here := coreGroups s core
  ((s.owner? a.owner).map fun o => o.spec.cores.contains core).getD false && !underRepair s core && !underCompaction s core a
    && decide (a.waves ≤ (freePositions s core a.det).length)
    && (freeWindow s core a).isSome
    && decide ((here.map (·.hdecl)).sum + a.hregs ≤ 16) && decide ((here.map (·.adecl)).sum + a.accs ≤ 4)
    && slotsFit s core a

/-- The place that a group takes on a core, if it fits. -/
def fit (s : State) (core : Nat) (a : Ask) : Option Place :=
  if !fitsOther s core a then none
  else match freeBase (takenRegs s core) (a.waves * a.vregs), freeWindow s core a with
    | some base, some win => some ⟨core, (freePositions s core a.det).take a.waves, base, win⟩
    | _, _ => none

/-- Whether a core is fragmented for a group (R315). -/
def fragmented (s : State) (core : Nat) (a : Ask) : Bool :=
  fitsOther s core a && (freeBase (takenRegs s core) (a.waves * a.vregs)).isNone
    && decide (a.waves * a.vregs ≤ freeRegs (takenRegs s core))

def ownerCores (s : State) (o : Nat) : List Nat :=
  let mine := ((s.owner? o).map (·.spec.cores)).getD []
  (List.range 512).filter mine.contains

/-- First fit: for one group, the lowest core; for a cluster, the lowest quad with enough cores (R313). -/
def firstFit (s : State) (a : Ask) (c : Nat) : Option (List Place) :=
  let cores := ownerCores s a.owner
  if c ≤ 1 then (cores.findSome? fun k => fit s k a).map fun p => [p]
  else (List.range 128).findSome? fun q =>
    let ps := (cores.filter (· / 4 == q)).filterMap fun k => fit s k a
    if ps.length ≥ c then some (ps.take c) else none

/-! ### Taking a place -/

/-- Whether a store of a core has not reached L2 yet (R188): a store to LOCAL memory until it is acknowledged, one for the hub until it
stands at its port. -/
def storesOut (s : State) (core : Nat) : Bool :=
  s.mem.stores.any (·.core == core) ||
    s.mem.fabs.any fun f => f.core == core && f.acc.kind = .store && (f.src = .wave || f.src = .group) && !(f.gone || f.atHome || f.applied || decide (f.path < 4))

/-- Whether a core belongs to a TIMED owner. -/
def timedCore (s : State) (core : Nat) : Bool := s.owners.any fun o => o.timed && o.st ≠ .retired && o.spec.cores.contains core

/-- An empty core takes the split of its first group (R187, R188); stores on their way out hold the new split back (R306). For a TIMED owner
this takes at most the length of a launch dispatch, and lies within that of the kernel, where its launch brings it about. -/
def takeSplit (core : Nat) (a : Ask) (s : State) : State :=
  let c := s.core core
  if !(coreGroups s core).isEmpty || (c.spS == a.s && c.spX == a.x && c.spF == a.f && c.spW == a.waves) then s
  else
    let g := splitWindows a.s a.x a.f a.waves
    let c1 := { c with spS := a.s, spX := a.x, spF := a.f, spG := g, spW := a.waves }
    let busy := decide (l1Ways c1 < l1Ways c) && storesOut s core
    let time := if s.timed a.owner then min Config.splitWriteback 2048 else Config.splitWriteback
    let ways := fun (l : List Line) => l.foldr (fun x acc => if (acc.filter fun y => y.pa / 64 % 128 == x.pa / 64 % 128).length < l1Ways c1 then x :: acc else acc) []
    let s := s.updCore core fun _ => { c1 with l1 := (ways c.l1.reverse).reverse, wback := busy }
    let launch := s.timed a.owner && ((s.kernel? a.kernel).any fun k => k.st = .preloading)
    if busy && !launch then s.schedule (s.now + time) (.splitWritebackDone core) else s

/-- SPLIT_WRITEBACK_DONE (R306): while stores are still on their way, the model looks again 8 cycles later (LOG 33), but for a TIMED owner, whose
interval is fixed (R188). -/
def execSplitWritebackDone (core : Nat) : State → Out := fun s =>
  onOccasion "SPLIT_WRITEBACK_DONE" (s.core core).wback
    (if storesOut s core && !timedCore s core then s.schedule (s.now + 8) (.splitWritebackDone core)
     else s.updCore core fun c => { c with wback := false })

/-- A wave at its start (R311); TRAPPCV reads 0 before its first trap (LOG 33). -/
def Wave.start (k : Kernel) (lab : Label) (ocyc : Nat) : Wave :=
  { s := (List.range 64).map fun n => if n = 2 then ⟨nat32 k.args, lab⟩ else if n = 3 then ⟨nat32 (k.args / 2 ^ 32), lab⟩ else .zero
    v := List.replicate k.vregs .zero, m := List.replicate 8 .zero, x := List.replicate 4 .zero, pcs := List.replicate 64 k.entry
    exited := 0, ctxlbl := lab, rlane := .zero, fflags := .zero, ocych := 0, lclkh := 0, overrun := false, tcause := 0, tpc := .zero
    taddr := 0, tpcv := List.replicate 64 0, intrap := false, rngkey := 0, rnglab := 0, rngctr := List.replicate 64 0, pend := []
    pathcnt := [0, 0, 0, 0], eseen := 0, claims := 0, held := [], status := .running, phase := 0, target := 0, ready := ocyc, lastIss := 0 }

/-- A group as it is placed for the first time (R311). -/
def Group.start (k : Kernel) (gid lin : Nat) (tenant : Nat) (p : Place) : Group :=
  let w := Wave.start k (tenantBit tenant) 0
  { gid, kernel := k.id, ctx := k.ctx, owner := k.owner, lin, waves := List.replicate k.waves w, nwaves := k.waves, vdecl := k.vregs
    hdecl := k.hregs, adecl := k.accs, kib := k.scratch, xchg := k.xchg, det := k.det, st := .starting, place := some p, former := none
    ocyc := 0, counting := none, win := [], wlab := List.replicate (scratchBanks k.scratch) 0, front := [], flab := 0, back := [], blab := 0
    backSrc := [], h := List.replicate 16 .zero, hnew := [], a := List.replicate 4 .zero, cur := 0, detBuf := [], sovf := false, mflags := 0
    msat := false, mlab := 0, eseq := 0, ekind := 0, ecause := 0, eaddr := 0, elbl := 0, stop := false, replay := false, debug := false
    victim := none, frame := false, frameNo := 0, mode := 0, detAtoms := [], compact := false, images := [], tiles := [], savedAt := 0
    stepLeft := none, placedAt := gid, begun := 0 }

/-! ### Preloads (R300) -/

/-- An image to load into a slot: slot, address, words. -/
abbrev ImageReq := Nat × Nat × Nat

/-- The preload that is to bring slot 15 of a core, while it is under way. -/
def handlerLoad (s : State) (core : Nat) : Option Nat :=
  let sl := (s.core core).slot 15
  if sl.st = .empty && sl.load ≠ 0 then some sl.load else none

/-- A preload of a kernel on a core begins (R300); a TIMED owner's ends at its deadline. -/
def notePreload (core : Nat) (k : Kernel) (fetch left : Nat) (due also : Option Nat) (s : State) : State :=
  let s := s.updKernel k.id fun k => { k with loads := k.loads ++ [⟨core, fetch, left, none, due, also⟩] }
  match due with
  | some d => s.schedule d (.preloadDeadline core k.id)
  | none => s

/-- Start loading the slots of a core for a kernel that no preload is loading already; a load of the handler that another kernel's preload has
under way is waited for. -/
def startPreload (core : Nat) (k : Kernel) (gid : Nat) (due : Option Nat) (l : List ImageReq) (s : State) : State :=
  let also := if l.any (·.1 == 15) then (handlerLoad s core).filter fun f => k.loads.all (·.fetch != f) else none
  let l := l.filter fun e => ((s.core core).slot e.1).st = .empty && ((s.core core).slot e.1).load == 0
  if l.isEmpty then (if also.isNone then s else notePreload core k 0 0 due also s)
  else
    let (id, s) := s.fresh
    let imgs := l.map fun e => (⟨e.1, e.2.1, e.2.2, e.1 != 15, if e.1 = 15 then none else some k.vregs⟩ : ImageJob)
    let f : Fetch := { id, quad := quadOf core, owner := k.owner, core, kernel := some k.id, w := ⟨gid, 0⟩, ctx := k.ctx, det := false, turn := none
                       moving := false, asking := false, imgs, chunk := 0, vals := [], lab := 0, slots := [] }
    let s := l.foldl (fun s e => s.updCore core (·.updSlot e.1 fun sl => { sl with load := id })) s
    let s := notePreload core k id 1 due also s
    kickCopy (quadOf core) k.owner (s.setEng { s.eng with fetch := s.eng.fetch ++ [f] })

/-- The slots of a kernel are granted to it on a core (R298). -/
def grantSlots (core : Nat) (k : Kernel) (s : State) : State :=
  k.validSlots.foldl (fun s n => s.updCore core (·.updSlot n fun sl => { sl with kernel := some k.id })) s

/-- The images that a first group of a kernel needs on a core (R300). -/
def kernelImages (s : State) (k : Kernel) : List ImageReq :=
  let d := (s.ctx k.ctx).latched
  ((List.range 15).filterMap fun n => (k.segs[n]?).bind fun x => if x.valid && x.preload then some (n, x.va, x.words) else none)
    ++ [(15, d.hndimg, d.hndwords)]

/-! ### Switches of a TIMED owner (R38, R44, R281) -/

def switchTime : Nat := 144128
def preloadTime : Nat := 65536

/-- Owners whose table changes in the slots of an owner, between two sets of tables. -/
def slotsChanged (a b : List (BitVec 64)) (o : Nat) : Bool :=
  (a.zip b).any fun e => (List.range 16).any fun i => (fld e.1.toNat (4 * i) 4 == o) != (fld e.2.toNat (4 * i) 4 == o)

def timedOwners (s : State) : List Nat := (s.owners.filter fun o => o.timed && o.st ≠ .retired).map (·.id)
/-- Units of the event records: port and lane, stack and channel, die, slice and way (R412). -/
def laneUnit (port lane : Nat) : Nat := 32 * port + lane
def chanUnit (stack chan : Nat) : Nat := 32 * stack + chan
def wayUnit (die slice way : Nat) : Nat := (32 * die + slice) * 16 + way

/-- The TIMED owners whose resources a spare take-over changes (R410, R44). -/
def concerned (s : State) (kind unit : Nat) : List Nat :=
  (timedOwners s).filter fun o => match s.owner? o with
    | none => false
    | some x => match kind with
      | 1 => x.spec.cores.contains unit
      | 2 => s.link.route.any fun e => e.2.2.1 == unit / 32 && e.2.2.2.1
      | 4 => true
      | 5 => x.spec.slices.contains (unit / 512, unit / 16 % 32)
      | _ => false

/-- Whether a repair that waits for its boundary holds back an owner's switches (R44). -/
def switchHeld (s : State) (o : Nat) : Bool :=
  (s.rel.repairs.any fun r => (r.1 != 1 || (coreGroups s r.2).isEmpty) && (concerned s r.1 r.2).contains o) ||
    (match s.rota.pend with
     | some c => c.repair && s.timed o && slotsChanged s.rota.live c.tables o
     | none => false) || (s.timed o && s.rel.moves.any (·.1 == o))

def isSwitching (s : State) (o : Nat) : Bool := ((s.owner? o).map fun (x : Owner) => decide (x.st = .switching)).getD false

/-- Whether every wave of a group stands at a park point. -/
def allStopped (g : Group) : Bool := g.waves.all fun w => w.status = .stopped || w.status = .ended

/-- Whether a group may begin its save: requested, its waves stopped, a frame free for each group of its cluster (R278). -/
def saveDue (s : State) (g : Group) : Bool :=
  g.stop && g.st = .running && allStopped g && g.waves.any (·.status = .stopped) && (g.frame || decide (framesNeeded s g ≤ freeFrames s g.ctx))

/-- A padded switch begins (R38): the groups whose waves have stopped are saved in it, and their OCYC freezes (R37). -/
def beginSwitch (o : Nat) (s : State) : State :=
  if isSwitching s o then s
  else
    let e := s.now + switchTime
    let due := s.groups.filter fun g => g.owner == o && saveDue s g
    let s := s.setGroups (amend (fun g => g.owner == o && saveDue s g) (Group.freeze s.now) s.groups)
    let s := due.foldl (fun s g => s.scheduleOnce s.now (.groupSave g.gid)) s
    (s.updOwner o fun x => { x with st := .switching, switchAt := some e }).schedule e (.switchEnd (Fin.ofNat 8 o))

/-- The first boundary at or after a cycle. -/
def boundaryFrom (c : Nat) : Nat := (c + 255) / 256 * 256

/-- When a save or a restore that is ready now completes: within the padded switch for a TIMED owner (R281), else at a boundary. -/
def switchDone (s : State) (o : Nat) (restore : Bool) : Nat :=
  match (s.owner? o).bind (·.switchAt) with
  -- a save leaves room for what is restored in the same switch (R281, R316)
  | some e => if restore then e else min (e - preloadTime - 512) (s.now + Config.elasticSwitch)
  | none => if s.timed o then boundaryFrom s.now else s.now + Config.elasticSwitch

/-- An ELASTIC owner is SWITCHING from the begin of a save or a restore (R45) to the first boundary at which none of its groups is being
saved or restored. -/
def elasticSwitching (o : Nat) : State → State :=
  State.updOwner o fun x => if !x.timed && x.st = .running then { x with st := .switching } else x

/-! ### Placement (R313, R314) -/

/-- Numbers of those who wait on a fragmented core (R315): a saved group, a running kernel's next group, a queue slot's launch. -/
def groupWaiter (gid : Nat) : Nat := 3 * gid
def kernelWaiter (k : Nat) : Nat := 3 * k + 1
def slotWaiter (n : Nat) : Nat := 3 * n + 2

/-- A waiter is placed: FRAG, if it stands for it, is cleared (R315). -/
def waiterPlaced (o id : Nat) (s : State) : State :=
  (s.unschedule (.patienceExpire id)).updOwner o fun x => if x.frag && x.fragId == id then { x with frag := false } else x

/-- A new group of a kernel takes a place. -/
def placeNew (k : Kernel) (lin : Nat) (p : Place) (s : State) : State :=
  let s := takeSplit p.core k.ask s
  let (gid, s) := s.fresh
  let s := grantSlots p.core k s
  let s := s.setGroups (s.groups ++ [Group.start k gid lin (s.ctx k.ctx).latched.tenant p])
  let due := if s.timed k.owner then some (s.now + preloadTime) else none
  startPreload p.core k gid due (kernelImages s k) s

/-- The next cluster of a kernel takes its places. -/
def placeNext (k : Kernel) (ps : List Place) (s : State) : State :=
  let s := ps.zipIdx.foldl (fun s e => placeNew k (k.next + e.2) e.1 s) s
  let s := waiterPlaced k.owner (slotWaiter k.slot) (waiterPlaced k.owner (kernelWaiter k.id) s)
  s.updKernel k.id fun k => { k with next := k.next + ps.length }

/-- A saved group takes a place again (R280). -/
def placeSaved (g : Group) (p : Place) (s : State) : State :=
  match s.kernel? g.kernel with
  | none => s
  | some k =>
    let s := takeSplit p.core k.ask s
    let s := grantSlots p.core k s
    let at_ := switchDone s g.owner true
    let s := elasticSwitching g.owner (waiterPlaced g.owner (groupWaiter g.gid) s)
    let (n, s) := s.fresh
    let s := s.updGroup g.gid fun g => { g with st := .restoring, place := some p, savedAt := at_, compact := false, placedAt := n }
    let due := if s.timed g.owner then some (s.now + preloadTime) else none
    startPreload p.core k g.gid due (g.images.map fun i => (i.slot, i.va, i.words)) s

/-- A saved group that may be placed (R314, R317). -/
def mayRestore (s : State) (g : Group) : Bool :=
  g.st = .saved && (!g.replay || g.mode != 0) && g.victim.isNone && !g.debug &&
    (match (s.ctx g.ctx).st with
     | .suspended => false
     | .revoked => false
     | _ => true)

/-- The saved groups of an owner in the order of their save; those of a compaction come first (R314, R316). -/
def savedOrder (s : State) (o : Nat) : List Group :=
  let l := s.groups.filter fun g => g.owner == o && mayRestore s g
  let ins := fun (before : Group → Group → Bool) (g : Group) (l : List Group) => l.takeWhile (fun h => before h g) ++ [g] ++ l.dropWhile (fun h => before h g)
  let cs := (l.filter (·.compact)).foldl (fun r g => ins (fun h g => decide ((h.former.map (·.base)).getD 0 ≤ (g.former.map (·.base)).getD 0)) g r) []
  let ns := (l.filter (!·.compact)).foldl (fun r g => ins (fun h g => decide (h.savedAt ≤ g.savedAt)) g r) []
  if s.groups.any (fun g => g.owner == o && g.compact && g.resident) then []
  else if cs.isEmpty then ns else cs

/-- Whether a compaction of an owner has groups to put back before any other candidate (R316). -/
def compacting (s : State) (o : Nat) : Bool := s.groups.any fun g => g.owner == o && g.compact

/-- Where a saved group, with its cluster, fits: on its former core in a compaction, else by first fit. -/
def savedFit (s : State) (g : Group) : Option (List (Group × Place)) :=
  let cl := clusterOf s g
  let c := clusterSize s g.kernel
  match s.kernel? g.kernel with
  | none => none
  | some k =>
    if g.compact then
      (g.former.bind fun f => fit s f.core { k.ask with comp := true }).map fun p => [(g, p)]
    else if c ≤ 1 then (firstFit s k.ask 1).bind fun ps => ps.head?.map fun p => [(g, p)]
    else
      let out := cl.filter fun h => h.place.isNone
      if out.any (fun h => !mayRestore s h) then none
      else
        -- members still resident keep their cores
        let q := (cl.findSome? fun h => h.place.map fun p => p.core / 4)
        let cores := (ownerCores s g.owner).filter fun k => (match q with
          | some q => k / 4 == q
          | none => true) && cl.all fun h => (h.place.map (·.core)) != some k
        let ps := match q with
          | some _ => some (cores.filterMap fun n => fit s n k.ask)
          | none => firstFit s k.ask out.length
        ps.bind fun ps => if ps.length < out.length then none else some (out.zip ps)

/-- Running kernels of an owner with groups not placed yet, by descending PRIO, then arrival (R314). -/
def waitingKernels (s : State) (o : Nat) : List Kernel :=
  let l := s.hub.kernels.filter fun k => k.owner == o && k.st = .running && decide (k.next < k.groups)
    && (match (s.ctx k.ctx).st with
        | .suspended => false
        | .revoked => false
        | _ => true)
  l.foldl (fun r k =>
    let before := fun (h : Kernel) => decide (k.prio < h.prio) || (h.prio == k.prio && decide (h.arrival ≤ k.arrival))
    r.takeWhile before ++ [k] ++ r.dropWhile before) []

/-- Those of an owner that wait for a place once placement has come to rest (R315), launches apart: their numbers and what they ask. -/
def waiters (s : State) (o : Nat) : List (Nat × Ask) :=
  (savedOrder s o).filterMap (fun g => (s.kernel? g.kernel).map fun k => (groupWaiter g.gid, k.ask))
    ++ (waitingKernels s o).map fun k => (kernelWaiter k.id, k.ask)

/-- The lowest core fragmented for a group. -/
def fragCore (s : State) (a : Ask) : Option Nat := (ownerCores s a.owner).find? fun c => fragmented s c a

/-- The patience of a waiter runs while a core is fragmented for it (R315). -/
def watchWaiter (o : Nat) (x : Nat × Ask) (s : State) : State :=
  let time := usCycles s (((s.owner? o).map fun (x : Owner) => x.patience).getD 20)
  match fragCore s x.2 with
  | some _ => s.scheduleOnce (s.now + time) (.patienceExpire x.1)
  | none => s.unschedule (.patienceExpire x.1)

/-- One placement (R314): the first candidate that fits; when none does, a new dispatch is looked for. -/
def placeOne (o : Nat) (s : State) : State :=
  let again := fun (s : State) => s.scheduleOnce s.now (.groupPlace (Fin.ofNat 8 o))
  -- a TIMED owner's restore lies within one switch, with its preload (R281, R300)
  let room := ((s.owner? o).bind (·.switchAt)).all fun e => decide (s.now + preloadTime ≤ e)
  let held := switchHeld s o || ((s.owner? o).bind (·.heldAt)) == some s.now
  let canSwitch := !s.timed o || (if isSwitching s o then room else !held)
  match (if canSwitch then (savedOrder s o).findSome? (savedFit s) else none) with
  | some l =>
    let s := if s.timed o then beginSwitch o s else s
    again (l.foldl (fun s e => placeSaved e.1 e.2 s) s)
  | none =>
    if compacting s o then s
    else match (waitingKernels s o).findSome? fun k => (firstFit s k.ask k.c).map fun ps => (k, ps) with
      | some (k, ps) => again (placeNext k ps s)
      | none => (overList (watchWaiter o) (waiters s o) s).scheduleOnce s.now (.dispatch (Fin.ofNat 8 o))

/-- GROUP_PLACE (R313). -/
def execGroupPlace (o : Fin 8) : State → Out := fun s =>
  match s.owner? o with
  | none => .refused (.notEnabled "GROUP_PLACE")
  | some x =>
    if x.st = .retired then .refused (.notEnabled "GROUP_PLACE")
    else if x.reset then .next s
    else if x.timed && s.now % 256 != 0 then .next (s.scheduleOnce s.clk.boundary (.groupPlace o))
    else .next (placeOne o s)

/-! ### Start (R37, R321) -/

/-- Whether nothing of its core holds a placed group back. -/
def coreReady (s : State) (g : Group) : Bool :=
  match g.place, s.kernel? g.kernel with
  | some p, some k => !(s.core p.core).wback && k.loads.all (·.core != p.core)
  | _, _ => false

def startReady (s : State) (g : Group) : Bool :=
  g.st = .starting && coreReady s g && ((s.kernel? g.kernel).map fun (k : Kernel) => decide (k.st = .running)).getD false

/-- GROUP_START (R321). -/
def execGroupStart (gid : Nat) : State → Out := fun s =>
  match s.group? gid with
  | none => .refused (.notEnabled "GROUP_START")
  | some g =>
    if !startReady s g then .refused (.notEnabled "GROUP_START")
    else if s.timed g.owner && s.now % 256 != 0 then .next (s.scheduleOnce s.clk.boundary (.groupStart gid))
    else
      let k := ((s.kernel? g.kernel).map (·.start)).getD 0
      let s := match g.place with
        | some p => s.updCore p.core fun c => { c with cc := [] }
        | none => s
      let s := s.updCtx g.ctx fun x => if x.st = .bound || x.st = .preempted then { x with st := .active } else x
      .next (s.updGroup gid fun g => { g with
        st := .running, ocyc := s.now - k, counting := some s.now, begun := s.now, waves := g.waves.map fun w => { w with ready := s.now } })

/-- A launch ends REFUSED after its groups were placed, none having issued (R305). -/
def refusePlaced (k : Nat) (s : State) : State :=
  let mine := s.groups.filter (·.kernel == k)
  let s := mine.foldl (fun s g => killGroup g.gid s) s
  let s := overList ctxRest ((mine.map (·.ctx)).eraseDups) s
  (s.updKernel k fun x => { x with st := .refused, reason := 10, cause := launchRefused }).schedule s.now (.kernelDrainComplete k)

/-- A preload of a kernel on a core is over (R300, R305). -/
def preloadOver (k : Nat) (l : Preload) (fail : Option (Nat × Nat)) (s : State) : State :=
  match s.kernel? k with
  | none => s
  | some kn =>
    let s := s.updKernel k fun x => { x with loads := x.loads.filter (· ≠ l) }
    match fail with
    | none => s
    | some f =>
      if kn.st = .preloading then refusePlaced k s
      else if kn.st = .refused || kn.st = .faulted then s
      else match s.groups.find? fun g => g.kernel == k with
        | none => faultKernel k f.1 s
        | some g => faultKernel k f.1 (logFault g 0 0 f.1 f.2 false false 0 0 s)

/-- Parts of a kernel's preloads are over; without a deadline, a preload is over with its last part. -/
def preloadPart (f : Preload → Preload) (k : Nat) (s : State) : State :=
  let s := s.updKernel k fun k => { k with loads := k.loads.map f }
  let ended := fun (l : Preload) => l.due.isNone && l.left == 0 && l.also.isNone
  overList (fun l s => preloadOver k l l.fail s) ((((s.kernel? k).map (·.loads)).getD []).filter ended) s

/-- PRELOAD_COMPLETE (R300). -/
def execPreloadComplete (core kernel : Nat) : State → Out := fun s =>
  match s.eng.fetch.find? fun f => f.core == core && f.kernel == some kernel && f.moving && f.imgs.isEmpty with
  | none => .refused (.notEnabled "PRELOAD_COMPLETE")
  | some f =>
    let s := s.setEng { s.eng with fetch := s.eng.fetch.filter (·.id != f.id) }
    let s := f.slots.foldl (fun s e => s.updCore core (·.updSlot e.1 fun sl => if sl.st = .empty && sl.load == f.id then e.2 else sl)) s
    let s := kickCopy f.quad f.owner s
    let fail := (f.slots.find? fun e => e.2.st = .failed).map fun e => (e.2.cause, e.2.addr)
    let handler := (f.slots.find? fun e => e.1 == 15 && e.2.st = .failed).map fun e => (e.2.cause, e.2.addr)
    let part := fun (l : Preload) =>
      if l.fetch == f.id then { l with left := 0, fail := l.fail <|> fail }
      else if l.also == some f.id then { l with also := none, fail := l.fail <|> handler } else l
    let users := (s.hub.kernels.filter fun k => k.loads.any fun l => l.fetch == f.id || l.also == some f.id).map (·.id)
    .next (overList (preloadPart part) users s)

/-- PRELOAD_DEADLINE (R300). -/
def execPreloadDeadline (core kernel : Nat) : State → Out := fun s =>
  let ls := (((s.kernel? kernel).map (·.loads)).getD []).filter fun l => l.core == core && l.due.any fun d => decide (d ≤ s.now)
  let whole := fun (l : Preload) => l.left == 0 && l.also.isNone
  onOccasion "PRELOAD_DEADLINE" (!ls.isEmpty)
    (overList (fun l s => preloadOver kernel l (if whole l then l.fail else some (l.fail.getD (codeAbsent, 0))) s) ls s)

/-! ### Save (R278, R279) -/

/-- The vector registers that a save keeps (R279): those live at the lanes' PCs, all where a PC has no entry. -/
def liveRegs (s : State) (g : Group) (w : Wave) : BitVec 64 :=
  match g.place with
  | none => BitVec.allOnes 64
  | some p => ((w.liveLanes.map w.pcAt).eraseDups).foldl (fun m pc =>
      m ||| look (BitVec.allOnes 64) (pc % 2048) ((s.core p.core).slot (pc / 2048)).live) 0

def keepLive (m : BitVec 64) (w : Wave) : Wave := { w with v := w.v.mapIdx fun n r => if m.getLsbD n then r else .zero }

/-- Whether a group's save may be written: engines at rest (R278). -/
def saveReady (s : State) (g : Group) : Bool :=
  !(s.eng.mmas.any fun m => m.gid == g.gid && m.st = .running) && !(s.eng.copies.any (·.gid == g.gid))
    && !(s.eng.mldbs.any (·.gid == g.gid))

/-- Whether a group's save begins: for a TIMED owner, in the switch that froze its OCYC (R37, R38). -/
def saveNow (s : State) (g : Group) : Bool :=
  saveDue s g && (!s.timed g.owner || (isSwitching s g.owner && g.counting.isNone))

def untag (gid : Nat) (m : Macro) : Macro := if m.tag == some gid then { m with tag := none } else m

/-- The reads of A that a group's saved MMAs had under way return to nobody: a restore makes them again. -/
def quietRows (gid : Nat) (s : State) : State :=
  let ids := (s.eng.mmas.filter fun m => m.gid == gid && m.st = .saved).map (·.id)
  let row : Purpose → Bool
    | .mmaRow m _ => ids.contains m
    | _ => false
  let s := setReqs s (amend (fun r => row r.purpose) (fun r => { r with purpose := .idle }) s.rota.reqs)
  s.setMem { s.mem with fabs := amend (fun f => row f.job) (fun f => { f with job := .idle }) s.mem.fabs }

/-- GROUP_SAVE (R278). -/
def execGroupSave (gid : Nat) : State → Out := fun s =>
  match s.group? gid with
  | none => .refused (.notEnabled "GROUP_SAVE")
  | some g =>
    if !saveNow s g then .refused (.notEnabled "GROUP_SAVE")
    else
      let s := elasticSwitching g.owner (holdFrames g s)
      let atoms := ((g.place.map fun p => (s.core p.core).detBuf).getD []).filter (·.gid == gid)
      let s := match g.place with
        | some p => s.updCore p.core fun c => { c with detBuf := c.detBuf.filter (·.gid != gid) }
        | none => s
      let s := s.updGroup gid fun g => { g.freeze s.now with st := .saving, images := slotImages s g, detAtoms := atoms }
      let part := fun (m : Mma) => if m.gid == gid then
        (if m.st = .running then { m with stopping := true } else { m with st := .saved, adata := [], asked := false }) else m
      .next (quietRows gid (s.setEng { s.eng with mmas := s.eng.mmas.map part }))

/-- The pages of a save frame, accessed with the label of what it holds (R262, R278): the first failing check. -/
def frameCheck (x : Who) (k : AccKind) (va : Nat) (lab : Label) : List Nat → State → Option (Nat × Nat) × State
  | [], s => (none, s)
  | n :: l, s =>
    match engCheck x k (va + 4096 * n) lab s with
    | (.error cause, s) => (some (cause, va + 4096 * n), s)
    | (.ok _, s) => frameCheck x k va lab l s

/-- The labels of a held request (R271): its addresses and data, and what it returned. -/
def Pend.labels (p : Pend) : Label :=
  let job : Label := match p.job with
    | .none => 0
    | .acc a => a.al ||| a.dl
    | .release _ _ _ _ al | .lnch _ _ _ al | .tset _ _ al => al
  p.ws.foldl (fun l r => l ||| r.lab) (p.lab ||| p.flab ||| job)

/-- The labels of everything that a group's save holds, its MMAs apart. -/
def groupLabels (g : Group) : Label :=
  let ws := g.waves.foldl (fun l w =>
    w.s.foldl (fun l r => l ||| r.lab) (w.v.foldl (fun l r => l ||| r.lab) (w.m.foldl (fun l r => l ||| r.lab)
      (w.x.foldl (fun l r => l ||| r.lab) (w.held.foldl (fun l p => l ||| p.labels)
        (l ||| w.ctxlbl ||| w.rlane.lab ||| w.fflags.lab ||| w.rnglab ||| w.tpc.lab)))))) (0 : Label)
  let hs := g.h.foldl (fun l r => l ||| r.lab) (g.a.foldl (fun l r => l ||| r.lab) ws)
  g.tiles.foldl (fun l t => l ||| t.lab) (g.wlab.foldl (· ||| ·) (hs ||| g.flab ||| g.blab ||| g.mlab ||| g.elbl))

/-- What a save keeps of a group: its tiles, and of its vector registers the live ones (R278, R279, R368). -/
def savedAs (s : State) (g : Group) : Group :=
  let mac := ((g.place.map fun p => (s.core p.core).macros).getD [])
  let tiles := (mac.mapIdx fun i m => (i, m)).filterMap fun e => if e.2.tag == some g.gid then some { e.2.tile with mac := e.1 } else none
  { g with tiles, waves := g.waves.map fun w => keepLive (liveRegs s g w) w }

def frameWho (_s : State) (g : Group) : Who := g.who ⟨g.gid, 0⟩ (((g.place <|> g.former).map (·.core)).getD 0)
def checkFrame (g : Group) (k : AccKind) (s : State) : Option (Nat × Nat) × State :=
  let mmas := (s.eng.mmas.filter (·.gid == g.gid)).foldl (fun l m => l ||| m.lab ||| m.ctxl) (groupLabels g)
  frameCheck (frameWho s g) k ((s.ctx g.ctx).latched.saveva + 2 ^ 20 * g.frameNo) mmas (List.range 256) s

/-- A save or restore whose frame access faults: the kernel ends FAULTED, the context is SUSPENDED (R264, R278). -/
def frameFault (g : Group) (f : Nat × Nat) (s : State) : State :=
  suspendCtx g.ctx (faultKernel g.kernel f.1 (logFault g 0 0 f.1 f.2 false false 0 0 s))

/-- GROUP_SAVE_COMPLETE (R278). -/
def execGroupSaveComplete (gid : Nat) : State → Out := fun s =>
  match s.group? gid with
  | none => .refused (.notEnabled "GROUP_SAVE_COMPLETE")
  | some g =>
    if g.st ≠ .saving || !saveReady s g then .refused (.notEnabled "GROUP_SAVE_COMPLETE")
    else
      let kept := savedAs s g
      let part := fun (m : Mma) => if m.gid == gid then { m with st := .saved, adata := [], asked := false } else m
      let s := quietRows gid (s.setEng { s.eng with mmas := s.eng.mmas.map part })
      match checkFrame kept .store s with
      | (some f, s) => .next (frameFault g f s)
      | (none, s) =>
        let s := match g.place with
          | some p => s.updCore p.core fun c => { c with macros := c.macros.map (untag gid) }
          | none => s
        let s := s.updGroup gid fun _ => kept
        let s := releaseGroup gid s
        let s := s.updGroup gid fun g => { g with st := .saved, stop := false, savedAt := s.now }
        .next (placeOpp g.owner (ctxRest g.ctx s))

/-! ### Restore (R280, R272) -/

/-- The tiles of a group go back into their macros (R368): possible once no other group's MMA names them. -/
def tilesFree (s : State) (g : Group) : Bool :=
  match g.place with
  | none => false
  | some p => g.tiles.all fun t => !(s.eng.mmas.any fun m => m.core == p.core && m.gid != g.gid && m.st ≠ .saved && m.macs.contains t.mac)

def restoreReady (s : State) (g : Group) : Bool := g.st = .restoring && coreReady s g && tilesFree s g

/-- What has been sent again for an entry, from a number on, belongs to the capture of its instruction (R208). -/
def sentAgain (p : Pend) (from_ : Nat) (s : State) : State :=
  let its := fun (c : Capture) => c.nums.any fun n => decide (n.1 ≤ p.id) && decide (p.id < n.2)
  s.setDbg { s.dbg with caps := amend its (fun c => { c with nums := c.nums ++ [(from_, s.mem.nextId)] }) s.dbg.caps }

/-- Send a wave's held requests again, in order (R272). -/
def resend (x : Who) (l : List Pend) (s : State) : State :=
  l.foldl (fun s p => sentAgain p s.mem.nextId (match p.job with
    | .acc a => sendAccess x a p.pc p.tag p.ws s
    | .release pol src dst n al => runRelease x pol src dst n al p.pc s
    | .lnch a aqi q al => runLnch x a aqi q al p.pc s
    | .tset d tid al => runTset x d tid al p.pc s
    | .none => s.updWave x.ref fun w => { w with pend := w.pend ++ [p] })) s

/-- A restored wave goes on: its held requests are sent again or discarded, as firmware settled them. A BKPT stop is never a double trap
(R276). -/
def wakeWave (g : Group) (core : Nat) (i : Nat) (w : Wave) (s : State) : State :=
  let r : WaveRef := ⟨g.gid, i⟩
  if w.status ≠ .stopped then s
  else
    let s := s.updWave r fun w => { w with status := .running, ready := s.now, held := [] }
    match w.held with
    | [] => s
    | p :: _ =>
      let f := p.fail.getD ⟨0, 0, 0, false, false⟩
      let note : FailNote := ⟨p.pc, f.unknown, w.held.length⟩
      let enter := fun (pc : Nat) (defer : Bool) => reachHandler r f.cause pc f.addr defer f.absorb note s
      if f.cause = bkptTrap then (if g.mode = 2 then enter (if p.tag == "BKPT" then p.pc + 1 else p.pc) false else s)
      else if g.mode = 2 then
        match w.issueAddr with
        | none => handOver r (s.updWave r fun w => { w with status := .ended })
        | some n => if w.intrap then doubleTrap r f.cause f.addr true note s else enter n true
      else
        (resend (g.who r core) w.held s).updWave r fun w => { w with
          phase := 0, status := .parked (if w.issueAddr.isNone then .ended else if w.phase = 1 then .yielded else .next) }

/-- GROUP_RESTORE_COMPLETE (R280). -/
def execGroupRestoreComplete (gid : Nat) : State → Out := fun s =>
  match s.group? gid with
  | none => .refused (.notEnabled "GROUP_RESTORE_COMPLETE")
  | some g => match g.place with
    | none => .refused (.notEnabled "GROUP_RESTORE_COMPLETE")
    | some p =>
      if !restoreReady s g then .refused (.notEnabled "GROUP_RESTORE_COMPLETE")
      else if s.timed g.owner && s.now % 256 != 0 then .next (s.scheduleOnce s.clk.boundary (.groupRestoreComplete gid))
      else match checkFrame g .load s with
        | (some f, s) => .next (frameFault g f s)
        | (none, s) =>
          let put := fun (ms : List Macro) => ms.mapIdx fun i m => match g.tiles.find? (·.mac == i) with
            | some t => { m with tile := t, tag := some gid, loading := none }
            | none => m
          -- lines that other kernels left in the core's constant cache are not those of the kernel's start (R197)
          let s := s.updCore p.core fun c => { c with macros := put c.macros, cc := [] }
          let s := s.updGroup gid fun g => { g with
            st := .running, counting := some s.now, frame := false, replay := false, tiles := [], detAtoms := [], mode := 0 }
          let s := overList (detPut p.core) g.detAtoms s
          let s := s.updCtx g.ctx fun x => if x.st = .preempted then { x with st := .active } else x
          let s := g.waves.zipIdx.foldl (fun s e => wakeWave g p.core e.2 e.1 s) s
          let mine := s.eng.mmas.filter fun m => m.gid == gid
          let s := s.setEng { s.eng with mmas := amend (·.gid == gid) (fun m => { m with st := .queued, core := p.core }) s.eng.mmas }
          .next (mine.foldl (fun s m => askRows m.id s) s)

/-! ### End (R319) -/

/-- Whether the conditions of R319 hold. -/
def endReady (s : State) (g : Group) : Bool :=
  g.waves.all (·.hasEnded) && !(s.eng.mmas.any (·.gid == g.gid))
    && !(s.cores.any fun e => e.2.score.any (·.gid == g.gid))

/-- GROUP_END (R319). -/
def execGroupEnd (gid : Nat) : State → Out := fun s =>
  match s.group? gid with
  | none => .refused (.notEnabled "GROUP_END")
  | some g =>
    if !endReady s g || !(g.st = .running || g.st = .ending) then .refused (.notEnabled "GROUP_END")
    else
      let s := if g.det then detFlush gid (detMerge gid s) else s
      let s := ctxRest g.ctx (dropGroup gid s)
      let s := s.updKernel g.kernel fun k => { k with left := k.left - 1 }
      match s.kernel? g.kernel with
      | none => .next s
      | some k =>
        if k.left ≠ 0 || k.st ≠ .running then .next s
        else
          let s := s.updKernel k.id fun k => { k with st := .draining }
          .next (if k.det then s.schedule s.now (.detLogApply k.id) else s.schedule s.now (.kernelDrainComplete k.id))

/-! ### Compaction (R316) -/

/-- COMPACT of a core: its groups are to be saved, with their clusters. -/
def startCompact (o core : Nat) (s : State) : State :=
  let hit := s.groups.filter fun g => g.owner == o && (clusterOf s g).any fun h => (h.place.map (·.core)) == some core
  let ids := (hit.filter (·.resident)).map (·.gid)
  let s := s.setGroups (amend (fun g => ids.contains g.gid) (fun g => { g with
    stop := true, compact := (g.place.map (·.core)) == some core }) s.groups)
  s.updOwner o fun x => { x with cbusy := true, gcore := core, ccore := core }

/-- COMPACT (R316). -/
def execCompact (o : Fin 8) (core : Nat) : State → Out := fun s =>
  match s.owner? o with
  | none => .refused (.notEnabled "COMPACT")
  | some x =>
    if x.cbusy || !x.spec.cores.contains core then .next s else .next (startCompact o core s)

end Sys2Proof.Machine
end

