-- ==== Sys2Proof/Machine/Kernel.lean ====
section
/-! DEFINITION. Kernels: checks of a launch, dispatch, the end of a kernel, completion (spec/14_queue.md R290 to R296;
spec/15_kernel.md R297 to R305; spec/17_barrier.md R323; spec/19_claim.md R345; spec/16_group.md R317). -/

namespace Sys2Proof.Machine

/-! ### Packets on their way to completion (R294) -/

def addPacket (p : Packet) (s : State) : State :=
  let s := s.setHub { s.hub with packets := s.hub.packets ++ [p] }
  if p.waits.isEmpty then s.schedule s.now (.packetCompletion p.id) else s

/-- The completion of a slot's head packet. -/
def slotPacket (id : Nat) (x : QSlot) (status cause reason : Nat) (waits : List Nat) : Packet :=
  { id, slot := x.n, aqi := x.aqi, q := x.q, ctx := x.ctx, index := x.headc, done := Pkt.done x.pkt, irq := Pkt.irq x.pkt
    ivec := Pkt.ivec x.pkt, tag := Pkt.tag x.pkt, status, cause, reason, mixed := false, waits, ready := waits.isEmpty
    stage := 0, bad := false, ring := none }

/-- The dispatch of a slot's head packet ends: HEADC and HEAD advance (R288). -/
def advanceSlot (n : Nat) (s : State) : State :=
  let x := slotOf s n
  let s := releaseVictims n (setSlot n (fun x => { x with headc := (x.headc + 1) % 2 ^ 32, cur := none, pkt := [], segs := [], unmap := false }) s)
  match writeHead n s with
  | .error _ => if x.unmap then unmapSlot n (stallSlot n s) else stallSlot n s
  | .ok s =>
    if x.unmap then unmapSlot n s
    else if x.st = .halted || x.st = .stalled then s
    else idleOrReady n s

/-- Numbers of the launches of a queue that have not completed. -/
def queueLaunches (s : State) (aqi q : Nat) : List Nat := (s.hub.kernels.filter fun k => k.aqi == aqi && k.q == q).map (·.id)

/-- The dispatch of a NOP, WAIT or SIGNAL (R291), or of a packet that its check refuses. -/
def dispatchSimple (x : QSlot) (reason : Nat) (waits : List Nat) (s : State) : State :=
  let (id, s) := s.fresh
  let p := if reason = 0 then slotPacket id x 0 0 0 waits else slotPacket id x 1 launchRefused reason []
  addPacket p (advanceSlot x.n s)

/-! ### The checks of a LAUNCH (R290, R301 to R303, R323, R345) -/

/-- The checks of R290, in the order of their reasons. -/
def packetReason (b : List Byte) : Nat :=
  let n := Pkt.dx b * Pkt.dy b * Pkt.dz b
  if !Pkt.reservedOk b || n == 0 || Pkt.waves b == 0 || decide (Pkt.waves b > 16) || ! [16, 32, 48, 64].contains (Pkt.vregs b)
      || decide (Pkt.hregs b > 16) || decide (Pkt.accs b > 4) || n % Pkt.cluster b != 0 then 1
  else if n * Pkt.waves b * 64 ≥ 2 ^ 32 then 2
  else if Pkt.done b % 8 != 0 || Pkt.depva b % 8 != 0 then 3
  else 0

/-- The kernel of a packet, with its segments once its checks have read them. -/
def kernelOf (id : Nat) (x : QSlot) (s : State) : Kernel :=
  let b := x.pkt
  { id, ctx := x.ctx, owner := slotOwner s x, slot := x.n, aqi := x.aqi, q := x.q, index := x.headc, prio := Pkt.prio b, det := Pkt.bit b 7
    gridbar := Pkt.bit b 8, xchg := Pkt.bit b 9, c := Pkt.cluster b, irq := Pkt.irq b, entry := Pkt.entry b, dx := Pkt.dx b, dy := Pkt.dy b
    dz := Pkt.dz b, waves := Pkt.waves b, vregs := Pkt.vregs b, hregs := Pkt.hregs b, accs := Pkt.accs b, scratch := Pkt.scratch b
    fifo := Pkt.fifo b, args := Pkt.args b, done := Pkt.done b, ivec := Pkt.ivec b, tag := Pkt.tag b, arrival := x.seq, segs := x.segs
    st := .preloading, start := 0, next := 0, left := Pkt.dx b * Pkt.dy b * Pkt.dz b, loads := [], dieSet := none, pkgSet := false, podjob := none
    clbase := none, clslots := 0, detLog := [], applied := false, mixed := false, cause := 0, reason := 0, barred := false }

/-- Capacity of one core for a launch (R302). -/
def coreCapacity (k : Kernel) : Nat :=
  let a := k.ask
  [1024 / (k.waves * k.vregs), if a.s + a.x = 0 then 16 else splitWindows a.s a.x a.f k.waves, if k.hregs = 0 then 16 else 16 / k.hregs,
    if k.accs = 0 then 16 else 4 / k.accs].foldl min (16 / k.waves)

/-- The owner's co-residency capacity for a launch (R302). -/
def ownerCapacity (s : State) (k : Kernel) : Nat :=
  let cores := ownerCores s k.owner
  k.c * (((List.range 128).map fun q => (cores.filter (· / 4 == q)).length / k.c * coreCapacity k).sum)

/-- The per-core footprint in KiB (R303). -/
def footprint (k : Kernel) : Nat :=
  let a := k.ask
  coreCapacity k * (k.waves * (k.vregs / 4 + 1) + 8 * (a.s + a.x) + k.hregs + 8 * k.accs + 16)

/-- A slot descriptor of a segment-table entry (R298). -/
def segDesc (b : List Byte) (n : Nat) : SegDesc :=
  let v := bytesVal b (8 * n) 8
  ⟨fld v 63 1 == 1, fld v 62 1 == 1, fld v 50 12 + 1, fld v 0 50 * 64⟩
/-- What a launch's segment-table entry gives: its segments; REASON 10; or nothing yet, while its read is out. -/
inductive SegsGot | segs (l : List SegDesc) | refused | wait

/-- The segment-table entry of a launch, which its slot keeps once read (R298, R301). -/
def readSegs (k : Kernel) (segtab : Nat) (s : State) : SegsGot × State :=
  if !k.segs.isEmpty then (.segs k.segs, s)
  else match hubRead (.packetReadDone (Fin.ofNat 256 k.slot)) (.step (.dispatch (Fin.ofNat 8 k.owner))) k.ctx
      (fld (s.ctx k.ctx).segbase 7 49 * 128 + 128 * segtab) 128 s with
  | (none, s) => (.wait, s)
  | (some (.error _), s) => (.refused, s)
  | (some (.ok b), s) =>
    let l := (List.range 15).map (segDesc b)
    let bad := bytesVal b 120 8 != 0 || l.any (fun d => (d.preload && !d.valid) || (d.valid && decide (d.words > 2048)))
      || !((l[k.entry / 2048]?).any fun d => d.valid && d.preload)
    if bad then (.refused, s) else (.segs l, setSlot k.slot (fun x => { x with segs := l }) s)

/-- Kernels that hold barrier sets and claim slots. -/
def liveKernels (s : State) : List Kernel :=
  s.hub.kernels.filter fun k => !(k.st = .complete || k.st = .faulted || k.st = .refused)

/-- The die of an owner whose cores all lie on one (R323). -/
def oneDie (s : State) (o : Nat) : Option Nat :=
  match ownerCores s o with
  | [] => none
  | c :: l => if l.all fun d => dieOf d == dieOf c then some (dieOf c) else none

/-- Whether the barrier sets that a GRIDBAR launch needs are free (R322, R323). -/
def setsFree (s : State) (k : Kernel) : Bool :=
  decide (((liveKernels s).filter (·.pkgSet)).length < 64) && (match oneDie s k.owner with
    | some d => decide (((liveKernels s).filter (·.dieSet == some d)).length < 16)
    | none => true)

/-- The lowest block of an owner's claim-store range that is free (R345). -/
def claimBlock (s : State) (o n : Nat) : Option Nat :=
  match s.owner? o with
  | none => none
  | some x =>
    let used := (liveKernels s).filterMap fun k => k.clbase.map fun b => (b, k.clslots)
    ((List.range (x.clcount + 1)).map (x.clbase + ·)).find? fun b =>
      decide (b + n ≤ x.clbase + x.clcount) && used.all fun u => decide (b + n ≤ u.1) || decide (u.1 + u.2 ≤ b)

/-- The checks of R345 but for the room of its block. -/
def claimBad (s : State) (k : Kernel) : Bool :=
  let x := s.ctx k.ctx
  let minW := if x.clpod && x.podjob.isSome then 21856 else 3136
  let noSlot := (List.range 16).all fun i => fld ((s.rota.live.getD RotaClass.claim.code 0).toNat) (4 * i) 4 != k.owner
  decide (k.groups > 64) || decide (x.clwin < minW) || decide (x.clslots > 256) || (s.timed k.owner && noSlot)

/-- The first check of R301, R323 and R345 that fails, 0 when none does, and the kernel with its segments; none while these are being read. -/
def launchReason (k : Kernel) (segtab : Nat) (s : State) : Option Nat × Kernel × State :=
  let a := k.ask
  let slots := (s.ctx k.ctx).clslots
  if (ownerCores s k.owner).isEmpty then (some 12, k, s)
  else if a.s + a.x + a.f > 38 then (some 8, k, s)
  else if k.gridbar && decide (k.groups > ownerCapacity s k) then (some 9, k, s)
  else match readSegs k segtab s with
    | (.wait, s) => (none, k, s)
    | (.refused, s) => (some 10, k, s)
    | (.segs segs, s) =>
      let k := { k with segs }
      if s.timed k.owner && decide (footprint k > ((s.owner? k.owner).map (·.swcap)).getD 0) then (some 11, k, s)
      else if k.gridbar && !setsFree s k then (some 13, k, s)
      else if slots > 0 && claimBad s k then (some 14, k, s)
      else if slots > 0 && (claimBlock s k.owner slots).isNone then (some 15, k, s)
      else (some 0, k, s)

/-! ### Dispatch (R292, R304, R305) -/

/-- Place clusters of a kernel while they fit. -/
def placeMany (k : Nat) : Nat → State → State
  | 0, s => s
  | n + 1, s => match s.kernel? k with
    | none => s
    | some kn =>
      if kn.next ≥ kn.groups then s
      else match firstFit s kn.ask kn.c with
        | none => s
        | some ps => placeMany k n (placeNext kn ps s)

/-- A launch takes its pod job, barrier sets and claim slots (R323, R342, R345). -/
def takeSets (k : Kernel) (s : State) : Kernel × State :=
  let k := { k with podjob := (s.ctx k.ctx).podjob }
  let k := if k.gridbar then { k with pkgSet := true, dieSet := oneDie s k.owner } else k
  let n := (s.ctx k.ctx).clslots
  match (if n = 0 then none else claimBlock s k.owner n) with
  | none => (k, s)
  | some b =>
    let new := (List.range n).map fun i => (⟨b + i, k.id, none, [], 0⟩ : ClaimSlot)
    ({ k with clbase := some b, clslots := n }, s.setClaims { s.claims with slots := s.claims.slots ++ new })

/-- A launch whose checks passed takes its first places: none when it cannot be placed now. -/
def startLaunch (x : QSlot) (k : Kernel) (s : State) : Option State :=
  let (k, s) := takeSets k s
  let s := s.setHub { s.hub with kernels := s.hub.kernels ++ [k] }
  let t := placeMany k.id (min k.groups 8192) s
  match t.kernel? k.id with
  | none => none
  | some kn =>
    if kn.next = 0 || (k.gridbar && decide (kn.next < kn.groups)) then none
    else
      let t := setSlot x.n (fun x => { x with st := .dispatching, cur := some k.id }) t
      let t := t.updOwner k.owner fun o => if o.st = .created then { o with st := .running } else o
      let t := t.updCtx k.ctx fun c => if c.st = .bound then { c with st := .active } else c
      some (releaseVictims x.n t)

/-- The next victim of a PRIO 31 launch that cannot be placed (R317): lowest PRIO, latest arrival, highest GROUP, of the resident groups
that were placed before number from_. -/
def nextVictim (s : State) (o from_ : Nat) : Option Group :=
  let prio := fun (g : Group) => ((s.kernel? g.kernel).map fun (k : Kernel) => k.prio).getD 31
  let arr := fun (g : Group) => ((s.kernel? g.kernel).map fun (k : Kernel) => k.arrival).getD 0
  let room := fun (g : Group) => decide (framesNeeded s g ≤ freeFrames s g.ctx)
  let stays := fun (g : Group) => g.st = .starting || g.st = .running || g.st = .restoring
  (s.groups.filter fun g => g.owner == o && stays g && !g.stop && decide (g.placedAt < from_) && decide (prio g < 31) && room g).foldl (fun b g =>
    match b with
    | none => some g
    | some h =>
      let lower := decide (prio g < prio h) || (prio g == prio h && (decide (arr h < arr g) || (arr g == arr h && decide (h.lin < g.lin))))
      if lower then some g else some h) none

/-- Ask for one victim, with its cluster, unless one is on its way already. -/
def askVictim (x : QSlot) (o : Nat) (s : State) : State :=
  let from_ := x.vicFrom.getD s.mem.nextId
  if s.groups.any fun g => g.victim == some x.n && g.resident then s
  else match nextVictim s o from_ with
    | none => s
    | some g =>
      let s := setSlot x.n (fun x => { x with vicFrom := some from_ }) s
      let ids := (clusterOf s g).map (·.gid)
      s.setGroups (amend (fun h => ids.contains h.gid && h.resident) (fun h => { h with victim := some x.n, stop := true }) s.groups)

/-- Effective priority of a slot, and whether it is starved (R292). -/
def slotPrio (s : State) (x : QSlot) : Nat := min 31 (Pkt.prio x.pkt + (s.wall - x.readyAt) / (usTicks * max 1 s.hub.ageStep))
def starved (s : State) (x : QSlot) : Bool := slotPrio s x == 31 && usPassed s x.readyAt s.hub.starve

/-- READY slots of an owner whose head packets may be dispatched. -/
def readySlots (s : State) (o : Nat) : List QSlot :=
  s.hub.slots.filter fun x => x.st = .ready && !x.pkt.isEmpty && x.reread.isNone && slotOwner s x == o

/-- The slots in the order in which they are tried: the oldest starved one alone, else by effective priority, then arrival. -/
def slotOrder (s : State) (o : Nat) : List QSlot :=
  let l := readySlots s o
  let ins := fun (before : QSlot → QSlot → Bool) (x : QSlot) (l : List QSlot) => l.takeWhile (before · x) ++ [x] ++ l.dropWhile (before · x)
  let old := fun (a b : QSlot) => decide (a.readyAt < b.readyAt) || (a.readyAt == b.readyAt && decide (a.seq < b.seq))
  let pri := fun (a b : QSlot) => decide (slotPrio s b < slotPrio s a) || (slotPrio s a == slotPrio s b && decide (a.seq < b.seq))
  match (l.filter (starved s)).foldr (ins old) [] with
  | x :: _ => [x]
  | [] => l.foldr (ins pri) []

/-- Dispatch a slot's head packet; none when it cannot be placed now. After a dispatch the search for what to place starts again (R314); while
a launch's segments are being read, its check goes on with them. -/
def tryDispatch (o : Nat) (x : QSlot) (s : State) : Option State :=
  let again := fun (s : State) => s.scheduleOnce s.now (.groupPlace (Fin.ofNat 8 o))
  let b := x.pkt
  match Pkt.kind b with
  | 1 =>
    let r := packetReason b
    if r ≠ 0 then some (again (dispatchSimple x r [] s))
    else
      let (id, s) := s.fresh
      match launchReason (kernelOf id x s) (Pkt.segtab b) s with
      | (none, _, s) => some s
      | (some r, k, s) =>
        if r ≠ 0 then some (again (dispatchSimple x r [] s))
        else if !((s.owner? o).any fun (y : Owner) => y.resetReq) then (startLaunch x k s).map again
        else
          -- a timestamp reset comes first; with no group of a TIMED owner resident, within the launch's padded dispatch (R217)
          let held := s.updOwner o fun y => { y with reset := true }
          if s.timed o && !(s.groups.any fun g => g.owner == o && g.resident) then startLaunch x k held
          else some (held.scheduleOnce s.now (.timestampReset (Fin.ofNat 8 o)))
  | t =>
    let waits := if t = 3 then queueLaunches s x.aqi x.q else []
    some (again (dispatchSimple x (if Pkt.reservedOk b then 0 else 1) waits s))

/-- A launch that cannot be placed waits as its first group does (R315). -/
def launchAsk (s : State) (x : QSlot) : Ask := (kernelOf 0 x s).ask
def watchLaunch (o : Nat) (x : QSlot) (s : State) : State :=
  if Pkt.kind x.pkt == 1 then watchWaiter o (slotWaiter x.n, launchAsk s x) s else s
/-- All that wait for a place on an owner's cores. -/
def allWaiters (s : State) (o : Nat) : List (Nat × Ask) :=
  waiters s o ++ ((readySlots s o).filter fun x => Pkt.kind x.pkt == 1).map fun x => (slotWaiter x.n, launchAsk s x)

/-- DISPATCH (R292). -/
def execDispatch (o : Fin 8) : State → Out := fun s =>
  match s.owner? o with
  | none => .refused (.notEnabled "DISPATCH")
  | some y =>
    if y.st = .retired then .refused (.notEnabled "DISPATCH")
    else if y.reset then .next s
    else if y.timed && s.now % 256 != 0 then .next (s.scheduleOnce s.clk.boundary (.dispatch o))
    else
      let l := slotOrder s o
      match l.findSome? fun x => tryDispatch o x s with
      | some t => .next t
      | none =>
        let s := overList (watchLaunch o) l s
        match l.find? fun x => Pkt.kind x.pkt == 1 && Pkt.prio x.pkt == 31 with
        | some x => .next (askVictim x o s)
        | none => .next s

/-- PATIENCE_EXPIRE (R315): FRAG stands for one waiter at a time. -/
def execPatienceExpire (gid : Nat) : State → Out := fun s =>
  match (s.owners.map (·.id)).findSome? fun o => (allWaiters s o).findSome? fun w => if w.1 = gid then some (o, w.2) else none with
  | none => .refused (.notEnabled "PATIENCE_EXPIRE")
  | some (o, a) => match fragCore s a with
    | none => .next s
    | some c => .next (s.updOwner o fun x => if x.frag then x else { x with frag := true, fragcore := c, fragId := gid, fragNew := true })

/-- Every preload of a kernel's first groups is done: its dispatch begins (R305, R38). -/
def beginDispatch (k : Kernel) (s : State) : State :=
  let up := fun (c : Nat) => (c + 255) / 256 * 256
  let end_ := if s.timed k.owner then up s.now + 2048 else up (s.now + Config.elasticDispatch)
  -- a TIMED owner's changes of the split lie within the dispatch (R188)
  let cores := ((s.groups.filter (·.kernel == k.id)).filterMap fun g => g.place.map (·.core)).filter fun c => (s.core c).wback
  let s := if s.timed k.owner then
      overList (fun c s => s.scheduleOnce (up s.now + min Config.splitWriteback 2048) (.splitWritebackDone c)) cores s
    else s
  (s.updKernel k.id fun k => { k with st := .dispatching }).schedule end_ (.dispatchEnd k.id)

/-- DISPATCH_END (R305). -/
def execDispatchEnd (kernel : Nat) : State → Out := fun s =>
  match s.kernel? kernel with
  | none => .refused (.notEnabled "DISPATCH_END")
  | some k =>
    if k.st ≠ .dispatching then .refused (.notEnabled "DISPATCH_END")
    else
      let s := s.updKernel kernel fun k => { k with st := .running, start := s.now }
      let s := if (slotOf s k.slot).cur == some kernel then advanceSlot k.slot s else s
      .next (placeOpp k.owner s)

/-! ### The end of a kernel (R291, R305) -/

/-- DET_LOG_APPLY (R233). -/
def execDetLogApply (kernel : Nat) : State → Out := fun s =>
  match s.kernel? kernel with
  | none => .refused (.notEnabled "DET_LOG_APPLY")
  | some k =>
    if !k.det || k.st ≠ .draining || k.applied then .refused (.notEnabled "DET_LOG_APPLY")
    else
      let s := (applyLog kernel k.detLog s).updKernel kernel fun k => { k with detLog := [], applied := true }
      .next (s.schedule s.now (.kernelDrainComplete kernel))

/-- Writes of a kernel that are not performed yet. -/
def kernelWrites (s : State) (k : Nat) : Bool :=
  s.mem.stores.any (·.kernel == k) || s.mem.fabs.any (fun f => f.kernel == k && !f.gone) || s.eng.copies.any (·.kernel == k)

/-- The entry that a claim message answers to. -/
def ClaimMsg.entry : ClaimMsg → List (WaveRef × Nat)
  | .propose .. => []
  | .object _ _ w e | .query _ w e | .read _ w e | .verdict _ _ w e => [(w, e)]

/-- Entries that a kernel's claim messages, held queries and reductions hold open: they return with the kernel's end (R318). -/
def openEntries (k : Nat) (s : State) : List (WaveRef × Nat) :=
  ((s.claims.msgs.filter (·.2.1 == k)).flatMap (·.2.2.entry)) ++
    ((s.claims.held.filter (·.1 == k)).map (·.2.2)) ++
    ((s.nreds.flatMap (·.cs) ++ s.ncs).filter fun c => c.kernel == k && c.pkg == s.link.pkgId).map fun c => (c.w, c.pend)

/-- Whether a reduction has contributions of one kernel alone. -/
def NredInst.alone (x : NredInst) (pkg k : Nat) : Bool := x.cs.all fun c => c.kernel == k && c.pkg == pkg

/-- What a kernel holds beyond its cores goes back: barrier sets, claim slots, reductions (R323, R331, R345). -/
def freeKernel (k : Nat) (s : State) : State :=
  let s := freeBars k s
  let back := openEntries k s
  let mine := (s.claims.slots.filter (·.kernel == k)).map (·.n)
  let gone := (s.nreds.filter (·.alone s.link.pkgId k)).map (·.inst)
  let s := s.setAgenda (s.agenda.filter fun e => match e.2 with
    | .claimClose n => !mine.contains n
    | .nredTimerExpire _ i => !gone.contains i
    | _ => true)
  let s := s.setClaims { s.claims with
    slots := s.claims.slots.filter (·.kernel != k), outs := s.claims.outs.filter (·.kernel != k)
    held := s.claims.held.filter (·.1 != k), msgs := s.claims.msgs.filter (·.2.1 != k) }
  let s := (s.setNreds (s.nreds.filter fun x => !gone.contains x.inst)).setNcs (s.ncs.filter (·.kernel != k))
  let s := back.foldl (fun s e => returnPart e.1 e.2 s) s
  (s.setMem { s.mem with dtags := s.mem.dtags.filter (·.2.2 != k) }).unschedule (.patienceExpire (kernelWaiter k))

/-- The kernel's packet completes. -/
def endKernel (k : Kernel) (st : KState) (status cause : Nat) (s : State) : State :=
  let s := freeKernel k.id (s.updKernel k.id fun k => { k with st })
  let s := if (slotOf s k.slot).cur == some k.id then advanceSlot k.slot s else s
  addPacket { id := k.id, slot := k.slot, aqi := k.aqi, q := k.q, ctx := k.ctx, index := k.index, done := k.done, irq := k.irq
              ivec := k.ivec, tag := k.tag, status, cause, reason := k.reason, mixed := k.det && k.mixed, waits := [], ready := true, stage := 0
              bad := false, ring := none } s

/-- KERNEL_DRAIN_COMPLETE (R305). -/
def execKernelDrainComplete (kernel : Nat) : State → Out := fun s =>
  match s.kernel? kernel with
  | none => .refused (.notEnabled "KERNEL_DRAIN_COMPLETE")
  | some k =>
    if k.barred then .refused (.notEnabled "KERNEL_DRAIN_COMPLETE")
    else
      let t := s.updKernel kernel fun k => { k with barred := true }
      match k.st with
      | .draining =>
        if k.det && !k.applied then .refused (.notEnabled "KERNEL_DRAIN_COMPLETE")
        else if kernelWrites s kernel then .refused (.notEnabled "KERNEL_DRAIN_COMPLETE")
        else .next (endKernel k .complete 0 (if k.det && k.mixed then detMixed else 0) t)
      | .faulted =>
        let t := if k.detLog.isEmpty then t else (applyLog kernel k.detLog t).updKernel kernel fun k => { k with detLog := [] }
        .next (endKernel k .faulted 2 k.cause t)
      | .refused => .next (endKernel k .refused 1 launchRefused t)
      | _ => .refused (.notEnabled "KERNEL_DRAIN_COMPLETE")

/-! ### Completion (R294 to R296) -/

/-- For what the hub reads and writes for a packet's completion. -/
def packetJob (pk : Nat) : Purpose := .step (.packetCompletion pk)

/-- Where a queue's completion records go: base, size and next index, by its slot or else by its descriptor; none while that is being read. Of
a REVOKED context nothing is read any more (R288): the ring is the one that its slot had. -/
def ringOf (p : Packet) (s : State) : Option (Except Nat (Nat × Nat × Nat)) × State :=
  match p.ring, (mappedSlot s p.aqi p.q).filter (·.known) with
  | some r, _ => (some (.ok r), s)
  | none, some x => (some (.ok (x.crbase, x.crlog, x.ctail)), s)
  | none, none => if (s.ctx p.ctx).st = .revoked then
      (match s.hub.rings.find? fun e => e.1 == p.aqi && e.2.1 == p.q with
       | some e => (some (.ok e.2.2), s)
       | none => (some (.error permFault), s))
    else match hubRead (.packetCompletion p.id) (packetJob p.id) p.ctx (descVa s p.aqi p.q) 32 s with
    | (none, s) => (none, s)
    | (some (.error c), s) => (some (.error c), s)
    | (some (.ok b), s) => (some (.ok (bytesVal b 16 8, bytesVal b 9 1, bytesVal b 28 4)), s)

/-- The MSI-X entry that a packet's interrupt goes to, when its remap entry allows it (R296). -/
def msixOf (s : State) (p : Packet) : Option Nat :=
  let e := (look 0 p.ivec s.hub.irt).toNat
  if decide (p.ivec < 4096) && fld e 0 1 == 1 && fld e 22 10 == p.ctx then some (fld e 1 10) else none

/-- The completion record (R295). -/
def completionRecord (s : State) (p : Packet) (ctail : Nat) : Nat :=
  let lost := p.irq && (msixOf s p).isNone
  ctail % 2 ^ 32 + p.reason % 256 * 2 ^ 138 + p.cause % 256 * 2 ^ 146 + p.status % 4 * 2 ^ 154 + (if p.mixed then 2 ^ 156 else 0)
    + (if lost then 2 ^ 157 else 0) + p.aqi % 64 * 2 ^ 161 + p.q % 512 * 2 ^ 167 + p.index % 2 ^ 32 * 2 ^ 176 + p.tag % 2 ^ 48 * 2 ^ 208

/-- A completion write fails: the queue's slot, if any, is STALLED, with a record READFAULT (R294). -/
def completionFault (p : Packet) (s : State) : State :=
  match mappedSlot s p.aqi p.q with
  | some x => stallSlot x.n s
  | none => errorRecord p.aqi p.q (s.ctx p.ctx).latched.pasid 6 0 s

/-- CTAIL advances, in the slot or in what is kept of it. -/
def nextTail (p : Packet) (ctail : Nat) (s : State) : State :=
  match mappedSlot s p.aqi p.q with
  | some x => setSlot x.n (fun x => { x with ctail := (ctail + 1) % 2 ^ 32 }) s
  | none =>
    let at_ := fun (e : Nat × Nat × Nat × Nat × Nat) => e.1 == p.aqi && e.2.1 == p.q
    let next := fun (e : Nat × Nat × Nat × Nat × Nat) => (e.1, e.2.1, e.2.2.1, e.2.2.2.1, (ctail + 1) % 2 ^ 32)
    s.setHub { s.hub with rings := amend at_ next s.hub.rings }

/-- The steps of a packet's completion, by number (R294): the record, CTAIL, the counter, the interrupt. -/
def completionWrite (p : Packet) (r : Nat × Nat × Nat) (s : State) : Except Nat State :=
  let j := packetJob p.id
  match p.stage with
  | 0 => hubWrite j p.ctx (r.1 + 32 * (r.2.2 % 2 ^ r.2.1)) (leBytes 32 (completionRecord s p r.2.2)) 0 s
  | 1 => (hubWrite j p.ctx (descVa s p.aqi p.q + 28) (leBytes 4 (r.2.2 + 1)) 0 s).map (nextTail p r.2.2)
  | 2 => if p.done = 0 then .ok s else hubAdd j p.ctx p.done s
  | _ => .ok (match (if p.irq then msixOf s p else none) with
    | some m => s.setHub { s.hub with msix := (s.now, m) :: s.hub.msix }
    | none => s)

/-- A context whose last kernel completes with no launch queued is BOUND again (R264). -/
def ctxQuiet (c : Nat) (s : State) : State :=
  if (s.ctx c).st = .active && s.hub.kernels.all (·.ctx != c) && !launchQueued s (· == c) then s.updCtx c fun x => { x with st := .bound }
  else s

/-- SIGNAL packets that waited for a launch wait for it no longer. -/
def signalNext (k : Nat) (s : State) : State :=
  let due := s.hub.packets.filter fun p => p.waits == [k]
  let s := s.setHub { s.hub with packets := s.hub.packets.map fun p => { p with waits := p.waits.filter (· != k), ready := p.waits.all (· == k) } }
  overList (fun (p : Packet) s => s.schedule s.now (.packetCompletion p.id)) due s

/-- A packet's completion is over; the next of its queue may begin. -/
def packetEnd (p : Packet) (s : State) : State :=
  let s := s.setHub { s.hub with packets := s.hub.packets.filter (·.id != p.id), kernels := s.hub.kernels.filter (·.id != p.id) }
  let s := signalNext p.id (ctxQuiet p.ctx s)
  overList (fun (q : Packet) s => s.scheduleOnce s.now (.packetCompletion q.id))
    (s.hub.packets.filter fun q => q.ready && q.aqi == p.aqi && q.q == p.q) s

/-- A packet's completion goes as far as it can: each step once the write of the one before it is performed at SYS scope (R294). A write
that fails, or times out, ends it there. -/
def reportPacket (pk : Nat) : Nat → State → State
  | 0, s => s
  | n + 1, s => match s.hub.packets.find? (·.id == pk) with
    | none => s
    | some p =>
      if hubOut s (packetJob pk) then s
      else if p.bad then packetEnd p (completionFault p s)
      else if p.stage ≥ 4 then packetEnd p s
      else match ringOf p s with
        | (none, s) => s
        | (some (.error _), s) => packetEnd p (completionFault p s)
        | (some (.ok r), s) => match completionWrite p r s with
          | .error _ => packetEnd p (completionFault p s)
          | .ok s => reportPacket pk n
            (s.setHub { s.hub with packets := amend (·.id == pk) (fun p => { p with stage := p.stage + 1, ring := some r }) s.hub.packets })

/-- PACKET_COMPLETION (R294): one completion of a queue at a time, as each takes the next index of its ring. -/
def execPacketCompletion (pk : Nat) : State → Out := fun s =>
  match s.hub.packets.find? fun p => p.id == pk && p.ready with
  | none => .refused (.notEnabled "PACKET_COMPLETION")
  | some p =>
    let before := s.hub.packets.any fun q => q.id != pk && q.aqi == p.aqi && q.q == p.q && q.ring.isSome
    .next (if (s.ctx p.ctx).st = .free then packetEnd p s else if before then s else reportPacket pk 5 s)

end Sys2Proof.Machine
end

