-- ==== Sys2Proof/Machine/Context.lean ====
section
/-! DEFINITION. The commands of firmware on a context, and the timestamp reset (spec/13_context.md R262 to R264, R272, R276, R277;
spec/11_consistency.md R217). -/

namespace Sys2Proof.Machine

/-! ### CTXCMD (R263) -/

/-- A command's end: CTX, OP, ERR and DONE. -/
def ctxDone (op c err : Nat) (s : State) : State := s.setHub { s.hub with cmdCtx := c, cmdOp := op, cmdErr := err, cmdDone := true }

/-- The first check of BIND that fails, 0 when none does. -/
def bindErr (s : State) (c : Nat) : Nat :=
  let x := s.ctx c
  let d := x.desc
  let others := s.ctxs.filter fun y => y.id != c && y.st ≠ .free
  let ownerOk := ((s.owner? d.owner).map fun (o : Owner) => o.st = .created || o.st = .running).getD false
  if x.st ≠ .free then 1
  else if !ownerOk then 2
  else if others.any fun y => y.latched.pasid == d.pasid || y.latched.aqimask &&& d.aqimask != 0 then 3
  else if d.hndwords < 1 || d.hndwords > 2048 || d.hndimg % 64 != 0 || d.saveva % 2 ^ 20 != 0 then 4
  else 0

/-- BIND (R263). -/
def execBind (ctx : Fin 1024) : State → Out := fun s =>
  let e := bindErr s ctx
  if e ≠ 0 then .next (ctxDone 1 ctx e s)
  else .next (ctxDone 1 ctx 0 (s.updCtx ctx fun x => { x with st := .bound, latched := x.desc, tids := [] }))

/-- The slots of a context become FREE, their tails discarded (R288); what completes later still finds its ring. -/
def dropSlots (c : Nat) (s : State) : State :=
  let rings := (s.hub.slots.filter fun x => x.st ≠ .free && x.ctx == c && x.known).map fun x => (x.aqi, x.q, x.crbase, x.crlog, x.ctail)
  let s := s.setHub { s.hub with rings := rings ++ s.hub.rings.filter fun e => !(rings.any fun r => r.1 == e.1 && r.2.1 == e.2.1) }
  ((s.hub.slots.filter fun x => x.st ≠ .free && x.ctx == c).map (·.n)).foldl (fun s n => freeSlot n s) s

/-- UNBIND (R264). -/
def execUnbind (ctx : Fin 1024) : State → Out := fun s =>
  let st := (s.ctx ctx).st
  if !(st = .bound || st = .revoked) then .next (ctxDone 2 ctx 1 s)
  else .next (ctxDone 2 ctx 0 (dropSlots ctx (s.updCtx ctx fun x => { x with st := .free })))

/-- REVOKE (R264). -/
def execRevoke (ctx : Fin 1024) : State → Out := fun s =>
  let st := (s.ctx ctx).st
  if st = .free || st = .revoked then .next (ctxDone 3 ctx 1 s)
  else
    let s := dropSlots ctx (s.updCtx ctx fun x => { x with st := .revoked })
    let live := (liveKernels s).filter (·.ctx == ctx.val)
    let s := live.foldl (fun s k => faultKernel k.id 0 s) s
    .next (ctxDone 3 ctx 0 s)

/-- RESUME (R264). -/
def execResume (ctx : Fin 1024) : State → Out := fun s =>
  let x := s.ctx ctx
  if x.st ≠ .suspended then .next (ctxDone 4 ctx 1 s)
  else
    let more := s.groups.any (·.ctx == ctx.val)
    let s := s.updCtx ctx fun x => { x with st := if more then .preempted else .bound }
    let halted := (s.hub.slots.filter fun q => q.st = .halted && q.ctx == ctx.val).map (·.n)
    let wake := fun (n : Nat) (s : State) =>
      let q := slotOf s n
      if q.cur.isSome then setSlot n (fun q => { q with st := .dispatching }) s
      else if !q.known then readDescriptor n s
      else idleOrReady n s
    .next (ctxDone 4 ctx 0 (placeOpp x.latched.owner (overList wake halted s)))

/-- PREEMPT (R277). -/
def execPreempt (ctx : Fin 1024) : State → Out := fun s =>
  let x := s.ctx ctx
  let here := s.groups.filter fun g => g.ctx == ctx.val && g.resident
  if x.st = .free || x.st = .revoked then .next (ctxDone 5 ctx 1 s)
  else if (here.filter (!·.frame)).length > freeFrames s ctx then .next (ctxDone 5 ctx 5 s)
  else .next (ctxDone 5 ctx 0 (s.setGroups (amend (fun g => g.ctx == ctx.val && g.resident) (fun g => { g with stop := true }) s.groups)))

/-- One record for every wave that firmware settles (R272). -/
def settleRecords (kind : Nat) (g : Group) (s : State) : State :=
  g.waves.zipIdx.foldl (fun s e => match e.1.held with
    | [] => s
    | p :: _ =>
      let f := p.fail.getD ⟨0, 0, 0, false, false⟩
      logFault g e.2 p.pc f.cause f.addr (f.cause != bkptTrap) f.unknown kind e.1.held.length s) s

/-- REPLAY and DELIVER: the groups of a context that wait for firmware may be placed again (R272, R276). -/
def settleGroups (c : Nat) (pick : Group → Bool) (mode kind : Nat) (s : State) : State :=
  let mine := s.groups.filter fun g => g.ctx == c && pick g
  let s := mine.foldl (fun s g => settleRecords kind g s) s
  let ids := mine.map (·.gid)
  let s := s.setGroups (amend (fun g => ids.contains g.gid) (fun g => { g with mode, debug := g.debug && mode != 2 }) s.groups)
  if mine.isEmpty then s else placeOpp (s.ctx c).latched.owner s

/-- REPLAY (R272). -/
def execReplay (ctx : Fin 1024) : State → Out := fun s =>
  if (s.ctx ctx).st = .free then .next (ctxDone 6 ctx 1 s)
  else .next (ctxDone 6 ctx 0 (settleGroups ctx (fun g => g.replay && g.mode == 0) 1 3 s))

/-- DELIVER (R272). -/
def execDeliver (ctx : Fin 1024) : State → Out := fun s =>
  if (s.ctx ctx).st = .free then .next (ctxDone 7 ctx 1 s)
  else .next (ctxDone 7 ctx 0 (settleGroups ctx (fun g => (g.replay && g.mode == 0) || g.debug) 2 0 s))

/-- A write of CTXCMD (R263): with OP nonzero it starts the command. -/
def ctxCommand (op : Nat) (c : Fin 1024) (s : State) : State :=
  let run : State → Out := match op with
    | 1 => execBind c
    | 2 => execUnbind c
    | 3 => execRevoke c
    | 4 => execResume c
    | 5 => execPreempt c
    | 6 => execReplay c
    | 7 => execDeliver c
    | _ => fun s => .next (s.setHub { s.hub with cmdCtx := c, cmdOp := 0 })
  match run s with
  | .next t => t
  | _ => s

/-! ### The timestamp reset (R217) -/

/-- Whether an access that the owner's waves, engines or hub agents issued is not performed. -/
def ownerBusy (s : State) (o : Nat) : Bool :=
  s.mem.stores.any (·.owner == o) || s.mem.fabs.any (fun f => f.owner == o && !f.gone) || s.eng.copies.any (·.owner == o)
    || s.eng.fetch.any (·.owner == o) || s.gate.rels.any (·.owner == o) || s.rota.reqs.any (·.owner == o)

/-- The reset itself: every timestamp of the owner's lines and the lease clocks of its cores are 0. Its L1 lines, all clean, go; a copy in L2
that its home no longer agrees with goes too, so that the order of R210 is kept. -/
def resetStamps (o : Nat) (s : State) : State :=
  match s.owner? o with
  | none => s
  | some x =>
    let cores := x.spec.cores
    let s := s.setCores (s.cores.map fun e =>
      if cores.contains e.1 then (e.1, { e.2 with lclk := 0, l1 := [] }) else if e.1 = hubClock o then (e.1, { e.2 with lclk := 0 }) else e)
    let mine := fun (y : L2Line) => x.spec.slices.contains (y.die, y.slice) && y.line.typ = .loc
    let zero := fun (y : L2Line) => if mine y then { y with line := { y.line with wts := 0, rts := 0 } } else y
    let fresh := fun (y : L2Line) => !mine y || y.line.bytes == cellBytes s.mem.cells y.line.pa 64
    let held := fun (t : Stamp) => t.own == o
    let s := s.setMem { s.mem with
      stamps := s.mem.stamps.map fun t => if held t then { t with wts := 0, rts := 0 } else t
      mts := s.mem.mts.filter (·.1 != o)
      l2 := (s.mem.l2.filter fresh).map zero }
    s.updOwner o fun y => { y with resetReq := false, reset := false }

/-- Whether a group stands in the way of its owner's reset: one that is resident, but for the first groups of a TIMED owner's launch whose
padded dispatch the reset lies in. -/
def resetBlocks (s : State) (x : Owner) (g : Group) : Bool :=
  g.owner == x.id && g.resident && !(x.timed && (s.kernel? g.kernel).any fun k => k.st = .preloading || k.st = .dispatching)

/-- TIMESTAMP_RESET (R217). -/
def execTimestampReset (o : Fin 8) : State → Out := fun s =>
  match s.owner? o with
  | none => .refused (.notEnabled "TIMESTAMP_RESET")
  | some x =>
    if !x.resetReq then .refused (.notEnabled "TIMESTAMP_RESET")
    else if s.groups.any (resetBlocks s x) || ownerBusy s o then
      .next ((s.updOwner o fun y => { y with reset := true }).setGroups (amend (resetBlocks s x) (fun g => { g with stop := true }) s.groups))
    else .next (dispatchOpp o (placeOpp o (resetStamps o s)))

end Sys2Proof.Machine
end

