-- ==== Sys2Proof/Machine/Owner.lean ====
section
/-! DEFINITION. The rota's and the owners' steps: slots, services, returns, super-frame boundaries, commits, life cycle
(spec/02_owner.md R26 to R45, R424, R425). -/

namespace Sys2Proof.Machine

/-! ### Slots, services, returns -/

/-- What an admission brings about where it happens (R254, R307, R348, R401). -/
def onAdmit (r : Req) (s : State) : State := lnchAdmit r (releaseAdmit r (claimAdmit r (fabAdmit r s)))

/-- SLOT_START (R31). -/
def execSlotStart (cls : RotaClass) (inst : RotaInst) : State → Out := fun s =>
  onOccasion "SLOT_START" (s.rota.insts.any fun q => q.inst = inst && q.cls = cls && q.next == some s.now) (slotStart cls inst onAdmit s)

/-- Whether the leg that a request stands before is over: its padded service, or its fixed time. -/
def legOver (s : State) (r : Req) : Bool :=
  match r.legs with
  | .rota c _ :: _ => r.adm.any fun t => t + service c == s.now
  | .hold _ :: _ | .turn :: _ => true
  | [] => false

/-- PADDED_SERVICE_COMPLETE (R28). -/
def execPaddedServiceComplete (req : Nat) : State → Out := fun s =>
  onOccasion "PADDED_SERVICE_COMPLETE" ((s.req? req).any (legOver s)) (legDone req s)

/-- RESULT_RETURN (R53). -/
def execResultReturn (w : WaveRef) (entry : Nat) : State → Out := fun s =>
  if s.mem.fabs.any (·.id == entry) then .next (replyFab entry s)
  else
    let out := (s.wave? w).any fun x => x.pend.any fun p => p.id == entry && p.left != 0
    let quar := s.cores.any fun e => e.2.quar.any fun q => q.pend.any (·.1 == entry)
    onOccasion "RESULT_RETURN" (out || quar) (returnPart w entry s)

/-! ### REPAIRED (R44, R412) -/

/-- Owners as the OWNERS field of an event record. -/
def ownerMask (l : List Nat) : BitVec 8 := BitVec.ofNat 8 ((List.range 8).foldl (fun n o => if l.contains o then n + 2 ^ o else n) 0)

/-- An owner receives REPAIRED: at most once at any one boundary. -/
def repaired (l : List Nat) (s : State) : State :=
  s.setOwners (amend (fun x => l.contains x.id && x.repAt != some s.now)
    (fun x => { x with repepoch := x.repepoch + 1, repAt := some s.now }) s.owners)

/-- An event takes effect: its record, and REPAIRED for those whom it concerns. -/
def event (kind unit : Nat) (l : List Nat) (s : State) : State := recordEvent kind unit s.now (ownerMask l) (repaired l s)

/-! ### Commits (R34 to R36, R424, R425) -/

def tableEntry (t : BitVec 64) (i : Nat) : Nat := fld t.toNat (4 * i) 4
def anyEntry (p : Nat → Bool) (t : BitVec 64) : Bool := (List.range 16).any fun i => p (tableEntry t i)

/-- The ERRCODE that refuses a commit of the staged tables, 0 when none does (R35). -/
def commitErr (s : State) (repair : Bool) : Nat :=
  let t := s.rota.staged
  let fixed := s.owners.filter fun o => o.timed && (o.st = .running || o.st = .switching)
  if s.rota.pend.isSome then 4
  else if t.any (anyEntry fun c => decide (10 ≤ c)) then 1
  else if !anyEntry (· == 9) (t.getD RotaClass.hbm.code 0) then 2
  else if !repair && fixed.any (fun o => slotsChanged s.rota.live t o.id) then 3
  else 0

/-- A write of COMMIT (R35), for an owner to be created (R424) or for none. One that is accepted leaves ERR and ERRCODE as they are
(LOG 33). -/
def requestCommit (repair : Bool) (create : Option OwnerSpec) (s : State) : State :=
  let e := commitErr s repair
  if e ≠ 0 then s.setRota { s.rota with repair, err := true, errcode := e }
  else s.setRota { s.rota with repair, pend := some ⟨s.rota.staged, repair, create⟩ }

/-- ROTA_TBL_WRITE (R34). -/
def execRotaTblWrite (cls : RotaClass) (v : BitVec 64) : State → Out := fun s =>
  .next (s.setRota { s.rota with staged := setReg 9 cls.code v rotaReset s.rota.staged })

/-- COMMIT (R35). -/
def execCommit (repair : Bool) : State → Out := fun s => .next (requestCommit repair none s)

/-- An owner's record before it is created: its registers at their reset values. -/
def Owner.blank (o : Nat) : Owner :=
  { id := o, st := .retired, timed := false, repepoch := 0
    spec := { id := Fin.ofNat 8 o, mode := .elastic, cores := [], slices := [], mscWays := 0, seed := [], tlbWays := [], walkPart := 0, s2root := 0 }
    stress := false, lease := 16, resetReq := false, swcap := 0, patience := 20, auto := false, frag := false, fragcore := 0, gcore := 0, ccore := 0
    cbusy := false, clbase := 0, clcount := 0, void := 0, timeout := 1000, dcquota := 1024, dom := 0, tlost := 0, stale := 0, bardiag := 0
    nredtimer := 180000, reset := false, repAt := none, heldAt := none, fragId := 0, fragNew := false, owed := 0, switchAt := none }

/-- The owner becomes CREATED (R45): its registers keep what firmware wrote. -/
def createOwner (spec : OwnerSpec) (s : State) : State :=
  let old := (s.owner? spec.id).getD (Owner.blank spec.id)
  let new := { old with
    st := .created, timed := spec.mode = .timed, repepoch := 0, spec, stress := false, resetReq := false, frag := false, cbusy := false
    reset := false, repAt := none, heldAt := none, fragNew := false, owed := 0, switchAt := none }
  s.setOwners (new :: s.owners.filter (·.id != spec.id.val))

/-- Whether a pending commit is deferred: a repair that concerns an owner which is SWITCHING (R44). -/
def commitHeld (s : State) (c : Captured) : Bool :=
  c.repair && (timedOwners s).any fun o => slotsChanged s.rota.live c.tables o && isSwitching s o

/-- A pending commit takes effect at a boundary (R35, R36, R424). -/
def takeCommit (s : State) : State :=
  match s.rota.pend with
  | none => s
  | some c =>
    if commitHeld s c then s
    else
      let hit := if c.repair then (timedOwners s).filter fun o => slotsChanged s.rota.live c.tables o else []
      let s := s.setRota { s.rota with live := c.tables, pend := none }
      let s := if c.repair then event 7 0 hit s else s
      match c.create with
      | some o => createOwner o s
      | none => s

/-- A table with every entry of an ID set to FREE. -/
def freeEntries (o : Nat) (t : BitVec 64) : BitVec 64 :=
  BitVec.ofNat 64 ((List.range 16).foldl (fun n i => n + (if tableEntry t i = o then 8 else tableEntry t i) * 16 ^ i) 0)

/-- The hub's own commit for retired owners (R425). -/
def hubCommit (s : State) : State :=
  match s.rota.retired with
  | [] => s
  | l =>
    let live := l.foldl (fun ts o => ts.map (freeEntries o)) s.rota.live
    event 7 0 [] (s.setRota { s.rota with live, retired := [] })

/-! ### Spare take-overs and clock steps (R410, R40, R418) -/

/-- Lines of some slices are written back and leave. -/
def flushSlices (owner : Nat) (l : List (Nat × Nat)) (s : State) : State :=
  let out := fun (x : L2Line) => l.contains (x.die, x.slice)
  let gone := s.mem.l2.filter out
  gone.foldl (fun s x => writeBack owner 512 x s) (s.setMem { s.mem with l2 := s.mem.l2.filter (!out ·) })

/-- L2 lines beyond the ways that a slice has left are written back, as traffic of the slice's owner, and go (R193, R30). -/
def trimL2 (die sl : Nat) (s : State) : State :=
  let keep := (List.range 1024).flatMap fun set =>
    if s.mem.l2.any fun x => x.die == die && x.slice == sl && l2Set x == set then (l2Tags die sl set s.mem.l2).take (l2WaysOf s die sl) else []
  let out := fun (x : L2Line) => x.die == die && x.slice == sl && !keep.contains (blockOf x.line.pa)
  let gone := s.mem.l2.filter out
  let o := ((s.owners.find? fun x => x.spec.slices.contains (die, sl)).map (·.id)).getD 8
  gone.foldl (fun s x => writeBack o 512 x s) (s.setMem { s.mem with l2 := s.mem.l2.filter (!out ·) })

/-- Count an error of a unit in the lifetime record (R413). -/
def countError (kind : String) (unit n : Nat) (s : State) : State :=
  let old := ((s.rel.errors.find? fun e => e.1 == kind && e.2.1 == unit).map (·.2.2)).getD 0
  s.setRel { s.rel with errors := (kind, unit, old + n) :: s.rel.errors.filter fun e => !(e.1 == kind && e.2.1 == unit) }

/-! ### Lanes of a port (R386, R390, R399) -/

def State.port (s : State) (p : Nat) : Port := s.link.ports.getD p Port.reset
def allLanes : List Nat := List.range 18
/-- Spare lanes of a port: those that neither work nor have failed. -/
def spareLanes (x : Port) : List Nat := allLanes.filter fun l => !x.lanes.contains l && !x.failed.contains l

/-- Flits that wait for a port go back to their delivery contexts, which send them again (R390, R395). -/
def returnFlits (p : Nat) (s : State) : State :=
  let inst : RotaInst := .fabPort p
  let here := ((s.rota.insts.find? (·.inst = inst)).map (·.queue)).getD []
  let out := here.filter fun id => (s.req? id).any fun r => match r.purpose with
    | .remote _ => true
    | _ => false
  let s := s.setRota { s.rota with
    insts := amend (·.inst = inst) (fun q => { q with queue := q.queue.filter (!out.contains ·) }) s.rota.insts
    reqs := s.rota.reqs.filter fun r => !out.contains r.id }
  s.setMem { s.mem with fabs := s.mem.fabs.filter fun f => !(f.gone && f.back && !strays s f.id) }

/-- A port stops: what it holds goes back, and no lane of it waits for its repair. -/
def stopPort (p : Nat) (f : Port → Port) (s : State) : State :=
  let s := s.setRel { s.rel with repairs := s.rel.repairs.filter fun r => !(r.1 == 2 && r.2 / 32 == p) }
  returnFlits p (updPort p (fun x => f { x with bad := [], tries := 0, ready := false, replay := [], used := [], wait := [] }) s)

/-- A port becomes FAILED: isolated, the paths through it invalid (R399). -/
def failPort (p : Nat) (s : State) : State := stopPort p (fun x => { x with st := .failed }) s

/-- A port is UP: what was held goes out, and requests that waited for a path (R391, R399). -/
def portUp (p : Nat) (s : State) : State := retryPaths (drainPort p (updPort p (fun x => { x with st := .up, ready := false, tries := 0 }) s))

/-- A failed lane is replaced by the lowest spare, or removed; with the last of them the port is UP again (R390). -/
def replaceLane (port lane : Nat) (s : State) : State :=
  let x := s.port port
  if x.st ≠ .degraded || !x.bad.contains lane then s
  else
    let rest := x.lanes.filter (· != lane)
    let spare := (spareLanes x).head?
    let lanes := match spare with
      | some sp => allLanes.filter fun l => l == sp || rest.contains l
      | none => rest
    let n := (s.rel.spares.filter fun e => e.1 == 2 && e.2.1 / 32 == port).length
    let s := if spare.isSome then s.setRel { s.rel with spares := s.rel.spares ++ [(2, laneUnit port lane, n)] } else s
    let s := updPort port (fun x => { x with
      lanes, spares := if spare.isSome then x.spares - 1 else x.spares, failed := x.failed ++ [lane], bad := x.bad.filter (· != lane) }) s
    if (s.port port).bad.isEmpty && x.ready then portUp port s else s

/-- What changes when a spare takes over or a way is disabled. -/
def takeSpare (kind unit : Nat) (s : State) : State :=
  let n := (s.rel.spares.filter (·.1 == kind)).length
  let s := if kind = 2 || kind = 5 then s else s.setRel { s.rel with spares := s.rel.spares ++ [(kind, unit, n)] }
  match kind with
  | 1 => s.updCore unit fun c => { c with errs := 0 }
  | 2 => replaceLane (unit / 32) (unit % 32) s
  | 5 => trimL2 (unit / 512) (unit / 16 % 32) (s.setMem { s.mem with l2ways := s.mem.l2ways ++ [(unit / 512, unit / 16 % 32, unit % 16)] })
  | _ => s

/-- UNIT of a repair's event record: of a row, its stack and channel (R412). -/
def recordUnit (kind unit : Nat) : Nat := if kind = 3 then unit % 1024 else unit

/-- The repairs whose owners are not SWITCHING take effect (R44); a core's once no group is resident there (R411). -/
def takeRepairs (s : State) : State :=
  let due := s.rel.repairs.filter fun r =>
    ((concerned s r.1 r.2).all fun o => !isSwitching s o) && (r.1 != 1 || (coreGroups s r.2).isEmpty)
  let s := s.setRel { s.rel with repairs := s.rel.repairs.filter (!due.contains ·) }
  let s := overList (fun (r : Nat × Nat) s => event r.1 (recordUnit r.1 r.2) (concerned s r.1 r.2) (takeSpare r.1 r.2 s)) due s
  -- what a core under repair held back may be placed now
  overList (fun (x : Owner) s => if due.any (fun r => r.1 == 1 && x.spec.cores.contains r.2) then placeOpp x.id s else s) s.owners s

/-- An owner's slice set on a die, or its MSC mask, changes: the slices of both sets are flushed, and the lines of the ways that leave the
owner are written back and leave (R195, R196). -/
def setSlices (o die : Nat) (new : List (Nat × Nat)) (s : State) : State :=
  let old := ((s.owner? o).map (·.spec.slices)).getD []
  (flushSlices o (old.filter (·.1 == die) ++ new) s).updOwner o fun y => { y with spec := { y.spec with slices := old.filter (·.1 != die) ++ new } }
def setMscMask (o : Nat) (m : BitVec 16) (s : State) : State :=
  let old := ((s.owner? o).map (·.spec.mscWays)).getD 0
  let s := (s.mem.msc.filter fun e => e.own == o && (old &&& ~~~m).getLsbD e.way).foldl (fun s e => mscLeave e s) s
  s.updOwner o fun y => { y with spec := { y.spec with mscWays := m } }
/-- The set bits of a mask of n bits. -/
def maskBits (v n : Nat) : List Nat := (List.range n).filter fun k => fld v k 1 == 1
def setPart (o : Nat) (die : Option Nat) (v : Nat) (s : State) : State :=
  match die with
  | some d => setSlices o d ((maskBits v 32).map fun k => (d, k)) s
  | none => setMscMask o (BitVec.ofNat 16 v) s

/-- What a change of a partition gives its owner: slices of a die, or MSC ways. -/
def moveSlices (m : Nat × Option Nat × Nat) : List (Nat × Nat) :=
  match m.2.1 with
  | some d => (maskBits m.2.2 32).map fun k => (d, k)
  | none => []
def moveWays (m : Nat × Option Nat × Nat) : BitVec 16 := if m.2.1.isNone then BitVec.ofNat 16 m.2.2 else 0

/-- UNIT of the record of such a change (R412): the slice that its owner loses, or else gains, with way 0; or the lowest MSC way that changes,
with slice 0 (LOG 33). -/
def moveUnit (s : State) (m : Nat × Option Nat × Nat) : Nat :=
  let spec := (s.owner? m.1).map (·.spec)
  match m.2.1 with
  | some d =>
    let old := ((spec.map (·.slices)).getD []).filter (·.1 == d)
    let lost := old.filter fun e => !(moveSlices m).contains e
    let won := (moveSlices m).filter fun e => !old.contains e
    ((lost ++ won).head?.map fun e => wayUnit e.1 e.2 0).getD (wayUnit d 0 0)
  | none => (maskBits (((spec.map (·.mscWays)).getD 0) ^^^ moveWays m).toNat 16).headD 0

/-- Spare take-overs of slices and MSC ways take effect as repairs (R195, R196): one of a TIMED owner that is SWITCHING is deferred (R44). -/
def takeMoves (s : State) : State :=
  let due := s.rel.moves.filter fun m => !(s.timed m.1 && isSwitching s m.1)
  overList (fun (m : Nat × Option Nat × Nat) s => event 5 (moveUnit s m) (if s.timed m.1 then [m.1] else []) (setPart m.1 m.2.1 m.2.2 s)) due
    (s.setRel { s.rel with moves := s.rel.moves.filter (!due.contains ·) })

/-- A clock step, or the step that a thermal trip forces: REPAIRED for every owner, later for those that are SWITCHING. What is left of the
wall-clock times spans another number of cycles from here on (R2). -/
def takeStep (s : State) : State :=
  match (if s.clk.trip then some 2400 else s.clk.step) with
  | none => s
  | some mhz =>
    let s := (rescale mhz s).setClk { s.clk with mhz, step := none, trip := false, ref := s.wall, refAt := s.now }
    let live := s.owners.filter (·.st ≠ .retired)
    let s := s.setOwners (amend (·.st = .switching) (fun x => { x with owed := x.owed + 1 }) s.owners)
    event 6 0 ((live.filter (·.st ≠ .switching)).map (·.id)) s

/-- CLOCK_STEP (R40). -/
def execClockStep (mhz : Nat) : State → Out := fun s =>
  if clockStepOk mhz then .next (s.setClk { s.clk with step := some mhz })
  else .next (s.setHub { s.hub with status := "CLOCK_STEP" :: s.hub.status })

/-! ### SUPERFRAME_BOUNDARY (R27, R35, R38, R40, R44, R315, R425) -/

/-- Whether a TIMED owner's switch begins: a group has stopped for its save, and with it every group that a compaction saves (R316), or all
that a timestamp reset saves, their accesses being performed (R217). -/
def wantsSwitch (s : State) (x : Owner) : Bool :=
  x.timed && x.st = .running && s.groups.any (fun g => g.owner == x.id && saveDue s g)
    && (s.groups.all fun g => g.owner != x.id || !g.compact || !g.resident || allStopped g)
    && (!x.reset || (!ownerBusy s x.id && s.groups.all fun g => !resetBlocks s x g || allStopped g))

/-- The hub writes COMPACT for the owners whose FRAG was set since the last boundary (R315). -/
def hubCompact (s : State) : State :=
  let due := s.owners.filter fun x => x.st ≠ .retired && x.fragNew && x.frag && !x.cbusy && (x.auto || x.timed)
  overList (fun (x : Owner) s => startCompact x.id x.fragcore s) due (s.setOwners (s.owners.map fun x => { x with fragNew := false }))

/-- An ELASTIC owner's switch ends at the first boundary at which none of its groups is being saved or restored (R45). -/
def endElastic (s : State) : State :=
  let isOver := fun (x : Owner) => x.st = .switching && !x.timed && s.groups.all fun g => g.owner != x.id || (g.st ≠ .saving && g.st ≠ .restoring)
  s.setOwners (amend isOver (fun x => { x with st := .running }) s.owners)

/-- The REPAIRED of clock steps within a switch comes at the boundary at which it ends (R44): one record for each step, of all owners that it
reaches here (R412). The steps that an owner is owed are the latest. -/
def takeOwed (s : State) : State :=
  let due := s.owners.filter fun x => x.st ≠ .switching && x.st ≠ .retired && x.owed != 0
  let most := (due.map (·.owed)).foldl max 0
  let s := s.setOwners (amend (·.st ≠ .switching) (fun x => { x with owed := 0 }) s.owners)
  (List.range most).reverse.foldl (fun s k => event 6 0 ((due.filter fun x => decide (k < x.owed)).map (·.id)) s) s

/-- A repair holds back an owner's switches until the boundary after the one at which it takes effect (R44). -/
def holdBack (o : Nat) (s : State) : State :=
  let s := s.updOwner o fun x => { x with heldAt := some s.now }
  if switchHeld s o then s else s.scheduleOnce s.clk.boundary (.groupPlace (Fin.ofNat 8 o))

/-- One second more in the bin of a sensor. -/
def countBin (sensor bin : Nat) (l : List (Nat × Nat × Nat)) : List (Nat × Nat × Nat) :=
  let n := ((l.find? fun e => e.1 == sensor && e.2.1 == bin).map (·.2.2)).getD 0
  (sensor, bin, n + 1) :: l.filter fun e => !(e.1 == sensor && e.2.1 == bin)
/-- A second of the wall clock that has passed is counted in the histograms: the temperature of each die in bins of 1 °C, the package's power in
bins of 25 W (R413). -/
def countSecond (s : State) : State :=
  let n := s.rel.secs
  if s.wall / (1000000 * usTicks) ≤ n then s
  else
    -- the number of the sample, over resets too
    let k := ((s.rel.hist.filter (·.1 == 4)).map (·.2.2)).sum
    let h := (List.range 4).foldl (fun l d => countBin d (Config.dieTemp d k) l) s.rel.hist
    s.setRel { s.rel with hist := countBin 4 (Config.power k / 25) h, secs := n + 1 }

/-- What takes effect at a boundary, in this order: what switches that end there owe; a commit, then the hub's own; repairs; the clock
step; compactions; switches. -/
def boundaryEffects (s : State) : State :=
  let held := (s.owners.filter fun x => switchHeld s x.id).map (·.id)
  let s := hubCompact (takeStep (takeMoves (takeRepairs (hubCommit (takeCommit (takeOwed (endElastic (countSecond s))))))))
  overList (fun (x : Owner) s => if held.contains x.id then holdBack x.id s else if wantsSwitch s x then beginSwitch x.id s else s) s.owners s

/-- SUPERFRAME_BOUNDARY (R27). -/
def execSuperframeBoundary : State → Out := fun s =>
  onOccasion "SUPERFRAME_BOUNDARY" (decide (s.clk.boundary ≤ s.now)) (boundaryEffects (s.setClk { s.clk with boundary := s.clk.boundary + 256 }))

/-- SWITCH_END (R38). -/
def execSwitchEnd (o : Fin 8) : State → Out := fun s =>
  match s.owner? o with
  | none => .refused (.notEnabled "SWITCH_END")
  | some x =>
    if x.st ≠ .switching || x.switchAt != some s.now then .refused (.notEnabled "SWITCH_END")
    else
      .next (placeOpp o (s.updOwner o fun y => { y with st := .running, switchAt := none }))

/-! ### CREATE, mode changes, RETIRE (R45, R424, R425) -/

/-- A report in firmware status. -/
def report (m : String) (s : State) : State := s.setHub { s.hub with status := m :: s.hub.status }

def seedOverlap (a b : Nat × Nat × Nat) : Bool :=
  a.1 == b.1 && decide (a.2.1 < b.2.1 + b.2.2) && decide (b.2.1 < a.2.1 + a.2.2)

/-- Whether two owners would hold one structure. -/
def specClash (a b : OwnerSpec) : Bool :=
  a.cores.any b.cores.contains || a.slices.any b.slices.contains || a.mscWays &&& b.mscWays != 0
    || a.seed.any (fun x => b.seed.any (seedOverlap x)) || a.tlbWays.any (fun x => x.2 &&& look 0 x.1 b.tlbWays != 0) || a.walkPart == b.walkPart

/-- Whether CREATE's own checks pass; a claim-store range is given by CLOWN, which checks it (R343). -/
def createOk (s : State) (o : OwnerSpec) : Bool :=
  let others := s.owners.filter (·.st ≠ .retired)
  others.all (fun x => x.id != o.id.val && !specClash o x.spec)
    && s.rel.moves.all (fun m => !o.slices.any (moveSlices m).contains && o.mscWays &&& moveWays m == 0)
    && o.cores.all (fun c => o.slices.any fun sl => sl.1 == dieOf c) && o.seed.all fun r => decide (r.2.1 + r.2.2 ≤ 16384)

/-- CREATE (R424). -/
def execCreate (o : OwnerSpec) : State → Out := fun s =>
  if !createOk s o then .next (report "CREATE" s)
  else if commitErr s s.rota.repair ≠ 0 then .next (report "CREATE" (requestCommit s.rota.repair none s))
  else .next (requestCommit s.rota.repair (some o) s)

/-- OWNER_MODE_CHANGE (R45). -/
def execOwnerModeChange (o : Fin 8) (m : Mode) : State → Out := fun s =>
  match s.owner? o with
  | some x => if x.st = .created then .next (s.updOwner o fun x => { x with timed := m = .timed, stress := x.stress && m ≠ .timed }) else .next (report "MODE" s)
  | none => .next (report "MODE" s)

/-- What a retired owner held is flushed, scrubbed and cleared; its write-backs, and what requests of the ID still wait, are SYS work (R26),
the ID's slots being FREE: none is served for a later owner of the ID (R25). -/
def scrubOwner (x : Owner) (s : State) : State :=
  let s := flushSlices 8 x.spec.slices s
  let s := (s.mem.msc.filter fun e => e.own == x.id && e.dirty).foldl (fun s e =>
    sendReq 8 512 [.rota .hbm (.hbm (homeStack e.block) (homeChan e.block))] .idle s) s
  let s := setReqs s (amend (·.owner == x.id) (fun r => { r with owner := 8, sys := true }) s.rota.reqs)
  let s := s.setRel { s.rel with moves := s.rel.moves.filter (·.1 != x.id) }
  let inSeed := fun (e : Nat) => x.spec.seed.any fun r => r.1 == e / 16384 && decide (r.2.1 ≤ e % 16384) && decide (e % 16384 < r.2.1 + r.2.2)
  let s := s.setMem { s.mem with
    stamps := s.mem.stamps.filter (·.own != x.id)
    msc := s.mem.msc.filter (·.own != x.id), mts := s.mem.mts.filter (·.1 != x.id)
    pwc := s.mem.pwc.filter (·.2.1 != x.id), seed := s.mem.seed.filter fun e => !inSeed e.1
    seedw := s.mem.seedw.filter fun e => !inSeed e.2.1 }
  s.setCores (s.cores.map fun e =>
    if x.spec.cores.contains e.1 then (e.1, { e.2 with l1 := [], cc := [] }) else if e.1 = hubClock x.id then (e.1, { e.2 with lclk := 0 }) else e)

/-- Whether a kernel of an owner is resident or queued. -/
def ownerBusyKernels (s : State) (o : Nat) : Bool :=
  s.hub.kernels.any (·.owner == o) || launchQueued s fun c => (s.ctx c).latched.owner == o

/-- RETIRE (R45). -/
def execRetire (o : Fin 8) : State → Out := fun s =>
  match s.owner? o with
  | none => .next (report "RETIRE" s)
  | some x =>
    if !(x.st = .created || x.st = .running) || ownerBusyKernels s o then .next (report "RETIRE" s)
    else
      let s := scrubOwner x s
      let s := s.updOwner o fun y => { y with st := .retired, clcount := 0 }
      .next (s.setRota { s.rota with retired := s.rota.retired ++ [o.val] })

/-! ### REGISTER_WRITE -/

/-- Change an owner's registers, which stand also while its ID names no owner. -/
def ownerReg (o : Nat) (f : Owner → Owner) (s : State) : State :=
  match s.owner? o with
  | some _ => s.updOwner o f
  | none => s.setOwners (s.owners ++ [f (Owner.blank o)])
def ownerOf (s : State) (o : Nat) : Owner := (s.owner? o).getD (Owner.blank o)

/-- A partition change that is ignored is reported (R424). -/
def partition (ok : Bool) (t s : State) : State := if ok then t else report "PARTITION" s

/-- CTXDESC's fields (R262). -/
def descOf (v : Nat) : CtxDesc :=
  { aqimask := BitVec.ofNat 64 (fld v 384 64), frames := fld v 320 16, saveva := fld v 256 56, hndwords := fld v 192 12, hndimg := fld v 128 56
    s1root := fld v 64 64, debug := fld v 32 1 == 1, system := fld v 27 1 == 1, tenant := fld v 23 4, owner := fld v 20 3, pasid := fld v 0 20 }

/-- What the other owners hold, one whose CREATE waits for its boundary included (R424). -/
def heldSpecs (s : State) (o : Nat) : List OwnerSpec :=
  (s.owners.filter fun y => y.id != o && y.st ≠ .retired).map (·.spec) ++ ((s.rota.pend.bind (·.create)).filter (·.id.val != o)).toList

/-- A change of slices or of MSC ways applies while the owner is CREATED; later only as a spare take-over, which firmware marks by
ROTA_CTL.REPAIR (R195, R196; LOG 33). -/
def writePart (o : Nat) (die : Option Nat) (v : Nat) (ok : Bool) (s : State) : State :=
  let st := (ownerOf s o).st
  if st = .created then partition ok (setPart o die v s) s
  else partition (ok && s.rota.repair && (st = .running || st = .switching)) (s.setRel { s.rel with moves := s.rel.moves ++ [(o, die, v)] }) s

/-- A slice set, an MSC mask or a TLB mask is written (R195, R196, R243). -/
def writeSlices (o die v : Nat) (s : State) : State :=
  let new := (maskBits v 32).map fun k => (die, k)
  let free := (heldSpecs s o).all (fun y => !new.any y.slices.contains) && s.rel.moves.all fun m => m.1 == o || !new.any (moveSlices m).contains
  let bare := new.isEmpty && (ownerOf s o).spec.cores.any (dieOf · == die)
  writePart o (some die) v (free && !bare) s

def writeMscMask (o v : Nat) (s : State) : State :=
  let new := BitVec.ofNat 16 v
  writePart o none v ((heldSpecs s o).all (fun y => y.mscWays &&& new == 0) && s.rel.moves.all fun m => m.1 == o || moveWays m &&& new == 0) s

def writeTlbMask (o quad v : Nat) (s : State) : State :=
  let m := BitVec.ofNat 16 v
  let free := (heldSpecs s o).all fun y => look 0 quad y.tlbWays &&& m == 0
  let t := ownerReg o (fun y => { y with spec := { y.spec with tlbWays := enter quad m y.spec.tlbWays } }) s
  partition free (t.setMem { t.mem with qtlb := t.mem.qtlb.filter fun e => !(e.1 == quad && e.2.owner == o) }) s

/-- CLOWN (R343). -/
def writeClown (o v : Nat) (s : State) : State :=
  let base := fld v 0 12
  let count := fld v 16 13
  let s := ownerReg o (fun y => { y with void := fld v 32 32 }) s
  let free := s.owners.all fun y => y.id == o || y.st = .retired || y.clcount == 0 || count == 0
    || decide (base + count ≤ y.clbase) || decide (y.clbase + y.clcount ≤ base)
  partition ((ownerOf s o).st = .created && decide (base + count ≤ 4096) && free)
    (ownerReg o (fun y => { y with clbase := base, clcount := count }) s) s

/-- FABCTL (R403). -/
def writeFabctl (o v : Nat) (s : State) : State :=
  let quota := fld v 16 14
  let time := fld v 0 16
  let s := ownerReg o (fun y => { y with
    stale := fld v 48 16, tlost := fld v 33 15, dcquota := if quota ≤ 8192 then quota else y.dcquota
    timeout := if 10 ≤ time ∧ time ≤ 60000 then time else y.timeout }) s
  let dom := fld v 30 3
  if dom = (ownerOf s o).dom then s
  else partition ((ownerOf s o).st = .created) (ownerReg o (fun y => { y with dom }) s) s

/-- GRPCTL (R315): CORE, COMPACT, AUTO, FRAG and PATIENCE. -/
def writeGrpctl (o v : Nat) (s : State) : State :=
  let us := fld v 0 16
  let core := fld v 49 9
  let s := ownerReg o (fun y => { y with
    patience := if 1 ≤ us ∧ us ≤ 1000 then us else y.patience, frag := y.frag && fld v 32 1 == 0
    auto := if y.timed then y.auto else fld v 33 1 == 1, gcore := core }) s
  let x := ownerOf s o
  if fld v 48 1 = 1 && !x.cbusy && x.spec.cores.contains core then startCompact o core s else s

/-- LEASECTL (R216). -/
def writeLease (o v : Nat) (s : State) : State :=
  let n := fld v 0 16
  partition ((ownerOf s o).st = .created && n != 0) (ownerReg o (fun y => { y with lease := n }) s) s

/-- AQICFG (R285): while no context holds the interface. -/
def writeAqi (i v : Nat) (s : State) : State :=
  let n := fld v 128 10
  let sum := ((s.hub.aqis.filter (·.id != i)).map (·.qcount)).sum
  if (aqiCtx s i).isSome then s
  else updAqi i (fun a => { a with
    errbase := fld v 192 64, errlog2 := fld v 152 8, qtbase := fld v 64 56
    qcount := if n ≤ 512 ∧ sum + n ≤ 8192 then n else a.qcount }) s

/-- QSCHED (R293): the new times apply to what waits already. -/
def writeSched (v : Nat) (s : State) : State :=
  let p := fld v 32 16
  let st := fld v 16 16
  let a := fld v 0 16
  let s := s.setHub { s.hub with
    pendLim := if 1 ≤ p ∧ p ≤ 1000 then p else s.hub.pendLim
    starve := if 10 ≤ st ∧ st ≤ 1000 then st else s.hub.starve
    ageStep := if 1 ≤ a ∧ a ≤ 1000 then a else s.hub.ageStep }
  overList (fun (e : Nat × Nat × Nat × Nat) s =>
    let i : Instr := .pendLimitExpire (Fin.ofNat 64 e.1) (Fin.ofNat 512 e.2.1)
    (s.unschedule i).schedule (wallDue s e.2.2.2 s.hub.pendLim) i) (s.hub.aqis.flatMap fun x => x.pend.map fun e => (x.id, e)) s

/-- A route entry (R399). Clearing the last valid path to a package isolates it (R410, R412). -/
def writeRoute (pkg path v : Nat) (s : State) : State :=
  let valid := fun (s : State) => s.link.route.any fun e => e.1 == pkg && e.2.2.2.1
  let e := (pkg, path, fld v 0 5, fld v 5 1 == 1, fld v 16 16)
  let t := s.setLink { s.link with route := e :: s.link.route.filter fun x => !(x.1 == pkg && x.2.1 == path) }
  if valid s && !valid t then recordEvent 9 pkg (boundaryAt s.now) 0 t else retryPaths t

/-- ROTA_CTL (R34): REPAIR, ERR (write 1 to clear) and COMMIT. -/
def writeRotaCtl (v : Nat) (s : State) : State :=
  let repair := fld v 1 1 == 1
  let clear := fld v 3 1 == 1
  let s := s.setRota { s.rota with repair, err := s.rota.err && !clear, errcode := if clear then 0 else s.rota.errcode }
  if fld v 0 1 = 1 then requestCommit repair none s else s

/-- What a register write does (R4: reserved fields are ignored). -/
def writeReg (r : HubReg) (v : Nat) (s : State) : State :=
  match r with
  | .rotaCtl => writeRotaCtl v s
  | .leasectl o => writeLease o v s
  | .swcap o => ownerReg o (fun y => { y with swcap := fld v 0 16 }) s
  | .grpctl o => writeGrpctl o v s
  | .clown o => writeClown o v s
  | .fabctl o => writeFabctl o v s
  | .sliceSet o die => writeSlices o die v s
  | .mscMask o => writeMscMask o v s
  | .tlbMask o quad => writeTlbMask o quad v s
  | .bardiag o => ownerReg o (fun y => { y with bardiag := fld v 0 32 }) s
  | .nredctl o => if fld v 0 32 < 1024 then s else ownerReg o (fun y => { y with nredtimer := fld v 0 32 }) s
  | .gatebody => s.setGate { s.gate with body := leBytes 40 v ++ List.replicate 24 0 }
  | .gatesig t => s.setGate { s.gate with sigs := enter t.val (leBytes 2420 v) s.gate.sigs }
  | .gatectl =>
    if s.gate.busy then s
    else gateCommand (fld v 8 2) (fld v 0 6) (s.setGate { s.gate with op := fld v 8 2, pol := fld v 0 6 })
  | .ctxdesc c => if (s.ctx c).st = .free then s.updCtx c fun x => { x with desc := descOf v } else s
  | .ctxsel => ctxCommand (fld v 12 3) (Fin.ofNat 1024 (fld v 0 10)) s
  | .segbase c => if (s.ctx c).st = .active then s else s.updCtx c fun x => { x with segbase := fld v 7 49 * 128 }
  | .clcfg c =>
    if (s.ctx c).st = .active then s
    else s.updCtx c fun x => { x with clwin := fld v 32 24, clpod := fld v 16 1 == 1, clslots := fld v 0 9 }
  | .aqicfg i => writeAqi i v s
  | .aqipend i => updAqi i (fun a => { a with pendW1C := a.pendW1C &&& ~~~BitVec.ofNat 64 v }) s
  | .qslotaqi n => setSlot n (fun x => { x with asel := fld v 0 6 }) s
  | .qslotq n => setSlot n (fun x => { x with qsel := fld v 0 9 }) s
  | .qsched => writeSched v s
  | .irt e => s.setHub { s.hub with irt := enter e.val (BitVec.ofNat 64 (fld v 22 10 * 2 ^ 22 + fld v 0 11)) s.hub.irt }
  | .route p k => writeRoute p k v s
  | .podjob c => s.updCtx c fun x => { x with podjob := if fld v 6 1 = 1 then some (fld v 16 16, fld v 0 6) else none }
  | .hdm n => s.setLink { s.link with
      hdm := (n.val, fld v 0 52, fld v 52 52) :: s.link.hdm.filter (·.1 != n.val) }
  | .ide part => s.setLink { s.link with ide := enter part.val (v % 2 ^ 256) s.link.ide }
  | .barcmd =>
    if fld v 0 1 = 1 then breakBarriers (Fin.ofNat 1024 (fld v 54 10)) (fld v 22 32) (BitVec.ofNat 5 (fld v 17 5)) s
    else setBarcmd (fld v 54 10) (fld v 22 32) (fld v 17 5) s

/-- REGISTER_WRITE (R4). -/
def execRegisterWrite (r : HubReg) (v : Nat) : State → Out := fun s => .next (writeReg r v s)

end Sys2Proof.Machine
end

