-- ==== Sys2Proof/Machine/Wires.lean ====
section
/-! DEFINITION. Steps of stores on their way, of remote requests, and of host agents (spec/11_consistency.md R220 to R224, R426;
spec/23_link.md R395 to R402, R405). -/

namespace Sys2Proof.Machine

/-! ### Stores (R426) -/

/-- STORE_WRITE_THROUGH (R426). -/
def execStoreWriteThrough (store : Nat) : State → Out := fun s =>
  onOccasion "STORE_WRITE_THROUGH"
    (s.mem.stores.any (fun x => x.id == store && !x.started) || s.mem.fabs.any fun f => f.id == store && !f.started && !f.gone) (writeThrough store s)

/-- WRITE_THROUGH_ACK (R426). -/
def execWriteThroughAck (store : Nat) : State → Out := fun s =>
  onOccasion "WRITE_THROUGH_ACK" (s.mem.stores.any (fun x => x.id == store && x.started) || s.mem.fabs.any fun f => f.id == store && f.typ = .host)
    (writeThroughDone store s)

/-! ### Remote requests (R220, R395 to R402) -/

/-- REMOTE_STORE_ACK (R220). -/
def execRemoteStoreAck (store : Nat) : State → Out := fun s =>
  onOccasion "REMOTE_STORE_ACK" (s.mem.fabs.any fun f => f.id == store && f.acc.kind = .store && f.typ ≠ .host) (replyFab store s)

/-- HOME_STORE_APPLY (R402). -/
def execHomeStoreApply (store : Nat) : State → Out := fun s =>
  onOccasion "HOME_STORE_APPLY" (s.mem.fabs.any fun f => f.id == store && f.typ ≠ .host) (homeApply store s)

/-- A write or counter add of an engine that timed out is its command's failure (R367, R378). -/
def engineTimeout (f : FabReq) (s : State) : State :=
  match f.src with
  | .engine kind cmd =>
    let fail := timeoutFail f
    match s.eng.copies.find? (·.id == cmd) with
    | some c => failCopy c fail.cause fail.addr fail.absorb s
    | none =>
      if s.eng.mmas.any (·.id == cmd) then mmaFail cmd fail.cause fail.addr s
      else engineError f.w.gid kind fail.cause fail.addr fail.absorb s
  | _ => s

/-- A write or counter add of the hub that timed out: a completion's ends it, one of HEAD stalls its queue's slot (R294), an LNCH's ring write
is reported at the wave's park (R308). -/
def hubTimeout (f : FabReq) (s : State) : State :=
  let va := (f.acc.lanes.head?.map (·.va)).getD 0
  match f.src, f.job with
  | .hub, .step (.packetCompletion pk) =>
    (s.setHub { s.hub with packets := amend (·.id == pk) (fun p => { p with bad := true }) s.hub.packets }).scheduleOnce s.now (.packetCompletion pk)
  | .hub, .head _ =>
    let headOf := fun (i q : Nat) => descVa s i q + 24 == va
    (match s.hub.slots.find? fun x => x.st ≠ .free && x.known && headOf x.aqi x.q with
     | some x => stallSlot x.n s
     | none => match s.hub.aqis.findSome? fun a => ((List.range 512).find? (headOf a.id)).map fun q => (a.id, q) with
       | some e => errorRecord e.1 e.2 (s.ctx f.ctx).latched.pasid 6 0 s
       | none => s)
  | .hub, .lnch l => match s.gate.lnchs.find? (·.id == l) with
    | some j => if f.reads then s else lnchLost j va s
    | none => s
  | _, _ => s

/-- FABRIC_TIMEOUT (R398). -/
def execFabricTimeout (req : Nat) : State → Out := fun s =>
  match s.fab? req with
  | none => .refused (.notEnabled "FABRIC_TIMEOUT")
  | some f => onOccasion "FABRIC_TIMEOUT" (!f.gone) (hubTimeout f (engineTimeout f (timeOut req s)))

/-- ROUND_TRIP_BOUND (R401). -/
def execRoundTripBound (req : Nat) : State → Out := fun s =>
  onOccasion "ROUND_TRIP_BOUND" (s.mem.fabs.any fun f => f.id == req && !f.gone && f.bound == some false) (boundFab req s)

/-- TAG_HOLD_EXPIRE (R398). -/
def execTagHoldExpire (core tag : Nat) : State → Out := fun s =>
  onOccasion "TAG_HOLD_EXPIRE" ((s.core core).tags.any fun t => t.tag == tag && t.req.isNone && decide (t.till ≤ s.wall)) (tagHoldEnd core tag s)

/-- RETRANSMIT (R395). -/
def execRetransmit (pkt : Nat) : State → Out := fun s =>
  onOccasion "RETRANSMIT" (s.link.sent.any fun x => x.id == pkt && usPassed s x.last 20) (retransmitFab pkt s)

/-! ### Host agents (R223, R405) -/

/-- Whether the bridge's write of an atomic on a HOST page still follows, so that what the host stores there is overwritten (R224): its
read is at the atomic's issue (LOG 7), its write when its request passes the port (LOG 36). -/
def bridgeOwes (s : State) (pa : Nat) : Bool :=
  s.mem.fabs.any fun f => f.typ = .host && f.acc.kind = .atomic && !f.gone && overlaps f.spans [(pa, 1)] &&
    (!f.started || s.rota.reqs.any fun r => r.purpose = .reply f.w f.id && (r.legs.drop 1).any (· = .rota .host .hostPort))

/-- HOST_SNOOP (R223): the host takes a line; the device's copies go, and the line holds what the host wrote. -/
def execHostSnoop (line : Nat) (data : List (Nat × BitVec 8)) : State → Out := fun s =>
  .next ((data.filter fun e => !bridgeOwes s e.1).foldl (fun s e => putBytes .host e.1 [e.2] s) (dropLine .host (lineOf line) s))

/-- What a LOCAL access of an agent without an owner, such as the bridge, does to an owner's stamps of a line that the owner's MSC ways do
not hold: its slice's MTS follows the agent's clock for that owner (R211, R216). -/
def bridgeMark (o line step : Nat) (s : State) : State :=
  let st := homeStack line
  let ts := max (s.core (hubClock o)).lclk (mtsOf s.mem o st) + step
  setLclk (hubClock o) o ts (s.setMem (mtsRaise o st ts s.mem))

/-- A LOCAL line is written by such an agent (R210, R213): under each owner's stamps. -/
def bridgeStamp (line : Nat) (s : State) : State :=
  overList (fun (x : Owner) s => if mscHas s.mem x.id line then (storeStamp (hubClock x.id) x.id line s).2
    else bridgeMark x.id line 1 s) s.owners s
/-- A LOCAL line is read by such an agent (R210, R212). -/
def bridgeLoad (line : Nat) (s : State) : State :=
  overList (fun (x : Owner) s => if mscHas s.mem x.id line then (homeLoad (hubClock x.id) x.id line s).2.2
    else bridgeMark x.id line 0 s) s.owners s

/-- The bridge writes LOCAL memory. -/
def bridgeWrite (pa : Nat) (bs : List Byte) (s : State) : State :=
  putBytes .loc pa bs ((linesOf pa bs.length).foldl (fun s l => bridgeStamp l s) s)

/-- The bridge's traffic in SYS slots: one request for each line (R405). -/
def bridgeTraffic (pa n : Nat) (s : State) : State :=
  (linesOf pa n).foldl (fun s l =>
    let (id, s) := newReq 8 512 [.rota .msc (.msc (homeStack l))] .idle s
    startLeg id (setReqs s (amend (·.id == id) (fun r => { r with sys := true }) s.rota.reqs))) s

/-- Whether firmware exposes a LOCAL address to the host (R404). -/
def exposed (s : State) (pa : Nat) : Bool := s.link.hdm.any fun e => decide (e.2.1 ≤ pa) && decide (pa < e.2.1 + e.2.2)

/-- HOST_ACCESS (R404, R405): of LOCAL memory that firmware exposes; the host reaches no other (LOG 39). -/
def execHostAccess (pa : Nat) (n : Nat) (write : Option (List (BitVec 8))) : State → Out := fun s =>
  if !((List.range n).all fun k => exposed s (pa + k)) then .next s else
  let s := bridgeTraffic pa n s
  match write with
  | none => .next ((linesOf pa n).foldl (fun s l => bridgeLoad l s) s)
  | some bs => .next (bridgeWrite pa (bs.take n) s)

end Sys2Proof.Machine
end

