-- ==== Sys2Proof/Machine/Link.lean ====
section
/-! DEFINITION. Link ports, flits received, delivery contexts at both ends (spec/23_link.md R386 to R396, R402, R403). -/

namespace Sys2Proof.Machine

/-! ### Ports (R386, R390, R391) -/

/-- PORT_ENABLE (R390). -/
def execPortEnable (port : Fin 18) : State → Out := fun s =>
  .next (updPort port (fun x =>
    if x.st = .down || x.st = .failed then { x with enable := true, st := .training, tries := 0 } else { x with enable := true }) s)

/-- PORT_DISABLE (R390). -/
def execPortDisable (port : Fin 18) : State → Out := fun s => .next (stopPort port (fun x => { x with enable := false, st := .down }) s)

/-- TRAINING_DONE (R390): the working set is chosen from the lanes that passed, lowest first. -/
def execTrainingDone (port : Fin 18) (passed : List (Fin 18)) : State → Out := fun s =>
  let ok := allLanes.filter fun l => passed.any fun x => x.val == l
  onOccasion "TRAINING_DONE" ((s.port port).st = .training)
    (if ok.isEmpty then failPort port s
     else portUp port (updPort port (fun x => { x with
       lanes := ok.take 16, spares := (ok.drop 16).length, failed := allLanes.filter (!ok.contains ·), bad := [] }) s))

/-- A port leaves UP for lane tests and retraining (R389, R390), for some failed lanes. -/
def degrade (p : Nat) (bad : List Nat) (s : State) : State := updPort p (fun x => { x with st := .degraded, bad, ready := false }) s

/-- LANE_FAILURE (R390): a working lane's failure degrades the port, or is found by the lane test of one that is DEGRADED already; a spare
that fails is no spare any more. -/
def execLaneFailure (port : Fin 18) (lane : Fin 18) : State → Out := fun s =>
  let x := s.port port
  if (x.st = .up || x.st = .degraded) && x.lanes.contains lane then
    .next (degrade port (if x.bad.contains lane then x.bad else x.bad ++ [lane.val]) s)
  else onOccasion "LANE_FAILURE" ((spareLanes x).contains lane.val && x.st ≠ .down)
    (updPort port (fun x => { x with failed := x.failed ++ [lane.val], spares := x.spares - 1 }) s)

/-- RETRAINING_DONE (R390, R391). What it does to the lanes is a repair, which takes effect at a boundary (R414): until then the port holds its
flits. In TRAINING it tells of an attempt that failed. -/
def execRetrainingDone (port : Fin 18) (ok : Bool) : State → Out := fun s =>
  let x := s.port port
  let left := (x.lanes.filter (!x.bad.contains ·)).length + (spareLanes x).length
  onOccasion "RETRAINING_DONE" (x.st = .degraded || (x.st = .training && !ok))
    (if x.st = .training then (if 2 ≤ x.tries then failPort port s else updPort port (fun x => { x with tries := x.tries + 1 }) s)
     else if !ok || left = 0 || (x.bad.isEmpty && decide (x.lanes.length ≤ 1)) then failPort port s
     else if x.bad.isEmpty then portUp port s
     else
       let due := (x.bad.map fun l => (2, laneUnit port l)).filter (!s.rel.repairs.contains ·)
       (updPort port (fun x => { x with ready := true }) s).setRel { s.rel with repairs := s.rel.repairs ++ due })

/-- LINKST (R403): N counts the lanes of a port that was trained. -/
def Port.linkst (x : Port) : Nat :=
  let st := match x.st with
    | .down => 0
    | .training => 1
    | .up => 2
    | .degraded => 3
    | .failed => 4
  let n := if x.st = .up || x.st = .degraded then x.lanes.length else 0
  st + (if x.enable then 8 else 0) + n * 2 ^ 7 + x.spares * 2 ^ 12 + x.aged % 2 ^ 32 * 2 ^ 32 + x.txblame % 2 ^ 32 * 2 ^ 64
    + x.hdrop % 2 ^ 32 * 2 ^ 96

/-! ### The two ends of a link (R389, R392) -/

/-- What a port tells its partner of a flit that it has received: it travels outside the channels' buffers. -/
def tellPartner (p : Nat) (f : Flit) (type : FlitType) (s : State) : State :=
  let g : Flit := { f with srcpkg := s.link.pkgId, dstpkg := f.srcpkg, type, of := false, dep := false, bytes := [], map := [], pod := none }
  updPort p (fun x => { x with wire := flitLanes x.lanes g }) (s.setLink { s.link with out := g :: s.link.out })

/-- The oldest flit of the replay buffer goes out again. -/
def replayFlit (p : Nat) (s : State) : State :=
  match (s.port p).replay.head? with
  | some f => updPort p (fun x => { x with wire := flitLanes x.lanes f }) (s.setLink { s.link with out := f :: s.link.out })
  | none => s

/-- What the partner tells: the oldest flit has arrived, or is to be replayed; a buffer of a channel is free again; a drop is charged to this
port as sender (R403). -/
def partnerTells (p : Nat) (f : Flit) (s : State) : State :=
  match f.type with
  | .hopAck => updPort p (fun x => { x with replay := x.replay.drop 1 }) s
  | .hopNack => replayFlit p s
  | .credit => drainPort p (updPort p (fun x => { x with used := (f.vc, x.inUse f.vc - 1) :: x.used.filter (·.1 ≠ f.vc) }) s)
  | .blame => updPort p (fun x => { x with txblame := x.txblame + 1 }) (countError "port txblame" p 1 s)
  | _ => s
def linkOnly : FlitType → Bool
  | .hopAck => true
  | .hopNack => true
  | .credit => true
  | .blame => true
  | _ => false

/-! ### Receiving in delivery contexts (R394, R396) -/

/-- The context of a packet. -/
def flitKey (f : Flit) : DcKey := ⟨f.srcpkg, f.dstpkg, f.owner, f.tc⟩

def updRecv (k : DcKey) (f : RecvDc → RecvDc) (s : State) : State := s.setLink { s.link with recv := amend (·.key = k) f s.link.recv }
def recvDc (s : State) (k : DcKey) : Option RecvDc := s.link.recv.find? (·.key = k)

/-- The answer to a request: on RSP, with the request's AGE (R388), TAG and GEN, and the base and the bitmap of its context (R394). -/
def answer (s : State) (f : Flit) (type : FlitType) (bytes : List (Nat × Byte)) : Flit :=
  let d := recvDc s (flitKey f)
  { f with
    srcpkg := f.dstpkg, dstpkg := f.srcpkg, vc := .rsp, type, of := false, dep := false, bytes
    base := (d.map (·.base)).getD 0, map := ((d.map (·.map)).getD []).filter fun q => decide (seqAhead q ((d.map (·.base)).getD 0) < 4096) }

/-- A packet of another package is performed in this package's memory, as an access of the bridge; and its answer. What an atomic
leaves in the bytes that it names is a free value: the spec lays out no field for its operation and operand (LOG 16). -/
def performPacket (p : Nat) (f : Flit) (s : State) : State :=
  let lines := ((f.bytes.map fun e => lineOf e.1).eraseDups)
  let ans := fun (type : FlitType) (bs : List (Nat × Byte)) (s : State) => putFlit p (answer s f type bs) s
  match f.type with
  | .write => ans .ack [] (f.bytes.foldl (fun s e => putBytes .loc e.1 [e.2] s) (lines.foldl (fun s l => bridgeStamp l s) s))
  | .read => ans .data (f.bytes.map fun e => (e.1, cellGet e.1 s.mem.cells)) (lines.foldl (fun s l => bridgeLoad l s) s)
  | .atomic =>
    let old := f.bytes.map fun e => (e.1, cellGet e.1 s.mem.cells)
    let s := lines.foldl (fun s l => bridgeStamp l (markMixed .loc l s)) s
    ans .data old (f.bytes.foldl (fun s e => let (v, s) := s.draw; putBytes .loc e.1 [v.setWidth 8] s) s)
  | _ => ans .ack [] s

/-- A receiver's context with one more SEQ applied: the base moves past what is applied (R394). -/
def advanceBase : Nat → RecvDc → RecvDc
  | 0, d => d
  | n + 1, d => if d.map.contains d.base then advanceBase n { d with base := (d.base + 1) % seqMod, map := d.map.filter (· != d.base) } else d
def RecvDc.mark (q : Nat) (d : RecvDc) : RecvDc := advanceBase (d.map.length + 1) { d with map := d.map ++ [q] }

/-- Whether every lower SEQ of a context is applied. -/
def RecvDc.ready (d : RecvDc) (f : Flit) : Bool := f.seq == d.base
def sameBytes (f g : Flit) : Bool := f.bytes.any fun e => g.bytes.any fun h => h.1 == e.1

/-- Whether a packet must be held: an OF or DEP packet behind a lower SEQ, or a later one that touches a held OF packet's bytes. -/
def RecvDc.holds (d : RecvDc) (f : Flit) : Bool :=
  ((f.of || f.dep) && !d.ready f) ||
    d.held.any fun g => g.of && g.seq != f.seq && decide (seqAhead f.seq g.seq < seqMod / 2) && sameBytes f g

/-- Apply what a context holds, as far as it may be applied now. -/
def drainHeld (p : Nat) (k : DcKey) : Nat → State → State
  | 0, s => s
  | n + 1, s => match recvDc s k with
    | none => s
    | some d => match d.held.find? fun f => !({ d with held := d.held.filter (·.seq != f.seq) } : RecvDc).holds f with
      | none => s
      | some f => drainHeld p k n (performPacket p f (updRecv k (fun d => ({ d with held := d.held.filter (·.seq != f.seq) } : RecvDc).mark f.seq) s))

/-- A packet reaches its delivery context, which exists. -/
def deliverPacket (p : Nat) (k : DcKey) (f : Flit) (s : State) : State :=
  let s := updRecv k (fun d => { d with last := s.wall }) s
  let s := (s.unschedule (.receiverTeardown k)).schedule (wallDue s s.wall 100) (.receiverTeardown k)
  match recvDc s k with
  | none => s
  | some d =>
    if d.map.contains f.seq || decide (seqMod / 2 ≤ seqAhead f.seq d.base) then putFlit p (answer s f .ack []) s
    else if d.held.any (·.seq == f.seq) then s
    else if d.holds f then updRecv k (fun d => { d with held := d.held ++ [f] }) s
    else drainHeld p k (d.held.length + 1) (performPacket p f (updRecv k (RecvDc.mark f.seq) s))

/-- A REQ packet (R396): a SEQ 0 begins an incarnation where nothing is left to apply; another SEQ needs its context. -/
def receiveReq (p : Nat) (f : Flit) (s : State) : State :=
  let k := flitKey f
  let new := fun (s : State) => s.setLink { s.link with recv := s.link.recv.filter (·.key ≠ k) ++ [⟨k, 0, [], [], s.wall⟩] }
  match recvDc s k with
  | none => if f.seq = 0 then deliverPacket p k f (new s) else s.setLink { s.link with dropped := s.link.dropped + 1 }
  | some d =>
    if f.seq = 0 && d.map.isEmpty && d.held.isEmpty then deliverPacket p k f (new s) else deliverPacket p k f s

/-! ### Answers, invalidations, claim messages (R397, R402, R392) -/

/-- An answer to a request of this package. What it says of the line is the home's. -/
def answered (f : Flit) (r : FabReq) (s : State) : State :=
  let s := if r.applied || r.typ = .host then s
    else
      let s := if r.acc.kind = .store then s else f.bytes.foldl (fun s e => putBytes r.typ (r.line / 2 ^ 52 * 2 ^ 52 + e.1 % 2 ^ 52) [e.2] s) s
      homePerform r (updFab r.id (fun r => { r with atHome := true, applied := true }) s)
  replyFab r.id s

/-- Whether an acknowledgement's base and bitmap say that a store of its context is applied (R394). -/
def covers (f : Flit) (r : FabReq) : Bool :=
  r.acc.kind = .store && r.typ ≠ .host && !r.gone && decide (r.tag < maxTags) && decide (r.key = ⟨f.dstpkg, f.srcpkg, f.owner, f.tc⟩)
    && (seqBefore r.seq f.base || f.map.contains r.seq)

/-- An answer completes the request whose TAG and GEN it carries, and no other (R397); an acknowledgement, the other stores of the context too
that its base and bitmap cover. -/
def receiveRsp (f : Flit) (s : State) : State :=
  match s.mem.fabs.find? fun r => r.id == f.req && r.tag == f.tag && r.gen == f.gen && !r.gone with
  | none => s.updOwner (s.ctx f.ctx).latched.owner fun o => { o with stale := min 0xFFFF (o.stale + 1) }
  | some r =>
    let also := if f.type = .ack then s.mem.fabs.filter fun q => q.id != r.id && covers f q else []
    also.foldl (fun s q => answered f q s) (answered f r s)

/-- An invalidation removes its line from every L1 and L2 before it is acknowledged (R402). -/
def receiveFwd (p : Nat) (f : Flit) (s : State) : State :=
  let lines := (f.bytes.map fun e => lineOf e.1).eraseDups
  putFlit p (answer s f .ack []) (dropWhere (fun t pa => t.remote && lines.contains (pa % 2 ^ 52)) (fun _ => false) (fun _ => false) s)

/-- A message of the claim plane arrives where it is addressed to (R346, R392). -/
def receiveClaim (f : Flit) (s : State) : State :=
  match purposeStep s (.claim f.req) with
  | some i => s.scheduleOnce s.now i
  | none => s

/-- A packet that passed a hop's checks; what a pod job's member says is its switch's (R324, R338, R342). -/
def receiveGood (p : Nat) (f : Flit) (s : State) : State :=
  if f.dstpkg ≠ s.link.pkgId then s.setLink { s.link with dropped := s.link.dropped + 1 }
  else match f.pod with
    | some (job, m) => if f.srcpkg = s.link.pkgId then receiveClaim f s else podMember job f.srcpkg m s
    | none => match f.vc with
      | .req => receiveReq p f s
      | .fwd => receiveFwd p f s
      | .rsp => receiveRsp f s
      | .claim => receiveClaim f s

/-- A flit's header is right: the hop acknowledges it and gives its buffer back, and drops a packet that is too old (R389, R392). -/
def takeFlit (p : Nat) (f : Flit) (s : State) : State :=
  if linkOnly f.type then partnerTells p f s
  else
    let s := tellPartner p f .credit (tellPartner p f .hopAck s)
    if f.age > 2048 then updPort p (fun x => { x with aged := x.aged + 1 }) (countError "port aged" p 1 s) else receiveGood p f s

/-- FLIT_RECEIVE (R389). -/
def execFlitReceive (port : Fin 18) (f : Flit) (check : FlitCheck) : State → Out := fun s =>
  onOccasion "FLIT_RECEIVE" ((s.port port).st = .up)
    (match check with
     | .crcError n =>
       let s := countError "port corrected" port 1 s
       if n < 3 then tellPartner port f .hopNack s else degrade port [] s
     | .headerError =>
       let s := countError "port hdrop" port 1 (countError "port uncorrected" port 1 s)
       tellPartner port f .blame (tellPartner port f .credit (tellPartner port f .hopAck (updPort port (fun x => { x with hdrop := x.hdrop + 1 }) s)))
     | .headerCorrected => takeFlit port f (countError "port corrected" port 1 (s.setLink { s.link with corrected := s.link.corrected + 1 }))
     | .good => takeFlit port f s)

/-! ### Teardown (R396) -/

/-- Whether a packet of a context is unacknowledged. -/
def dcUnacked (s : State) (k : DcKey) : Bool := s.mem.fabs.any fun f => f.key = k && f.typ ≠ .host && !f.gone

/-- Whether a sender may tear a context down. -/
def sendIdle (s : State) (d : SendDc) : Bool := usPassed s d.last 50 && !dcUnacked s d.key

/-- SENDER_TEARDOWN (R396). -/
def execSenderTeardown (k : DcKey) : State → Out := fun s =>
  onOccasion "SENDER_TEARDOWN" (s.link.send.any fun d => d.key = k && sendIdle s d)
    (retryPosts (s.setLink { s.link with send := s.link.send.filter (·.key ≠ k) }))

/-- RECEIVER_TEARDOWN (R396). -/
def execReceiverTeardown (k : DcKey) : State → Out := fun s =>
  onOccasion "RECEIVER_TEARDOWN" (s.link.recv.any fun d => d.key = k && usPassed s d.last 100)
    (s.setLink { s.link with recv := s.link.recv.filter (·.key ≠ k) })

end Sys2Proof.Machine
end

