-- ==== Sys2Proof/Machine/Reliability.lean ====
section
/-! DEFINITION. Failures, spares, firmware images, quotes, thermal limits, reset (spec/26_reliability.md R410 to R419). -/

namespace Sys2Proof.Machine

/-! ### The ring of event records (R412) -/

/-- An event record as 32 bytes of EVWIN. -/
def EventRec.bits (e : EventRec) : Nat :=
  e.kind % 2 ^ 4 + e.unit % 2 ^ 32 * 2 ^ 16 + e.mhz % 2 ^ 16 * 2 ^ 48 + e.owners.toNat * 2 ^ 64 + e.cycle % 2 ^ 64 * 2 ^ 128 + e.seq % 2 ^ 64 * 2 ^ 192
/-- The 32 bytes at EVWIN + 32 · n: the latest record whose number is n modulo 256. -/
def evwin (s : State) (n : Nat) : List Byte := leBytes 32 (((s.rel.events.find? fun e => e.seq % 256 == n).map EventRec.bits).getD 0)

/-! ### The lifetime record (R413) -/

/-- Spares of a kind in use among the units for which `p` holds, and repairs that wait to take one. -/
def sparesUsed (s : State) (kind : Nat) (p : Nat → Bool) : Nat :=
  (s.rel.spares.filter fun e => e.1 == kind && p e.2.1).length + (s.rel.repairs.filter fun e => e.1 == kind && p e.2).length

/-- A repair waits for its boundary, unless it waits already. -/
def addRepair (kind unit : Nat) (s : State) : State :=
  if s.rel.repairs.contains (kind, unit) then s else s.setRel { s.rel with repairs := s.rel.repairs ++ [(kind, unit)] }

/-! ### Cores (R411) -/

/-- A die has two spare cores (R410, R11). -/
def spareCore (core : Nat) (s : State) : Bool := decide (sparesUsed s 1 (fun u => dieOf u == dieOf core) < 2)

/-- CORE_ERROR_THRESHOLD (R411): the core's groups are pre-empted, their clusters whole (R278), and the spare takes over once none is resident. -/
def execCoreErrorThreshold (core : Nat) : State → Out := fun s =>
  let s := (countError "core corrected" core 1 s).updCore core fun c => { c with errs := c.errs + 1 }
  if !spareCore core s || underRepair s core then .next s
  else
    let hit := fun (g : Group) => g.resident && (clusterOf s g).any fun h => (h.place.map (·.core)) == some core
    .next (addRepair 1 core (s.setGroups (amend hit (fun g => { g with stop := true }) s.groups)))

/-- CORE_UNCORRECTABLE_FAILURE (R411): every resident group ends as after a double trap. -/
def execCoreUncorrectableFailure (core : Nat) : State → Out := fun s =>
  let s := countError "core uncorrected" core 1 s
  let ids := (coreGroups s core).map fun g => (g.gid, ((g.waves.head?.bind (·.issueAddr)).getD 0))
  let s := ids.foldl (fun s e => doubleTrap ⟨e.1, 0⟩ eccUncorr 0 false ⟨e.2, false, 0⟩ s) s
  .next (if spareCore core s then addRepair 1 core s else s)

/-! ### HBM and L2 (R410, R193) -/

/-- A row as the unit of a repair: its stack and channel in the low ten bits. -/
def rowUnit (stack chan bank row : Nat) : Nat := chanUnit stack chan + 1024 * (bank + 65536 * row)

/-- An error of a channel counts for it and for its stack (R413): corrected where a row's remap mends it, uncorrected where the channel is
lost (LOG 21). -/
def countChan (kind : String) (stack chan : Nat) (s : State) : State :=
  countError ("channel " ++ kind) (chanUnit stack chan) 1 (countError ("stack " ++ kind) stack 1 s)

/-- HBM_ROW_REMAP (R410): 64 spare rows per bank. -/
def execHbmRowRemap (stack chan bank row : Nat) : State → Out := fun s =>
  let s := countChan "corrected" stack chan s
  let same := fun u => u % (1024 * 65536) == rowUnit stack chan bank 0
  .next (if sparesUsed s 3 same < 64 then addRepair 3 (rowUnit stack chan bank row) s else s)

/-- HBM_CHANNEL_SPARE (R410): one spare channel per stack. -/
def execHbmChannelSpare (stack chan : Nat) : State → Out := fun s =>
  let s := countChan "uncorrected" stack chan s
  .next (if sparesUsed s 4 (fun u => u / 32 == stack) < 1 then addRepair 4 (chanUnit stack chan) s else s)

/-- L2_WAY_DISABLE (R410, R193). -/
def execL2WayDisable (die slice way : Nat) : State → Out := fun s =>
  let s := countError "slice uncorrected" (32 * die + slice) 1 s
  .next (if s.mem.l2ways.contains (die, slice, way) then s else addRepair 5 (wayUnit die slice way) s)

/-! ### Firmware and quotes (R415, R417) -/

/-- What an image's signature covers: the digest of its bytes, and its version. -/
def imageMessage (img : FirmwareImage) : List Byte := Config.sha3 img.bytes ++ leBytes 4 img.version.toNat
def imageOk (s : State) (img : FirmwareImage) : Bool :=
  Config.mldsaVerify s.rel.wilroth (imageMessage img) img.sig && decide (s.rel.rollback.toNat ≤ img.version.toNat)

/-- The image that a hub controller runs (R8), if any. -/
def imageOf (s : State) (ctl : Nat) : Option FirmwareImage := s.rel.images.find? (·.ctl.val == ctl)

/-- FIRMWARE_IMAGE_LOAD (R415): the hub controller that the image is for keeps its previous one when the image fails. -/
def execFirmwareImageLoad (img : FirmwareImage) : State → Out := fun s =>
  .next (if imageOk s img then s.setRel { s.rel with images := img :: s.rel.images.filter (·.ctl != img.ctl) } else s)

/-- GATEAUD of a policy (R256). -/
def gateAud (p : Policy) : Nat := p.relcnt + p.bytecnt % 2 ^ 64 * 2 ^ 64 + p.denycnt % 2 ^ 32 * 2 ^ 128 + p.reason % 256 * 2 ^ 160 + p.lastowner % 8 * 2 ^ 168
/-- A valid policy's body with its audit block. -/
def policyBytes (p : Nat × Policy) : List Byte := if p.2.valid then leBytes 1 p.1 ++ p.2.body ++ leBytes 32 (gateAud p.2) else []

/-- What a quote covers, in R417's order. -/
def quoteBytes (s : State) (nonce : List Byte) : List Byte :=
  nonce ++ (List.range 8).flatMap (fun k => ((imageOf s k).map imageMessage).getD []) ++ s.rota.live.flatMap (fun t => leBytes 8 t.toNat) ++ s.gate.pols.flatMap policyBytes
    ++ s.rel.spares.flatMap (fun e => leBytes 1 e.1 ++ leBytes 8 e.2.1 ++ leBytes 2 e.2.2) ++ leBytes 2 s.clk.mhz

/-- ATTESTATION_QUOTE (R417): over a nonce of 32 B. -/
def execAttestationQuote (nonce : List (BitVec 8)) : State → Out := fun s =>
  onOccasion "ATTESTATION_QUOTE" (nonce.length = 32)
    (s.setRel { s.rel with quote := Config.mldsaSign s.rel.idkey (Config.sha3 (quoteBytes s nonce)) })

/-! ### Thermal limits (R418) -/

/-- THERMAL_TRIP (R418): the lowest step is due at the next boundary. -/
def execThermalTrip (_die : Nat) : State → Out := fun s => .next (s.setClk { s.clk with trip := true })

/-- THERMAL_SHUTDOWN (R418): the package clock stops, and the lifetime record is written. -/
def execThermalShutdown (_die : Nat) : State → Out := fun s =>
  .next ((s.setClk { s.clk with stopped := true }).setRel { s.rel with shutdowns := s.rel.shutdowns ++ [s.now] })

/-! ### Reset (R413, R419) -/

/-- RESET (R419): the boot ROM verifies the firmware, and an image that fails does not run (R415). Then the reset state, with the non-volatile
store, what stands outside the package, and the count of free values; L2 ways that the lifetime record names stay disabled. -/
def execReset : State → Out := fun s =>
  let r := s.rel
  let z := State.reset
  .next { z with
    free := s.free, lxas := s.lxas
    link := { z.link with pkgId := s.link.pkgId }
    rel := { r with events := [], seq := 0, repairs := [], moves := [], images := r.images.filter (imageOk s), secs := 0 }
    mem := { z.mem with
      remote := s.mem.remote, host := s.mem.host, reads := s.mem.reads, nextId := s.mem.nextId, l2ways := s.mem.l2ways } }

end Sys2Proof.Machine
end

