-- ==== Sys2Proof/Machine/Debugger.lean ====
section
/-! DEFINITION. The debugger's commands, breakpoints, captures and records (spec/10_prog_owner_sum.md R207 to R209;
spec/18_prog_pattern_search.md R341; spec/20_prog_claim_elect.md R359; spec/22_prog_matrix_preempt.md R385;
spec/24_prog_message_pass.md R407, R408; spec/25_prog_hyper_recall.md R409). -/

namespace Sys2Proof.Machine

/-! ### Text -/

def hexDigit (n : Nat) : Char := ['0', '1', '2', '3', '4', '5', '6', '7', '8', '9', 'A', 'B', 'C', 'D', 'E', 'F'].getD (n % 16) '0'
/-- A value of n digits, the leading group whole when n is a multiple of four. -/
def hex (n v : Nat) : String :=
  let ds := (List.range n).map fun k => hexDigit (v / 16 ^ (n - 1 - k))
  "0x" ++ String.ofList ((ds.zipIdx.map fun e => if e.2 != 0 && (n - e.2) % 4 = 0 then ['_', e.1] else [e.1]).flatten)
def words32 (l : List Word) : String := String.intercalate "  " (l.map fun w => hex 8 w.toNat)

/-! ### What is attached (R208, R341, R407) -/

def attachedTo (s : State) (pkg : Nat) : Option Nat := (s.dbg.attach.find? (·.1 == pkg)).map (·.2)
/-- The context of this package that is attached. -/
def attachedHere (s : State) : Option Nat := attachedTo s s.link.pkgId
/-- A command acts on the selected package: on this machine when that is this one, else on another machine. -/
def whenHere (s : State) (t : State) : State := if s.dbg.sel = s.link.pkgId then t else s
def say (l : List String) (s : State) : State := s.setDbg { s.dbg with out := l }

def ctxOwner (s : State) (c : Nat) : Nat := (s.ctx c).latched.owner

/-! ### Captures and stops (R208, R341) -/

/-- A wave as the debugger shows it. -/
def captureOf (s : State) (r : WaveRef) : Option Capture :=
  match s.group? r.gid with
  | none => none
  | some g => (g.waves[r.wave]?).map fun w =>
      { cycle := s.now, gid := g.gid, lin := g.lin, wave := r.wave, core := ((g.place <|> g.former).map (·.core)).getD 0
        pc := w.issueAddr.getD 0, w, h := g.h, a := g.a, ocyc := g.ocycAt s.now
        start := ((s.kernel? g.kernel).map fun (k : Kernel) => k.start).getD 0, nums := [] }

/-- Whether a wave is one of a context's. -/
def waveIn (s : State) (c : Nat) (r : WaveRef) : Bool := (s.group? r.gid).any (·.ctx == c)

/-- The capture that commands show: the current one of a TIMED owner's run, or the wave of the attached context's latest stop. -/
def shown (s : State) : Option Capture :=
  match attachedHere s with
  | none => none
  | some c => if s.timed (ctxOwner s c) then s.dbg.caps[s.dbg.cur]? else (s.dbg.stop.find? (waveIn s c)).bind (captureOf s)

/-- Whether a breakpoint stands at the instruction that a wave is about to issue. -/
def marked (s : State) (c : Cur) : Bool := attachedHere s == some c.g.ctx && s.dbg.breaks.contains (s.link.pkgId, c.pc) && !c.res

/-- What a breakpoint does before its instruction issues: a capture, or a stop of the group (then the instruction does not issue). -/
def atMark (c : Cur) (s : State) : Bool × State :=
  if !marked s c then (true, s)
  else if s.timed c.g.owner then
    match captureOf s c.ref with
    | some x =>
      if s.dbg.caps.length < 64 then
        (true, s.setDbg { s.dbg with caps := s.dbg.caps ++ [x] })
      else (true, s.setDbg { s.dbg with drops := s.dbg.drops + 1 })
    | none => (true, s)
  else if !(s.ctx c.g.ctx).latched.debug then (true, s)
  else if s.dbg.passed.contains c.ref then (true, s)
  else
    let s := debugStop c.g c.ref c.pc "MARK" 0 s
    (false, s.setDbg { s.dbg with passed := c.ref :: s.dbg.passed })

/-- After a step of a captured instruction, its issue or a later one: the numbers that its requests took. -/
def closeCapture (c : Cur) (old s : State) : State :=
  let issued := if c.res then c.w.lastIss else old.now
  let mine := fun (x : Capture) => x.gid == c.ref.gid && x.wave == c.ref.wave && x.cycle == issued
  if old.mem.nextId = s.mem.nextId then s
  else s.setDbg { s.dbg with caps := amend mine (fun x => { x with nums := x.nums ++ [(old.mem.nextId, s.mem.nextId)] }) s.dbg.caps }

/-- A wave has left the word of its mark once its instruction has neither a wait nor a part still to come: at a restore within it, it stands
behind the BKPT (R341). -/
def leaveMark (c : Cur) (s : State) : State :=
  let within := (s.wave? c.ref).any fun w => match w.status with
    | .waiting .. => true
    | .parked (.again _) => true
    | .parked .issue => true
    | _ => false
  if within then s else s.setDbg { s.dbg with passed := s.dbg.passed.filter (· ≠ c.ref) }

/-- `step n`: once the wave has issued n instructions, it parks behind the last and its group is saved again. -/
def countStep (c : Cur) (s : State) : State :=
  match c.g.stepLeft with
  | none => s
  | some (wave, n) =>
    if wave ≠ c.ref.wave then s
    else if n ≤ 1 then
      let s := s.updWave c.ref fun w => if w.status = .running then { w with status := .parked .next } else w
      let s := stopCluster c.g (s.updGroup c.ref.gid fun g => { g with stepLeft := none, debug := true })
      s.setDbg { s.dbg with stop := c.ref :: s.dbg.stop.filter (· ≠ c.ref) }
    else s.updGroup c.ref.gid fun g => { g with stepLeft := some (wave, n - 1) }

/-- After an issue: an instruction that waits for room in the return buffer (R55) has not issued, and was not at its mark. -/
def afterIssue (c : Cur) (old s : State) : State :=
  if (s.wave? c.ref).any (·.status = .parked .issue) then s.setDbg old.dbg else leaveMark c (countStep c (closeCapture c old s))

/-! ### Records of a step (R385, R408) -/

/-- The entry of a liveness table that covers a word: FIRST, LEN, MASK. Adjacent words with equal masks share one (R83). -/
def liveEntry (l : List (Nat × BitVec 64)) (i : Nat) : Option (Nat × Nat × BitVec 64) :=
  (l.find? (·.1 == i)).map fun e =>
    let same := fun (k : Nat) => (l.find? (·.1 == k)).any (·.2 == e.2)
    let first := i - (((List.range i).reverse).takeWhile same).length
    (first, (((List.range (2048 - first)).map (first + ·)).takeWhile same).length, e.2)

/-- What a save or restore of a group is recorded as: the PCs, the liveness entries used, the registers saved, the MMAs' positions. -/
def saveText (s : State) (g : Group) : String :=
  let table := fun (p : Nat) => ((g.place.map fun q => ((s.core q.core).slot (p / 2048)).live).getD [])
  let entry := fun (p : Nat) => match liveEntry (table p) (p % 2048) with
    | some (f, n, m) => " liveness FIRST " ++ hex 2 f ++ " LEN " ++ toString n ++ " MASK " ++ hex 16 m.toNat
    | none => ""
  let wave := fun (e : Wave × Nat) =>
    let regs := (List.range 64).filter fun n => (liveRegs s g e.1).getLsbD n && decide (n < g.vdecl)
    let pcs := (e.1.liveLanes.map e.1.pcAt).eraseDups
    "wave " ++ toString e.2 ++ " pcv " ++ String.intercalate " " (pcs.map fun p => hex 4 p) ++ String.join (pcs.map entry)
      ++ " saved " ++ String.intercalate " " (regs.map fun n => "v" ++ toString n)
  let mma := fun (m : Mma) => if m.gid == g.gid then "MMA" ++ rowsText m else ""
  "group " ++ toString g.lin ++ " frame " ++ toString g.frameNo ++ " " ++ String.intercalate " " (g.waves.zipIdx.map wave)
    ++ String.join (s.eng.mmas.map mma)

/-- Saves and restores of the attached context that a step completed. -/
def watchSaves (old s : State) : State :=
  match attachedHere s with
  | none => s
  | some c =>
    if !s.dbg.watch then s
    else old.groups.foldl (fun s g =>
      if g.ctx != c then s
      else match s.group? g.gid with
        | none => s
        | some h =>
          let note := fun (t : String) (s : State) => s.setDbg { s.dbg with elog := (s.now, toString g.lin ++ " " ++ t) :: s.dbg.elog }
          if g.st = .saving && h.st = .saved then
            note "save complete" (s.setDbg { s.dbg with saves := s.dbg.saves ++ ["save " ++ saveText old g] })
          else if g.st = .restoring && h.st = .running then note ("restore complete " ++ saveText s h) s
          else s) s

/-- The cycle of a fabric record: pod cycles from the start of the group (R408), which the record keeps. -/
def groupCycle (s : State) (gid : Nat) : Nat :=
  s.now - (((s.held? gid).map (·.begun)) <|> ((s.dbg.starts.find? (·.1 == gid)).map (·.2))).getD 0
def keepStart (gid : Nat) (s : State) : State :=
  match s.held? gid with
  | some g => s.setDbg { s.dbg with starts := enter gid g.begun s.dbg.starts }
  | none => s

/-- Stores to PEER and POD pages that a step posted or acknowledged. -/
def watchStores (old s : State) : State :=
  match attachedHere s with
  | none => s
  | some c =>
    if !s.dbg.fwatch.contains s.link.pkgId then s
    else
      let mine := fun (f : FabReq) => f.ctx == c && f.typ.remote && f.acc.kind = .store
      let text := fun (k : String) (f : FabReq) =>
        "SEQ " ++ toString f.seq ++ " path " ++ toString f.path ++ (if f.acc.of then " OF " else " ") ++ k
      let posted := s.mem.fabs.filter fun f => mine f && f.started && f.path < 4 && !(old.mem.fabs.any fun g => g.id == f.id && g.started && g.path < 4)
      let acked := old.mem.fabs.filter fun f => mine f && !f.gone && s.mem.fabs.all fun g => g.id != f.id || (g.gone && g.back && !f.back)
      let add := fun (k : String) (s : State) (f : FabReq) =>
        let s := keepStart f.w.gid s
        s.setDbg { s.dbg with flog := (groupCycle s f.w.gid, text k f) :: s.dbg.flog }
      acked.foldl (add "acknowledged") (posted.foldl (add "posted") s)

/-- A FENCE or FENCEA of the attached context: its issue, and the end of its wait. -/
def watchFence (i : Instr) (c : Cur) (s : State) : State :=
  let name : Option String := match i with
    | .fence .. => some "FENCE"
    | .fencea .. => some "FENCEA"
    | _ => none
  match name with
  | none => s
  | some n =>
    if attachedHere s != some c.g.ctx || !s.dbg.fwatch.contains s.link.pkgId then s
    else
      let waits := (s.wave? c.ref).any fun w => match w.status with
        | .waiting .. => true
        | _ => false
      let at_ := groupCycle s c.ref.gid
      let e := (if c.res then [] else [(at_, n ++ " issued")]) ++ if waits then [] else [(at_, n ++ " wait ended")]
      s.setDbg { s.dbg with flog := e.reverse ++ s.dbg.flog }

/-- The start of the first kernel that a run names (R385). -/
def watchStart (s : State) : State :=
  match s.dbg.first, s.dbg.base with
  | some (i, q, n), none => match s.hub.kernels.find? fun k => k.aqi == i && k.q == q && k.index == n && k.st = .running with
    | some k => s.setDbg { s.dbg with base := some k.start }
    | none => s
  | _, _ => s

/-- What the debugger records of a step; without an attached context, nothing. -/
def watchStep (old s : State) : State :=
  if s.dbg.attach.isEmpty then s else watchStart (watchStores old (watchSaves old s))

/-! ### attach, select, break (R208, R341, R407) -/

def attachText (s : State) (pkg c : Nat) : String :=
  let x := s.ctx c
  let o := x.latched.owner
  let t := s.timed o
  "package " ++ toString pkg ++ "  context " ++ toString c ++ "  PASID " ++ hex 4 x.latched.pasid ++ "  owner " ++ toString o
    ++ (if t then "  TIMED" else "  ELASTIC") ++ "  tenant slot " ++ toString x.latched.tenant
    ++ (if t then "  REPEPOCH " ++ toString (((s.owner? o).map fun y => y.repepoch.toNat).getD 0) else "  DEBUG " ++ (if x.latched.debug then "1" else "0"))

/-- LXDB_ATTACH (R407). -/
def execLxdbAttach (pkg : Nat) (ctx : Fin 1024) : State → Out := fun s =>
  let sel := if s.dbg.attach.isEmpty then pkg else s.dbg.sel
  let s := s.setDbg { s.dbg with attach := (pkg, ctx.val) :: s.dbg.attach.filter (·.1 != pkg), sel }
  .next (if pkg = s.link.pkgId then say [attachText s pkg ctx] s else s)

/-- LXDB_SELECT (R407). -/
def execLxdbSelect (pkg : Nat) : State → Out := fun s => .next (s.setDbg { s.dbg with sel := pkg })

/-- LXDB_BREAK (R208, R341): on the package named, else on the selected one (R407). -/
def execLxdbBreak (at_ : Option Nat × BitVec 15) : State → Out := fun s =>
  let b := (at_.1.getD s.dbg.sel, at_.2.toNat)
  .next (s.setDbg { s.dbg with breaks := s.dbg.breaks.filter (· != b) ++ [b] })

/-! ### run (R385, R407) -/

/-- The tool writes one byte of a section at its address in the attached context. -/
def toolPut (c : Nat) (e : Nat × Byte) (s : State) : State :=
  match hubXlat s c e.1 .load with
  | .error _ => s
  | .ok t =>
    let pa := t.pa + (e.1 - t.va)
    match t.typ with
    | .loc => bridgeWrite pa [e.2] s
    | .mmio => s
    | k => putBytes k pa [e.2] (dropLine k (lineOf pa) s)

/-- The lowest interface of a context. -/
def ctxAqi (s : State) (c : Nat) : Nat := ((List.range 64).find? fun i => (s.ctx c).latched.aqimask.getLsbD i).getD 64

/-- Write a launch image to the end of a queue, and notify the new tail. -/
def submit (c : Nat) (l : LxdbLaunch) (s : State) : State :=
  match peek s c l.va 64 with
  | .error _ => s
  | .ok pkt =>
    let i := ctxAqi s c
    let ring : Option (Nat × Nat × Nat) := match (mappedSlot s i l.q).filter (·.known) with
      | some x => some (x.ringbase, x.ringlog, x.tail)
      | none => match peek s c (descVa s i l.q) 32 with
        | .ok b => some (bytesVal b 0 8, bytesVal b 8 1, (((aqiOf s i).pend.find? (·.1 == l.q)).map (·.2.1)).getD (bytesVal b 24 4))
        | .error _ => none
    match ring with
    | none => s
    | some (base, log, tail) =>
      let s := s.setDbg { s.dbg with first := s.dbg.first <|> some (i, l.q, tail) }
      let s := (pkt.zipIdx).foldl (fun s (e : Byte × Nat) => toolPut c (base + 64 * (tail % 2 ^ log) + e.2, e.1) s) s
      match mappedSlot s i l.q with
      | some x => if x.known then notifySlot x.n (tail + 1) (s.ctx c).latched.pasid s else holdPending i l.q ((tail + 1) % 2 ^ 32) s
      | none => holdPending i l.q ((tail + 1) % 2 ^ 32) s

/-- LXDB_RUN (R385, R407): the sections first, on every attached package, then the launch images in their order; a new run has no captures
yet. -/
def execLxdbRun (launches : List LxdbLaunch) : State → Out := fun s =>
  let mine := launches.filter (·.pkg == s.link.pkgId)
  match attachedHere s with
  | none => .next s
  | some c =>
    let s := s.setDbg { s.dbg with caps := [], drops := 0, cur := 0, elog := [], saves := [], flog := [], base := none, first := none, passed := [] }
    let s := launches.foldl (fun s l => l.data.foldl (fun s e => toolPut c e s) s) s
    .next (mine.foldl (fun s l => submit c l s) s)

/-! ### cont and step (R208, R341) -/

/-- The group of a context's latest stop that still stands is restored, through firmware (R276). -/
def resumeStop (c : Nat) (left : Option Nat) (s : State) : State :=
  match s.dbg.stop.find? fun r => waveIn s c r && (s.group? r.gid).any (·.debug) with
  | none => s
  | some r =>
    let s := s.updGroup r.gid fun g => { g with debug := false, stepLeft := left.map (r.wave, ·) }
    placeOpp (((s.group? r.gid).map (·.owner)).getD 0) (s.setDbg { s.dbg with stop := s.dbg.stop.filter (· ≠ r) })

def goOn (n : Nat) (left : Option Nat) (s : State) : State :=
  match attachedHere s with
  | none => s
  | some c =>
    if s.timed (ctxOwner s c) then s.setDbg { s.dbg with cur := min (s.dbg.caps.length - 1) (s.dbg.cur + n) }
    else resumeStop c left s

/-- LXDB_CONT (R208, R341). -/
def execLxdbCont : State → Out := fun s => .next (whenHere s (goOn 1 none s))

/-- LXDB_STEP (R208, R341). -/
def execLxdbStep (n : Nat) : State → Out := fun s => .next (whenHere s (if n = 0 then s else goOn n (some n) s))

/-! ### What is shown of a wave (R208, R359, R409) -/

def showReg (x : Capture) : DbgReg → String
  | .s r => "s" ++ toString r.val ++ " " ++ hex 8 (x.w.sreg r).val.toNat
  | .v r => "v" ++ toString r.val ++ "  " ++ words32 (x.w.vreg r).val
  | .m r => "m" ++ toString r.val ++ " " ++ hex 16 (x.w.mreg r).val.toNat
  | .h r =>
    let h := (x.h.getD r .zero).val
    let w := fun (k : Nat) => (h >>> (32 * k)).setWidth 32
    "h" ++ toString r.val ++ " " ++ hex 8 (w 0).toNat ++ "  " ++ toString ((List.range 256).filter fun k => w k == w 0).length ++ " of 256"
  | .a r =>
    let a := x.a.getD r .zero
    let tie := match a.tie with
      | .zero => "ZERO"
      | .one => "ONE"
      | .reg => "REG"
    "a" ++ toString r.val ++ "  SAT " ++ (if a.sat then "1" else "0") ++ "  TIE " ++ tie ++ "  TR " ++ toString a.tr.val ++ "   c[7..0] "
      ++ String.join ((List.range 8).map fun k => (if a.c.getD (7 - k) 0 < 0 then " " else " +") ++ toString (a.c.getD (7 - k) 0))

def showLabel (x : Capture) : DbgReg → String
  | .s r => "s" ++ toString r.val ++ " " ++ hex 4 (x.w.sreg r).lab.toNat
  | .v r => "v" ++ toString r.val ++ " " ++ hex 4 (x.w.vreg r).lab.toNat
  | .m r => "m" ++ toString r.val ++ " " ++ hex 4 (x.w.mreg r).lab.toNat
  | .h r => "h" ++ toString r.val ++ " " ++ hex 4 (x.h.getD r .zero).lab.toNat
  | .a r => "a" ++ toString r.val ++ " " ++ hex 4 (x.a.getD r .zero).lab.toNat

/-- Print something of what is shown, if anything is. -/
def showing (f : Capture → List String) (s : State) : State :=
  whenHere s (match shown s with
    | some x => say (f x) s
    | none => say [] s)

/-- LXDB_REGS (R208, R409). -/
def execLxdbRegs (rs : List DbgReg) : State → Out := fun s => .next (showing (fun x => rs.map (showReg x)) s)

/-- LXDB_MASK (R208). -/
def execLxdbMask (m : MReg) : State → Out := fun s => .next (showing (fun x => [showReg x (.m m)]) s)

/-- LXDB_PCV (R208): the lanes of each PC, and those that have exited. -/
def execLxdbPcv : State → Out := fun s => .next (showing (fun x =>
  let lanes := fun (l : List Nat) => "lanes " ++ String.intercalate " " (l.map toString) ++ ": "
  ((x.w.liveLanes.map x.w.pcAt).eraseDups.map fun p => lanes (x.w.liveLanes.filter fun l => x.w.pcAt l == p) ++ hex 4 p)
    ++ (if x.w.liveLanes.length = 64 then [] else [lanes ((List.range 64).filter fun l => !x.w.live l) ++ "exited"])) s)

/-- LXDB_LABEL (R208). -/
def execLxdbLabel (rs : List DbgReg) : State → Out := fun s =>
  .next (showing (fun x => rs.map (showLabel x) ++ ["CTXLBL " ++ hex 4 x.w.ctxlbl.toNat]) s)

/-- LXDB_TRAP (R359). -/
def execLxdbTrap : State → Out := fun s => .next (showing (fun x =>
  ["TRAPCAUSE " ++ hex 8 x.w.tcause.toNat, "TRAPPC " ++ hex 4 x.w.tpc.val.toNat, "TRAPADDRL " ++ hex 8 (x.w.taddr.toNat % 2 ^ 32),
   "TRAPADDRH " ++ hex 8 (x.w.taddr.toNat / 2 ^ 32)]) s)

def className : RotaClass → String
  | .mesh => "MESH"
  | .d2d => "D2D"
  | .msc => "MSC"
  | .hbm => "HBM"
  | .copy => "COPY"
  | .fab => "FAB"
  | .host => "HOST"
  | .walk => "WALK"
  | .claim => "CLAIM"

/-- One leg: its class, and the cycles at which it entered, was admitted and was done, as counts from the kernel's start (R359). -/
def legText (x : Capture) (l : LegRec) : String :=
  let at_ := fun (c : Nat) => toString (c - x.start)
  match l.leg with
  | .rota c _ => className c ++ "  entered " ++ at_ l.entered ++ "  slot " ++ toString (l.slot % 256 % (16 * slotWidth c) / slotWidth c)
      ++ "  admitted " ++ at_ l.slot ++ "  done " ++ at_ l.done
  | .hold _ | .turn => ""

/-- LXDB_ROTA_TRACE (R208, R359): the legs of the shown instruction's requests. -/
def execLxdbRotaTrace : State → Out := fun s => .next (showing (fun x =>
  (s.rota.trace.reverse.filter (capturedBy x)).map (legText x)) s)

/-- LXDB_MEM (R208): n words of the attached context's memory. -/
def execLxdbMem (va n : Nat) : State → Out := fun s =>
  .next (whenHere s (match attachedHere s with
    | none => s
    | some c => say ((List.range n).map fun k => match peek s c (va + 4 * k) 4 with
        | .ok b => hex 8 (leVal b)
        | .error _ => "-") s))

/-! ### flush and stress (R207, R209) -/

/-- Firmware writes back and invalidates an owner's L1 ways, L2 slices and MSC ways; translations are kept. -/
def flushOwner (x : Owner) (s : State) : State :=
  let s := flushSlices x.id x.spec.slices s
  let s := s.setCores (s.cores.map fun e => if x.spec.cores.contains e.1 then (e.1, { e.2 with l1 := [] }) else e)
  (s.mem.msc.filter (·.own == x.id)).foldl (fun s e => mscLeave e s) s

/-- LXDB_FLUSH (R209). -/
def execLxdbFlush (o : Fin 8) : State → Out := fun s =>
  match s.owner? o with
  | none => .next (say ["refused"] s)
  | some x => if x.st = .retired || ownerBusyKernels s o then .next (say ["refused"] s)
    else .next (say ["owner " ++ toString o.val ++ ": written back and invalidated"] (flushOwner x s))

/-- LXDB_STRESS (R207). -/
def execLxdbStress (o : Fin 8) (on : Bool) : State → Out := fun s =>
  match s.owner? o with
  | none => .next (say ["refused"] s)
  | some x => if x.timed || x.st = .retired then .next (say ["refused"] s)
    else .next (say ["owner " ++ toString o.val ++ "  ELASTIC  stress pattern " ++ (if on then "running" else "stopped")]
      ((if on then wakeReached x s else s).updOwner o fun x => { x with stress := on }))

/-! ### Engines, claims, fabric, hypervectors, gate (R359, R385, R408, R409) -/

/-- LXDB_WATCH_ENGINE (R385). -/
def execLxdbWatchEngine : State → Out := fun s => .next (whenHere s (s.setDbg { s.dbg with watch := true }))

/-- Lines of a log, oldest first, with cycles counted from some cycle. -/
def linesFrom (base : Nat) (l : List (Nat × String)) : List String := l.reverse.map fun e => toString (e.1 - base) ++ "  " ++ e.2
/-- Lines of a log with cycles counted from the run's first kernel. -/
def logLines (s : State) : List (Nat × String) → List String := linesFrom (s.dbg.base.getD 0)

/-- LXDB_ENGINE_LOG (R385). -/
def execLxdbEngineLog : State → Out := fun s => .next (whenHere s (say (logLines s s.dbg.elog) s))

/-- LXDB_ENGINE_SAVE (R385): record n, from 1. -/
def execLxdbEngineSave (n : Nat) : State → Out := fun s =>
  .next (whenHere s (say ((if n = 0 then none else s.dbg.saves[n - 1]?).toList) s))

def outcomeName (code : Nat) : String := ["UNKNOWN", "COMMITTED", "OBJECTED", "LOST"].getD code ""
def noteName : ClaimNote → String
  | .recorded => "recorded"
  | .late => "late"
  | .void => "void"
/-- An event of the claim home in words; a reply's delivery counts from its admission. -/
def claimText (at_ : Nat → String) (cycle : Nat) : ClaimEvent → String
  | .arrive ticket t val close => "arrive " ++ hex 8 ticket ++ " T " ++ at_ t ++ " value " ++ hex 8 val.toNat ++ (match close with
      | some (c, com) => (if com then "; CONTESTED, C " else "; PROPOSED, C ") ++ at_ c
      | none => "; LOST")
  | .object ticket note => "OBJECT " ++ hex 8 ticket ++ " " ++ noteName note
  | .query ticket held => "CLWAIT " ++ hex 8 ticket ++ (if held then " held" else "")
  | .read core => "CLRD from core " ++ toString core
  | .close outs com => "close: " ++ String.intercalate ", " (outs.map fun o => hex 8 o.1 ++ " " ++ outcomeName o.2)
      ++ (if com then "; COMMITTED" else "; FREE") ++ ", END " ++ at_ cycle
  | .reply core code due => "reply CLWAIT -> core " ++ toString core ++ ", code " ++ toString code ++ ", delivered " ++ at_ (cycle + due)
  | .verdict core ticket note due => "verdict " ++ hex 8 ticket ++ " " ++ noteName note ++ " -> core " ++ toString core ++ ", delivered "
      ++ at_ (cycle + due)
  | .value core due => "reply CLRD -> core " ++ toString core ++ ", delivered " ++ at_ (cycle + due)

/-- LXDB_CLAIM (R359): the log of a kernel slot, of the latest kernel of the attached context that used it. -/
def execLxdbClaim (slot : Nat) : State → Out := fun s =>
  let mine := s.claims.log.filter fun e => attachedHere s == some e.ctx && e.slot == slot
  .next (whenHere s (say (match mine.head? with
    | none => []
    | some x => ("kernel slot " ++ toString slot ++ " = claim-store slot " ++ toString x.store ++ "   window " ++ toString (s.ctx x.ctx).clwin) ::
        linesFrom x.start ((mine.filter (·.kernel == x.kernel)).map fun e =>
          (e.cycle, claimText (fun c => toString (c - x.start)) e.cycle e.event))) s))

/-- LXDB_WATCH_FABRIC (R408). -/
def execLxdbWatchFabric (pkg : Nat) : State → Out := fun s =>
  .next (s.setDbg { s.dbg with fwatch := s.dbg.fwatch.filter (· != pkg) ++ [pkg] })

/-- LXDB_FABRIC_LOG (R408). -/
def execLxdbFabricLog (pkg : Nat) : State → Out := fun s => .next (if pkg = s.link.pkgId then say (linesFrom 0 s.dbg.flog) s else s)

/-- The Seedbank entries of an owner's range (R180): on the die where the wave that is shown runs, or where none is, on that of the owner's
lowest core. -/
def seedShown (s : State) (o : Nat) : List Nat :=
  match s.owner? o with
  | none => []
  | some x =>
    let die := dieOf (((shown s).map (·.core)).getD ((x.spec.cores.min?).getD 0))
    match x.spec.seed.find? (·.1 == die) with
    | some r => (List.range r.2.2).map fun k => die * 16384 + r.2.1 + k
    | none => []

/-- LXDB_SEEDBANK (R409). -/
def execLxdbSeedbank (e n : Nat) : State → Out := fun s =>
  .next (whenHere s (match attachedHere s with
    | none => s
    | some c =>
      say (((seedShown s (ctxOwner s c)).drop e).take n |>.mapIdx fun k a =>
        let x := seedAt s.mem s.now a
        toString (e + k) ++ "  " ++ toString (a % 16384) ++ "  " ++ hex 8 (x.val.setWidth 32).toNat ++ "  " ++ hex 4 x.lab.toNat) s))

/-- LXDB_GATE (R409). -/
def execLxdbGate (pol : Fin 64) : State → Out := fun s =>
  let p := look ⟨List.replicate 64 0, false, 0, 0, 0, 0, 0, []⟩ pol.val s.gate.pols
  .next (whenHere s (
      say ["policy " ++ toString pol.val ++ (if p.valid then "  VALID  " else "  not VALID  ") ++ String.intercalate " " (p.body.map fun b => hex 2 b.toNat),
        "audit  RELCNT " ++ toString p.relcnt ++ "  BYTECNT " ++ toString p.bytecnt ++ "  DENYCNT " ++ toString p.denycnt ++ "  LASTREASON "
          ++ toString p.reason ++ "  LASTOWNER " ++ toString p.lastowner] s))

end Sys2Proof.Machine
end

