-- ==== Sys2Proof/Machine/Sched.lean ====
section
/-! DEFINITION. What stands around the device's steps: fetching an instruction, what follows a step at once, whose turn is next
(spec/03_formats.md R53, R64; spec/07_uniform_flow.md R148, R161; spec/13_context.md R265 to R281; spec/16_group.md R320, R321). -/

namespace Sys2Proof.Machine

/-! ### Fetching (R47, R64, R156) -/

/-- Transfers that may stand at word 2,047 of a slot (R149, R150): JMP, JMPF, RET, EXIT, RTE. -/
def mayEndSlot (w : Nat) : Bool := fld w 31 1 == 1 && [0x12, 0x13, 0x15, 0x17, 0x1D].contains (fld w 24 6)
/-- Relative branches: BR, BRZ, JMP, CALL, VBR. -/
def isBranch (w : Nat) : Bool := fld w 31 1 == 1 && [0x10, 0x11, 0x12, 0x14, 0x16].contains (fld w 24 6)

/-- The cause of a word that is no instruction, in the order of R64; a LIT group must end before word 2,047 (R47). -/
def badWord (priv : Bool) (pc w : Nat) (e : DecErr) : Nat :=
  if (pc % 2048 = 2047 && !mayEndSlot w) || (isLit w && decide (2045 ≤ pc % 2048)) || (isBranch w && (target pc (imm18 w)).isNone) then illegalOp
  else match e with
    | .illegalOp => illegalOp
    | .priv => privOp
    | .reservedIfPriv => if priv then reservedEnc else privOp
    | .reservedEnc => reservedEnc

/-- What stands at a wave's issue address: an instruction, or the cause and address of the trap that it takes instead. A slot that
is neither PRESENT nor HELD gives no instruction: a FAILED one traps with what its load recorded, any other CODE_ABSENT (LOG 33). -/
def fetch (s : State) (c : Cur) : Except (Nat × Nat) Instr :=
  let sl := (s.core c.core).slot (c.pc / 2048)
  match sl.st with
  | .failed => .error (sl.cause, sl.addr)
  | .empty | .loading => .error (codeAbsent, 0)
  | .present | .held =>
    let ws := sl.words.drop (c.pc % 2048)
    match decodeWords ws with
    | .ok (i, _) => .ok i
    | .error e => .error (badWord (privileged s c.g) c.pc (ws.headD 0) e, 0)

/-! ### Waves, as soon as nothing holds them (R53, R267, R277) -/

/-- The waves of groups that run. -/
def runningRefs (s : State) : List WaveRef :=
  s.groups.flatMap fun g => if g.st = .running then (List.range g.waves.length).map fun i => ⟨g.gid, i⟩ else []

/-- A park completes once nothing of the wave is outstanding (R53); trap entry goes on once slot 15 is loaded (R267). -/
def settlePark (r : WaveRef) (s : State) : State :=
  match s.wave? r with
  | none => s
  | some w => match w.status with
    | .parked a => if w.settled then completePark r a s else s
    | .entering cause pc addr defer absorb n => reachHandler r cause pc addr defer absorb n s
    | _ => s

/-- Whether a group's waves are to stop: pre-emption is requested (R277). -/
def stopping (g : Group) : Bool := g.st = .running && g.stop

/-- Instructions whose progress a stop keeps: a BAR's arrival, an atomic that was sent (R277). -/
def keepsPhase : Instr → Bool
  | .bar .. => true
  | .vatom .. => true
  | .vatomb .. => true
  | .vagg .. => true
  | .vcas .. => true
  | .satom .. => true
  | _ => false

def isCwait : Instr → Bool
  | .cwait .. => true
  | _ => false

/-- A CWAIT's read in flight returns to nobody: the wave re-executes the instruction (R383). -/
def quietCwait (r : WaveRef) (s : State) : State :=
  let mine : Purpose → Bool
    | .cwait w _ => w == r
    | _ => false
  let s := setReqs s (amend (fun q => mine q.purpose) (fun q => { q with purpose := .idle }) s.rota.reqs)
  (s.setMem { s.mem with fabs := amend (fun f => mine f.job) (fun f => { f with job := .idle }) s.mem.fabs }).unschedule (.cwaitReadReturn r)

/-- A wave under a pre-emption request stops at a park point, or in a wait once its entries have returned and committed (R277). -/
def settleStop (r : WaveRef) (s : State) : State :=
  match s.group? r.gid, s.wave? r with
  | some g, some w =>
    if !stopping g then s
    else match w.status with
      | .running => if w.entries = 0 then s.updWave r fun w => { w with status := .stopped } else s
      | .waiting _ i =>
        if !w.settled then s
        else
          let s := if w.pend.isEmpty then s else completePark r (.again i) s
          (if isCwait i then quietCwait r s else s).updWave r fun w => match w.status with
            | .waiting _ i => { w with status := .stopped, phase := if keepsPhase i then w.phase else 0 }
            | _ => w
      | _ => s
  | _, _ => s

/-- Whether what a wave waits for has come about. -/
def condMet (s : State) (r : WaveRef) (g : Group) (w : Wave) (core : Nat) : Cond → Bool
  | .untilCycle c => decide (c ≤ s.now)
  | .slotBusy n => !(s.core core).slotLoading n
  | .score lo hi => !scoreHit s core g.gid lo hi
  | .scoreFull need => decide (need ≤ freeScore s core)
  | .copyFull => decide (engineCommands s (quadOf core) g.owner < 64)
  | .kinds k sc acks => !fenceCond s r k sc acks
  | .fabric n dsts => fabricReady s core g.owner 0 n dsts
  | .barrier sc acks => !barWait s r sc acks
  | .arrived b => (barAt s b).broken || !((barAt s b).done || (barAt s b).arr.contains r)
  | .phase b t => w.phase == 2 || (barAt s b).broken || decide ((barAt s b).phase.toNat ≠ t)
  | .nredOut => !nredOut s r
  | .tidPending ts => ts.all fun t => decide ((tidAt s g.ctx core t).st ≠ .pending)
  | .macroBusy m => !macroBusy s core m
  | .mmaFull => decide (queuedMmas s core < 16)
  | .tlb n => !(s.mem.invs.any (·.1 == n))
  | .cwait => decide (2 ≤ w.phase)
  | .gate => !gateOut s r

/-! ### Groups, kernels, owners -/

/-- What a group goes on with by itself (R278, R280, R319, R321). -/
def settleGroup (gid : Nat) (s : State) : State :=
  match s.group? gid with
  | none => s
  | some g => match g.st with
    | .starting =>
      if startReady s g then s.scheduleOnce (if s.timed g.owner && s.now % 256 != 0 then s.clk.boundary else s.now) (.groupStart gid) else s
    | .running =>
      if saveDue s g && !s.timed g.owner then s.scheduleOnce s.now (.groupSave gid)
      else if g.waves.all (·.hasEnded) then
        let s := s.updGroup gid fun g => { g with st := .ending }
        if endReady s g then s.scheduleOnce s.now (.groupEnd gid) else s
      else s
    | .ending => if endReady s g then s.scheduleOnce s.now (.groupEnd gid) else s
    | .saving => if saveReady s g then s.scheduleOnce (switchDone s g.owner false) (.groupSaveComplete gid) else s
    | .restoring =>
      if restoreReady s g then s.scheduleOnce (if s.timed g.owner then boundaryFrom (max s.now g.savedAt) else max s.now g.savedAt) (.groupRestoreComplete gid) else s
    | .saved | .ended => s

/-- A launch whose preloads are done begins its dispatch (R305). -/
def settleKernel (k : Kernel) (s : State) : State :=
  if k.st = .preloading && k.loads.isEmpty then beginDispatch k s
  else if k.st = .draining && !k.barred && (!k.det || k.applied) && !kernelWrites s k.id then s.scheduleOnce s.now (.kernelDrainComplete k.id)
  else s

/-- A compaction ends once its groups are back (R316); a timestamp reset that has stopped the owner takes place once its accesses
are performed (R217). -/
def settleOwner (x : Owner) (s : State) : State :=
  let blocks := s.groups.filter (resetBlocks s x)
  let s := if !(x.reset && x.resetReq) then s
    else if blocks.any (!·.stop) then s.scheduleOnce s.now (.timestampReset (Fin.ofNat 8 x.id))
    else if blocks.isEmpty && !ownerBusy s x.id then s.scheduleOnce (if x.timed then s.clk.boundary else s.now) (.timestampReset (Fin.ofNat 8 x.id))
    else s
  if x.cbusy && !(s.groups.any fun g => g.owner == x.id && g.compact) then placeOpp x.id (s.updOwner x.id fun y => { y with cbusy := false }) else s

/-- Engine commands that an acquire held back (R231, R372, R379). -/
def settleEngines (s : State) : State :=
  let s := overList (fun (m : Mma) s => if m.st = .queued && !m.asked then askRows m.id s else s) s.eng.mmas s
  let s := overList (fun (c : Copy) s =>
    if c.written && !postsOut s c.id c.scope then s.scheduleOnce s.now (.copyChunkComplete c.id) else s) s.eng.copies s
  overList (fun (c : Copy) s => if c.acq && !c.moving then kickCopy c.quad c.owner s else s) s.eng.copies s

/-- Held segment loads whose slot has been left (R156). -/
def settleSlots (s : State) : State :=
  overList (fun (e : Nat × Core) s =>
    overList (fun (x : Slot × Nat) s => if x.1.st = .held then releaseHeld e.1 x.2 s else s) e.2.slots.zipIdx s) s.cores s

/-- Everything that follows a step in its own cycle. -/
def settleAll (s : State) : State :=
  let s := overList settlePark (runningRefs s) s
  let s := overList settleStop (runningRefs s) s
  let s := runInvs (settleEngines (settleSlots (layGhosts (withdrawEnded s))))
  let s := overList settleGroup (s.groups.map (·.gid)) s
  let s := overList settleKernel s.hub.kernels s
  let s := overList settleOwner s.owners s
  overList (fun (d : SendDc) s => if sendIdle s d then s.scheduleOnce s.now (.senderTeardown d.key) else s) s.link.send s

/-! ### Whose turn is next (R39, R161, R320) -/

/-- The first cycle from c on that a wave in some positions may issue in. -/
def issueAt (c : Nat) (pos : List Nat) : Option Nat := ((List.range 16).map (c + ·)).find? fun t => pos.contains (t % 16)

/-- When a wave may issue next, if it may. -/
def issueTime (s : State) (g : Group) (i : Nat) (w : Wave) : Option Nat :=
  match g.place, w.status with
  | some p, .running =>
    if g.st ≠ .running || w.issueAddr.isNone then none
    else if g.det then
      if g.cur = i then issueAt (max s.now (max w.ready (if w.lastIss = 0 then 0 else w.lastIss + 8))) p.pos else none
    else issueAt (max s.now w.ready) ((p.pos[i]?).toList)
  | _, _ => none

/-- When a wave goes on with the instruction in which it waits, if its wait is over or has an end. -/
def resumeTime (s : State) (g : Group) (i : Nat) (w : Wave) : Option Nat :=
  match g.place, w.status with
  | some p, .waiting cond _ =>
    if g.st ≠ .running then none
    else match cond with
      | .untilCycle c => some (max s.now c)
      | _ => if condMet s ⟨g.gid, i⟩ g w p.core cond then some s.now else none
  | _, _ => none

/-- The earliest of some times, the lower core first in one cycle (R29, R379), the first of the list on one core. -/
def earliest {α : Type} (l : List (Nat × Nat × α)) : Option (Nat × Nat × α) :=
  l.foldl (fun b e => match b with
    | none => some e
    | some x => if e.1 < x.1 || (e.1 == x.1 && decide (e.2.1 < x.2.1)) then some e else b) none

def waveTimes (f : Group → Nat → Wave → Option Nat) (s : State) : List (Nat × Nat × WaveRef) :=
  s.groups.flatMap fun g => g.waves.zipIdx.filterMap fun e =>
    (f g e.2 e.1).map fun t => (t, (g.place.map (·.core)).getD 0, ⟨g.gid, e.2⟩)

/-- Whether the super-frame boundary comes before the agenda's next step: a switch that ends there ends first (R38, R44). -/
def boundaryFirst (s : State) : Bool :=
  match s.agenda with
  | [] => true
  | (c, i) :: _ => if s.clk.boundary < c then true else if c < s.clk.boundary then false else match i with
    | .switchEnd _ => false
    | _ => true

/-- The cycle of the next event: a super-frame boundary, or the agenda's next step. -/
def eventTime (s : State) : Nat :=
  max s.now (match s.agenda with
    | [] => s.clk.boundary
    | (c, _) :: _ => min c s.clk.boundary)

def toCycle (c : Nat) (s : State) : State := s.setClk { s.clk with cycle := max s.clk.cycle c }

/-- Instructions that may write scratch. -/
def writesScratch : Instr → Bool
  | .vst .. => true
  | .sst .. => true
  | i => keepsPhase i

/-- Whether a wave waits for the range scoreboard with a write of scratch: what it writes stands from the end of the cycle on (R206). -/
def writesLate (w : Wave) : Bool :=
  match w.status with
  | .waiting (.score ..) i => writesScratch i
  | _ => false

/-- The waves that could move next, each the earliest of its kind: one that goes on in a wait, one that issues, one that goes on with a
write of scratch. In one cycle those of one core move in this order, so that a load of scratch reads the start of the cycle (R206). -/
def movers (s : State) : List (Nat × Nat × Turn) :=
  let first := fun (turn : WaveRef → Turn) (f : Group → Nat → Wave → Option Nat) =>
    ((earliest (waveTimes f s)).map fun e => (e.1, e.2.1, turn e.2.2)).toList
  let resumes := fun (late : Bool) => first .resume fun g i w => if writesLate w = late then resumeTime s g i w else none
  resumes false ++ first .issue (issueTime s) ++ resumes true

/-- Choose who moves next, and go to its cycle: events of a cycle come before its waves. -/
def pickTurn (s : State) : State :=
  let e := eventTime s
  let m : Nat × Turn := match earliest (movers s) with
    | some m => if m.1 < e then (m.1, m.2.2) else (e, .event)
    | none => (e, .event)
  (toCycle m.1 (if s.now < m.1 then layHyper s else s)).setTurn m.2

/-- What follows every step. -/
def settle (s : State) : State := pickTurn (settleAll s)

/-! ### One step -/

/-- The wave whose turn it is takes the trap of a word that is no instruction. -/
def fetchTrap (c : Cur) (f : Nat × Nat) (s : State) : State :=
  takeTrap c.ref f.1 c.pc f.2 0 (s.updWave c.ref fun w => { w with lastIss := s.clk.cycle })

/-- After an instruction's effect: the debugger's records, then what follows every step. -/
def afterInstr (i : Instr) (c : Cur) (old s : State) : State := settle (watchStep old (watchFence i c s))

/-- A wave issues. -/
def stepIssue (ex : Instr → State → Out) (r : WaveRef) (s : State) : Out :=
  match s.curOf r false with
  | none => .next (settle (s.setTurn .event))
  | some c =>
    let m := atMark c s
    if !m.1 then .next (settle m.2)
    else match fetch s c with
      | .error f => .next (settle (fetchTrap c f m.2))
      | .ok i => match ex i m.2 with
        | .next t => .next (afterInstr i c s (afterIssue c s t))
        | o => o

/-- A wave goes on with the instruction in which it waits. -/
def stepResume (ex : Instr → State → Out) (r : WaveRef) (s : State) : Out :=
  match s.curOf r true with
  | none => .next (settle (s.setTurn .event))
  | some c => match c.w.status with
    | .waiting _ i => match ex i s with
      | .next t => .next (afterInstr i c s (leaveMark c (closeCapture c s t)))
      | o => o
    | _ => .next (settle (s.setTurn .event))

/-- An event takes place; a step of the agenda that has no occasion any more is dropped. -/
def stepEvent (ex : Instr → State → Out) (s : State) : Out :=
  let s := toCycle (eventTime s) s
  if boundaryFirst s then
    match ex .superframeBoundary s with
    | .next t => .next (settle (watchStep s t))
    | o => o
  else match s.agenda with
    | [] => .next (settle s)
    | (_, i) :: rest =>
      let s := s.setAgenda rest
      match ex i s with
      | .next t => .next (settle (watchStep s t))
      | .refused (.notEnabled _) => .next (settle s)
      | o => o

/-- After THERMAL_SHUTDOWN only a reset takes place (R418). -/
def stepStopped (ex : Instr → State → Out) (s : State) : Out :=
  if s.agenda.any fun e => e.2 = .reset then ex .reset s else .fault .clockStopped

/-- One step of the machine, given what each instruction does. -/
def advance (ex : Instr → State → Out) (s : State) : Out :=
  if s.clk.stopped then stepStopped ex s
  else match s.turn with
    | .issue r => stepIssue ex r s
    | .resume r => stepResume ex r s
    | .event => stepEvent ex s

/-! ### An instruction placed where the next step fetches (LOG 12) -/

/-- Words replaced from an index on; a shorter list is filled with zeros. -/
def putWords (at_ : Nat) (ws l : List Nat) : List Nat :=
  (l ++ List.replicate (at_ - l.length) 0).take at_ ++ ws ++ l.drop (at_ + ws.length)

/-- A kernel, context and owner under which one wave of a system context runs: what a launch by firmware would have made. -/
def loaderOwner : Owner :=
  { Owner.blank 0 with st := .running, spec := { id := 0, mode := .elastic, cores := [0], slices := [(0, 0)], mscWays := 1, seed := [(0, 0, 16)],
                                                 tlbWays := [(0, 1)], walkPart := 0, s2root := 0 } }
def loaderCtx : Ctx :=
  { Ctx.reset 0 with st := .active, desc := { CtxDesc.reset with system := true, frames := 1 }, latched := { CtxDesc.reset with system := true, frames := 1 } }
def loaderKernel : Kernel :=
  { id := 0, ctx := 0, owner := 0, slot := 0, aqi := 0, q := 0, index := 0, prio := 0, det := false, gridbar := false, xchg := false, c := 1, irq := false
    entry := 0, dx := 1, dy := 1, dz := 1, waves := 1, vregs := 64, hregs := 16, accs := 4, scratch := 0, fifo := 0, args := 0, done := 0, ivec := 0
    tag := 0, arrival := 0, segs := [], st := .running, start := 0, next := 1, left := 1, loads := [], dieSet := none, pkgSet := false, podjob := none
    clbase := none, clslots := 0, detLog := [], applied := false, mixed := false, cause := 0, reason := 0, barred := false }

/-- A running group of one wave on core 0. -/
def loaderGroup (now : Nat) : Group :=
  let g := Group.start loaderKernel 0 0 0 ⟨0, [0], 0, none⟩
  { g with st := .running, counting := some now, waves := g.waves.map fun w => { w with ready := now } }

/-- Core 0 with a slot 0 that the kernel is granted, and a handler in slot 15. -/
def loaderCore (ws : List Nat) : Core :=
  (Core.reset.updSlot 0 fun sl => { sl with st := .present, words := ws, kernel := some 0 }).updSlot 15 fun sl => { sl with st := .present }

/-- Put words where a wave issues next. -/
def putAt (c : Cur) (ws : List Nat) (s : State) : State :=
  s.updCore c.core (·.updSlot (c.pc / 2048) fun sl => { sl with st := .present, words := putWords (c.pc % 2048) ws sl.words })

/-- The loader: the wave whose turn it is finds the words at its issue address; when it is no wave's turn, a wave is loaded. -/
def placeWords (ws : List Nat) (s : State) : State :=
  let cur := match s.turn with
    | .issue r => s.curOf r false
    | _ => none
  match cur with
  | some c => putAt c ws s
  | none =>
    let s := s.setOwners [loaderOwner]
    let s := s.setCtxs [loaderCtx]
    let s := s.setHub { s.hub with kernels := [loaderKernel] }
    let s := s.setGroups [loaderGroup s.now]
    (s.setCores [(0, loaderCore ws)]).setTurn (.issue ⟨0, 0⟩)

end Sys2Proof.Machine
end

