-- ==== Sys2Proof/Machine/VectorFp.lean ====
section
/-! DEFINITION. Floating-point per-lane instructions, conversions, special functions and division (spec/06_vector_ops.md
R120 to R125, R129 to R132). -/

namespace Sys2Proof.Machine

/-! ### Arithmetic (R120, R121) -/

/-- VFADD (R121). -/
def execVfadd (p : Bool) (ty : FpType) (d a b : Reg) (r : Route) : State → Out := vecBF (.vfadd p ty d a b r) p d a b r false (perElem ty fun f x y _ => fAdd f x y)

/-- VFSUB (R121). -/
def execVfsub (p : Bool) (ty : FpType) (d a b : Reg) (r : Route) : State → Out := vecBF (.vfsub p ty d a b r) p d a b r false (perElem ty fun f x y _ => fSub f x y)

/-- VFMUL (R121). -/
def execVfmul (p : Bool) (ty : FpType) (d a b : Reg) (r : Route) : State → Out := vecBF (.vfmul p ty d a b r) p d a b r false (perElem ty fun f x y _ => fMul f x y)

/-- VFMA (R121). -/
def execVfma (p : Bool) (ty : FpType) (d a b : Reg) (r : Route) : State → Out := vecBF (.vfma p ty d a b r) p d a b r true (perElem ty fun f x y z => fFma f false false x y z)

/-- VFNMA (R121). -/
def execVfnma (p : Bool) (ty : FpType) (d a b : Reg) (r : Route) : State → Out := vecBF (.vfnma p ty d a b r) p d a b r true (perElem ty fun f x y z => fFma f true true x y z)

/-- VFMS (R121). -/
def execVfms (p : Bool) (ty : FpType) (d a b : Reg) (r : Route) : State → Out := vecBF (.vfms p ty d a b r) p d a b r true (perElem ty fun f x y z => fFma f false true x y z)

/-- VFNMS (R121). -/
def execVfnms (p : Bool) (ty : FpType) (d a b : Reg) (r : Route) : State → Out := vecBF (.vfnms p ty d a b r) p d a b r true (perElem ty fun f x y z => fFma f true false x y z)

/-- VFMIN (R93). -/
def execVfmin (p : Bool) (ty : FpType) (d a b : Reg) (r : Route) : State → Out := vecB (.vfmin p ty d a b r) p d a b r fun x y => (perElem ty (fun f x y _ => (fMinMax f false x y, 0)) x y 0).1

/-- VFMAX (R93). -/
def execVfmax (p : Bool) (ty : FpType) (d a b : Reg) (r : Route) : State → Out := vecB (.vfmax p ty d a b r) p d a b r fun x y => (perElem ty (fun f x y _ => (fMinMax f true x y, 0)) x y 0).1

/-! ### Single-operand forms (R122) -/

/-- VFABS (R122). -/
def execVfabs (p : Bool) (d b : Reg) (r : Route) : State → Out := vecU (.vfabs p d b r) p d b r fun y => nat32 (fAbs y.toNat)

/-- VFNEG (R122). -/
def execVfneg (p : Bool) (d b : Reg) (r : Route) : State → Out := vecU (.vfneg p d b r) p d b r fun y => nat32 (fNeg y.toNat)

/-- VFCLASS (R122). -/
def execVfclass (p : Bool) (d b : Reg) (r : Route) : State → Out := vecU (.vfclass p d b r) p d b r fun y => nat32 (fClass y.toNat)

/-- A value and its flags as a word. -/
def asWord (r : Nat × Flags) : Word × Flags := (nat32 r.1, r.2)

/-- VFRNDN (R122). -/
def execVfrndn (p : Bool) (d b : Reg) (r : Route) : State → Out := vecUF (.vfrndn p d b r) p d b r fun y => asWord (fRound .near y.toNat)

/-- VFRNDZ (R122). -/
def execVfrndz (p : Bool) (d b : Reg) (r : Route) : State → Out := vecUF (.vfrndz p d b r) p d b r fun y => asWord (fRound .zero y.toNat)

/-- VFRNDD (R122). -/
def execVfrndd (p : Bool) (d b : Reg) (r : Route) : State → Out := vecUF (.vfrndd p d b r) p d b r fun y => asWord (fRound .down y.toNat)

/-- VFRNDU (R122). -/
def execVfrndu (p : Bool) (d b : Reg) (r : Route) : State → Out := vecUF (.vfrndu p d b r) p d b r fun y => asWord (fRound .up y.toNat)

/-! ### Conversions (R123 to R125) -/

/-- VCVT.F2H and .F2B: two F32 values into the elements of one lane. -/
def pack2 (f : Fmt) (x y : Word) : Word × Flags :=
  let (e0, f0) := fNarrow f x.toNat
  let (e1, f1) := fNarrow f y.toNat
  (nat32 (e0 + e1 * 2 ^ 16), f0 ||| f1)

/-- VCVT (R123). -/
def execVcvt (p : Bool) (f : CvtForm) (d a : Reg) : State → Out := match f with
  | .f2i => vecAF (.vcvt p f d a) p d a fun x => fToInt .near x.toNat
  | .f2iz => vecAF (.vcvt p f d a) p d a fun x => fToInt .zero x.toNat
  | .i2f => vecAF (.vcvt p f d a) p d a fun x => asWord (intToF x.toInt)
  | .n2f => vecAF (.vcvt p f d a) p d a fun x => asWord (intToF x.toNat)
  | .f2h b r => vecBF (.vcvt p f d a) p d a b r false fun x y _ => pack2 f16 x y
  | .h2f hi => vecA (.vcvt p f d a) p d a fun x => nat32 (fWiden f16 (halfAt x hi).toNat)
  | .f2b b r => vecBF (.vcvt p f d a) p d a b r false fun x y _ => pack2 bf16 x y
  | .b2f hi => vecA (.vcvt p f d a) p d a fun x => nat32 (fWiden bf16 (halfAt x hi).toNat)

/-- VPKT (R124). -/
def execVpkt (p : Bool) (f : Tapered) (byte : Fin 4) (d a : Reg) : State → Out := issueW (.vpkt p f byte d a) { p, vs := [d, a] } fun c =>
  writeVF c d true (fun l =>
    let (b, fl) := roundLT f (decodeF f32 (c.w.lane a l).toNat)
    (setBits (c.w.lane d l) (8 * byte) 8 b, fl)) (vlab c.w a ||| vlab c.w d)

/-- VUPKT (R125). -/
def execVupkt (p : Bool) (f : Tapered) (byte : Fin 4) (d a : Reg) : State → Out := vecA (.vupkt p f byte d a) p d a fun x => nat32 (decodeLT f (byteAt x byte).toNat)

/-! ### Special functions and division (R129 to R132) -/

/-- A long-latency F32 operation of the SFU: the lanes' results return `lat` cycles after issue, and the flags rise at the
commit. -/
def sfuOp (i : Instr) (p : Bool) (vs : List Nat) (d : Reg) (lat : Nat) (f : Wave → Nat → Word × Flags) (lab : Wave → Label) :
    State → Out :=
  issue i { p, vs, entry := true, sfu := true } fun c s =>
    let l := lab c.w ||| c.w.ctxlbl
    .done (pushTimed c lat { Pend.blank "SFU" with
      sfu := true
      ws := [RegWrite.lanes d c.act (fun k => (f c.w k).1) l]
      flags := laneFlags c.act (fun k => (f c.w k).2)
      flab := l } s)

def sfuU (i : Instr) (p : Bool) (fn : Nat) (d b : Reg) (r : Route) : State → Out :=
  sfuOp i p [d, b] d 40 (fun w l => asWord (sfu fn (routed w b r l).toNat)) (fun w => vlab w b ||| routeLab w r)

/-- VRCP (R130). -/
def execVrcp (p : Bool) (d b : Reg) (r : Route) : State → Out := sfuU (.vrcp p d b r) p 0 d b r

/-- VRSQ (R130). -/
def execVrsq (p : Bool) (d b : Reg) (r : Route) : State → Out := sfuU (.vrsq p d b r) p 1 d b r

/-- VSQRT (R130). -/
def execVsqrt (p : Bool) (d b : Reg) (r : Route) : State → Out := sfuU (.vsqrt p d b r) p 2 d b r

/-- VEXP2 (R130). -/
def execVexp2 (p : Bool) (d b : Reg) (r : Route) : State → Out := sfuU (.vexp2 p d b r) p 3 d b r

/-- VLOG2 (R130). -/
def execVlog2 (p : Bool) (d b : Reg) (r : Route) : State → Out := sfuU (.vlog2 p d b r) p 4 d b r

/-- VSIN (R130). -/
def execVsin (p : Bool) (d b : Reg) (r : Route) : State → Out := sfuU (.vsin p d b r) p 5 d b r

/-- VCOS (R130). -/
def execVcos (p : Bool) (d b : Reg) (r : Route) : State → Out := sfuU (.vcos p d b r) p 6 d b r

/-- VTANH (R130). -/
def execVtanh (p : Bool) (d b : Reg) (r : Route) : State → Out := sfuU (.vtanh p d b r) p 7 d b r

/-- VFDIV (R132). -/
def execVfdiv (p : Bool) (d a b : Reg) (r : Route) : State → Out := sfuOp (.vfdiv p d a b r) p [d, a, b] d 64 (fun w l => asWord (fDiv (w.lane a l).toNat (routed w b r l).toNat))
  (fun w => vlab w a ||| vlab w b ||| routeLab w r)

end Sys2Proof.Machine
end

