-- ==== Sys2Proof/Machine/Dispatch.lean ====
section
/-! DEFINITION. Each instruction's meaning: one arm per constructor of Instr, each one direct call of its definition. -/

namespace Sys2Proof.Machine

/-- The meaning of an instruction or step. -/
def exec (i : Instr) (s : State) : Host.Outcome State Fault Refusal :=
  match i with
  | .vadd p d a b r => Sys2Proof.Machine.execVadd p d a b r s
  | .vsub p d a b r => Sys2Proof.Machine.execVsub p d a b r s
  | .vadds p d a b r => Sys2Proof.Machine.execVadds p d a b r s
  | .vsubs p d a b r => Sys2Proof.Machine.execVsubs p d a b r s
  | .vaddsn p d a b r => Sys2Proof.Machine.execVaddsn p d a b r s
  | .vsubsn p d a b r => Sys2Proof.Machine.execVsubsn p d a b r s
  | .vabsd p d a b r => Sys2Proof.Machine.execVabsd p d a b r s
  | .vmul p d a b r => Sys2Proof.Machine.execVmul p d a b r s
  | .vmulh p d a b r => Sys2Proof.Machine.execVmulh p d a b r s
  | .vmulhn p d a b r => Sys2Proof.Machine.execVmulhn p d a b r s
  | .vmad p d a b r => Sys2Proof.Machine.execVmad p d a b r s
  | .vdot4 p d a b r => Sys2Proof.Machine.execVdot4 p d a b r s
  | .vdot4n p d a b r => Sys2Proof.Machine.execVdot4n p d a b r s
  | .vmin p d a b r => Sys2Proof.Machine.execVmin p d a b r s
  | .vmax p d a b r => Sys2Proof.Machine.execVmax p d a b r s
  | .vminn p d a b r => Sys2Proof.Machine.execVminn p d a b r s
  | .vmaxn p d a b r => Sys2Proof.Machine.execVmaxn p d a b r s
  | .vabs p d b r => Sys2Proof.Machine.execVabs p d b r s
  | .vneg p d b r => Sys2Proof.Machine.execVneg p d b r s
  | .vand p d a b r => Sys2Proof.Machine.execVand p d a b r s
  | .vor p d a b r => Sys2Proof.Machine.execVor p d a b r s
  | .vxor p d a b r => Sys2Proof.Machine.execVxor p d a b r s
  | .vandn p d a b r => Sys2Proof.Machine.execVandn p d a b r s
  | .vnot p d b r => Sys2Proof.Machine.execVnot p d b r s
  | .vmov p d b r => Sys2Proof.Machine.execVmov p d b r s
  | .vpopc p d b r => Sys2Proof.Machine.execVpopc p d b r s
  | .vclz p d b r => Sys2Proof.Machine.execVclz p d b r s
  | .vshl p d a b r => Sys2Proof.Machine.execVshl p d a b r s
  | .vshr p d a b r => Sys2Proof.Machine.execVshr p d a b r s
  | .vsra p d a b r => Sys2Proof.Machine.execVsra p d a b r s
  | .vrotl p d a b r => Sys2Proof.Machine.execVrotl p d a b r s
  | .vbrev p d b r => Sys2Proof.Machine.execVbrev p d b r s
  | .vbcast p d sr => Sys2Proof.Machine.execVbcast p d sr s
  | .vsreg p d n => Sys2Proof.Machine.execVsreg p d n s
  | .vaddi p d a imm => Sys2Proof.Machine.execVaddi p d a imm s
  | .vandi p d a imm => Sys2Proof.Machine.execVandi p d a imm s
  | .vori p d a imm => Sys2Proof.Machine.execVori p d a imm s
  | .vxori p d a imm => Sys2Proof.Machine.execVxori p d a imm s
  | .vshli p d a n => Sys2Proof.Machine.execVshli p d a n s
  | .vshri p d a n => Sys2Proof.Machine.execVshri p d a n s
  | .vsrai p d a n => Sys2Proof.Machine.execVsrai p d a n s
  | .vli p d imm => Sys2Proof.Machine.execVli p d imm s
  | .vfadd p ty d a b r => Sys2Proof.Machine.execVfadd p ty d a b r s
  | .vfsub p ty d a b r => Sys2Proof.Machine.execVfsub p ty d a b r s
  | .vfmul p ty d a b r => Sys2Proof.Machine.execVfmul p ty d a b r s
  | .vfma p ty d a b r => Sys2Proof.Machine.execVfma p ty d a b r s
  | .vfnma p ty d a b r => Sys2Proof.Machine.execVfnma p ty d a b r s
  | .vfms p ty d a b r => Sys2Proof.Machine.execVfms p ty d a b r s
  | .vfnms p ty d a b r => Sys2Proof.Machine.execVfnms p ty d a b r s
  | .vfmin p ty d a b r => Sys2Proof.Machine.execVfmin p ty d a b r s
  | .vfmax p ty d a b r => Sys2Proof.Machine.execVfmax p ty d a b r s
  | .vfabs p d b r => Sys2Proof.Machine.execVfabs p d b r s
  | .vfneg p d b r => Sys2Proof.Machine.execVfneg p d b r s
  | .vfclass p d b r => Sys2Proof.Machine.execVfclass p d b r s
  | .vfrndn p d b r => Sys2Proof.Machine.execVfrndn p d b r s
  | .vfrndz p d b r => Sys2Proof.Machine.execVfrndz p d b r s
  | .vfrndd p d b r => Sys2Proof.Machine.execVfrndd p d b r s
  | .vfrndu p d b r => Sys2Proof.Machine.execVfrndu p d b r s
  | .vcvt p f d a => Sys2Proof.Machine.execVcvt p f d a s
  | .vpkt p f byte d a => Sys2Proof.Machine.execVpkt p f byte d a s
  | .vupkt p f byte d a => Sys2Proof.Machine.execVupkt p f byte d a s
  | .vcvti p f d a => Sys2Proof.Machine.execVcvti p f d a s
  | .vcmpi p c m a b r => Sys2Proof.Machine.execVcmpi p c m a b r s
  | .vcmpf p c m a b r => Sys2Proof.Machine.execVcmpf p c m a b r s
  | .vsel p d a b r k => Sys2Proof.Machine.execVsel p d a b r k s
  | .vrcp p d b r => Sys2Proof.Machine.execVrcp p d b r s
  | .vrsq p d b r => Sys2Proof.Machine.execVrsq p d b r s
  | .vsqrt p d b r => Sys2Proof.Machine.execVsqrt p d b r s
  | .vexp2 p d b r => Sys2Proof.Machine.execVexp2 p d b r s
  | .vlog2 p d b r => Sys2Proof.Machine.execVlog2 p d b r s
  | .vsin p d b r => Sys2Proof.Machine.execVsin p d b r s
  | .vcos p d b r => Sys2Proof.Machine.execVcos p d b r s
  | .vtanh p d b r => Sys2Proof.Machine.execVtanh p d b r s
  | .vrng p f32 d stream => Sys2Proof.Machine.execVrng p f32 d stream s
  | .vfdiv p d a b r => Sys2Proof.Machine.execVfdiv p d a b r s
  | .vcomp p d a k => Sys2Proof.Machine.execVcomp p d a k s
  | .vexpd p d a k => Sys2Proof.Machine.execVexpd p d a k s
  | .vslup p d a sr => Sys2Proof.Machine.execVslup p d a sr s
  | .vsldn p d a sr => Sys2Proof.Machine.execVsldn p d a sr s
  | .vperm p d a b r => Sys2Proof.Machine.execVperm p d a b r s
  | .vscan p op d a => Sys2Proof.Machine.execVscan p op d a s
  | .vmovx p d k imm => Sys2Proof.Machine.execVmovx p d k imm s
  | .vmovxw p d k imm => Sys2Proof.Machine.execVmovxw p d k imm s
  | .vld p t sb vo sz sp nt => Sys2Proof.Machine.execVld p t sb vo sz sp nt s
  | .vst p t sb vo sz sp of nt => Sys2Proof.Machine.execVst p t sb vo sz sp of nt s
  | .xst p t sb vo sz => Sys2Proof.Machine.execXst p t sb vo sz s
  | .vatom p op sc d sb vo => Sys2Proof.Machine.execVatom p op sc d sb vo s
  | .vatomb p op sc d sb vo => Sys2Proof.Machine.execVatomb p op sc d sb vo s
  | .vagg p op sc d sb vo => Sys2Proof.Machine.execVagg p op sc d sb vo s
  | .vcas p sc d sb vo => Sys2Proof.Machine.execVcas p sc d sb vo s
  | .sadd p d a b => Sys2Proof.Machine.execSadd p d a b s
  | .ssub p d a b => Sys2Proof.Machine.execSsub p d a b s
  | .smul p d a b => Sys2Proof.Machine.execSmul p d a b s
  | .smulh p d a b => Sys2Proof.Machine.execSmulh p d a b s
  | .smulhn p d a b => Sys2Proof.Machine.execSmulhn p d a b s
  | .sand p d a b => Sys2Proof.Machine.execSand p d a b s
  | .sor p d a b => Sys2Proof.Machine.execSor p d a b s
  | .sxor p d a b => Sys2Proof.Machine.execSxor p d a b s
  | .sshl p d a b => Sys2Proof.Machine.execSshl p d a b s
  | .sshr p d a b => Sys2Proof.Machine.execSshr p d a b s
  | .ssra p d a b => Sys2Proof.Machine.execSsra p d a b s
  | .smin p d a b => Sys2Proof.Machine.execSmin p d a b s
  | .smax p d a b => Sys2Proof.Machine.execSmax p d a b s
  | .sminn p d a b => Sys2Proof.Machine.execSminn p d a b s
  | .smaxn p d a b => Sys2Proof.Machine.execSmaxn p d a b s
  | .sclz p d a => Sys2Proof.Machine.execSclz p d a s
  | .spopc p d a => Sys2Proof.Machine.execSpopc p d a s
  | .srotl p d a b => Sys2Proof.Machine.execSrotl p d a b s
  | .sset p c d a b => Sys2Proof.Machine.execSset p c d a b s
  | .saddi p d a imm => Sys2Proof.Machine.execSaddi p d a imm s
  | .sandi p d a imm => Sys2Proof.Machine.execSandi p d a imm s
  | .sori p d a imm => Sys2Proof.Machine.execSori p d a imm s
  | .sxori p d a imm => Sys2Proof.Machine.execSxori p d a imm s
  | .sshli p d a n => Sys2Proof.Machine.execSshli p d a n s
  | .sshri p d a n => Sys2Proof.Machine.execSshri p d a n s
  | .ssrai p d a n => Sys2Proof.Machine.execSsrai p d a n s
  | .lit p op d a imm => Sys2Proof.Machine.execLit p op d a imm s
  | .slil p d imm => Sys2Proof.Machine.execSlil p d imm s
  | .slih p d imm => Sys2Proof.Machine.execSlih p d imm s
  | .ssel p d a b c => Sys2Proof.Machine.execSsel p d a b c s
  | .srd p d n => Sys2Proof.Machine.execSrd p d n s
  | .swr p n a => Sys2Proof.Machine.execSwr p n a s
  | .mrdl p d a => Sys2Proof.Machine.execMrdl p d a s
  | .mrdh p d a => Sys2Proof.Machine.execMrdh p d a s
  | .mwr p d a b => Sys2Proof.Machine.execMwr p d a b s
  | .mpop p d a => Sys2Proof.Machine.execMpop p d a s
  | .mffs p d a => Sys2Proof.Machine.execMffs p d a s
  | .mand p d a b => Sys2Proof.Machine.execMand p d a b s
  | .mor p d a b => Sys2Proof.Machine.execMor p d a b s
  | .mxor p d a b => Sys2Proof.Machine.execMxor p d a b s
  | .mnot p d a => Sys2Proof.Machine.execMnot p d a s
  | .vany p d a => Sys2Proof.Machine.execVany p d a s
  | .vall p d a => Sys2Proof.Machine.execVall p d a s
  | .br p sr off => Sys2Proof.Machine.execBr p sr off s
  | .brz p sr off => Sys2Proof.Machine.execBrz p sr off s
  | .jmp p off => Sys2Proof.Machine.execJmp p off s
  | .jmpf p sr slot w8 => Sys2Proof.Machine.execJmpf p sr slot w8 s
  | .call p sr off => Sys2Proof.Machine.execCall p sr off s
  | .ret p sr => Sys2Proof.Machine.execRet p sr s
  | .vbr p k off => Sys2Proof.Machine.execVbr p k off s
  | .exit p => Sys2Proof.Machine.execExit p s
  | .yield p => Sys2Proof.Machine.execYield p s
  | .nop p => Sys2Proof.Machine.execNop p s
  | .cfetch p a b slot => Sys2Proof.Machine.execCfetch p a b slot s
  | .cfwait p slot => Sys2Proof.Machine.execCfwait p slot s
  | .trap p code => Sys2Proof.Machine.execTrap p code s
  | .rte p => Sys2Proof.Machine.execRte p s
  | .bkpt p code => Sys2Proof.Machine.execBkpt p code s
  | .framew p until_ sr => Sys2Proof.Machine.execFramew p until_ sr s
  | .sld p d sb sz sp off => Sys2Proof.Machine.execSld p d sb sz sp off s
  | .sst p d sb sz sp of off => Sys2Proof.Machine.execSst p d sb sz sp of off s
  | .satom p op sc d sb => Sys2Proof.Machine.execSatom p op sc d sb s
  | .fence p sc k => Sys2Proof.Machine.execFence p sc k s
  | .fencea p sc k => Sys2Proof.Machine.execFencea p sc k s
  | .bar p kind lvl n => Sys2Proof.Machine.execBar p kind lvl n s
  | .nred p op d a b => Sys2Proof.Machine.execNred p op d a b s
  | .vred p op d a => Sys2Proof.Machine.execVred p op d a s
  | .claim p d a b => Sys2Proof.Machine.execClaim p d a b s
  | .object p a => Sys2Proof.Machine.execObject p a s
  | .clwait p d a => Sys2Proof.Machine.execClwait p d a s
  | .clrd p d b => Sys2Proof.Machine.execClrd p d b s
  | .tset p a tid => Sys2Proof.Machine.execTset p a tid s
  | .mldb p a m tid => Sys2Proof.Machine.execMldb p a m tid s
  | .mma p a => Sys2Proof.Machine.execMma p a s
  | .mqry p clr d what => Sys2Proof.Machine.execMqry p clr d what s
  | .cpy p a sc rel acq => Sys2Proof.Machine.execCpy p a sc rel acq s
  | .cwait p a b => Sys2Proof.Machine.execCwait p a b s
  | .lnch p a b aqi => Sys2Proof.Machine.execLnch p a b aqi s
  | .release p a b pol len => Sys2Proof.Machine.execRelease p a b pol len s
  | .lblrd p d x => Sys2Proof.Machine.execLblrd p d x s
  | .probe p pa a b => Sys2Proof.Machine.execProbe p pa a b s
  | .tlbinv p k a b => Sys2Proof.Machine.execTlbinv p k a b s
  | .xset p mode k a b => Sys2Proof.Machine.execXset p mode k a b s
  | .vlane p d a b => Sys2Proof.Machine.execVlane p d a b s
  | .rngkey p a => Sys2Proof.Machine.execRngkey p a s
  | .hld p h sr => Sys2Proof.Machine.execHld p h sr s
  | .hst p h sr => Sys2Proof.Machine.execHst p h sr s
  | .hbind p d a b => Sys2Proof.Machine.execHbind p d a b s
  | .hperm p d a sr => Sys2Proof.Machine.execHperm p d a sr s
  | .hcopy p d a => Sys2Proof.Machine.execHcopy p d a s
  | .hbund p k a => Sys2Proof.Machine.execHbund p k a s
  | .hclr p k => Sys2Proof.Machine.execHclr p k s
  | .hthr p k h sr => Sys2Proof.Machine.execHthr p k h sr s
  | .htie p k pol b => Sys2Proof.Machine.execHtie p k pol b s
  | .hsim p a b sr => Sys2Proof.Machine.execHsim p a b sr s
  | .hnear p a sr => Sys2Proof.Machine.execHnear p a sr s
  | .hwr p a sr => Sys2Proof.Machine.execHwr p a sr s
  | .hrd p d sr => Sys2Proof.Machine.execHrd p d sr s
  | .slotStart cls inst => Sys2Proof.Machine.execSlotStart cls inst s
  | .paddedServiceComplete req => Sys2Proof.Machine.execPaddedServiceComplete req s
  | .resultReturn w entry => Sys2Proof.Machine.execResultReturn w entry s
  | .switchEnd o => Sys2Proof.Machine.execSwitchEnd o s
  | .splitWritebackDone core => Sys2Proof.Machine.execSplitWritebackDone core s
  | .storeWriteThrough store => Sys2Proof.Machine.execStoreWriteThrough store s
  | .writeThroughAck store => Sys2Proof.Machine.execWriteThroughAck store s
  | .timestampReset o => Sys2Proof.Machine.execTimestampReset o s
  | .detLogApply kernel => Sys2Proof.Machine.execDetLogApply kernel s
  | .remoteStoreAck store => Sys2Proof.Machine.execRemoteStoreAck store s
  | .homeStoreApply store => Sys2Proof.Machine.execHomeStoreApply store s
  | .pageWalkComplete walk => Sys2Proof.Machine.execPageWalkComplete walk s
  | .releaseComplete rel => Sys2Proof.Machine.execReleaseComplete rel s
  | .groupSave gid => Sys2Proof.Machine.execGroupSave gid s
  | .groupSaveComplete gid => Sys2Proof.Machine.execGroupSaveComplete gid s
  | .groupRestoreComplete gid => Sys2Proof.Machine.execGroupRestoreComplete gid s
  | .tagHoldExpire core tag => Sys2Proof.Machine.execTagHoldExpire core tag s
  | .pendLimitExpire aqi q => Sys2Proof.Machine.execPendLimitExpire aqi q s
  | .packetReadDone slot => Sys2Proof.Machine.execPacketReadDone slot s
  | .dependenceReread slot => Sys2Proof.Machine.execDependenceReread slot s
  | .dependenceReadDone slot => Sys2Proof.Machine.execDependenceReadDone slot s
  | .dispatch o => Sys2Proof.Machine.execDispatch o s
  | .packetCompletion pk => Sys2Proof.Machine.execPacketCompletion pk s
  | .preloadComplete core kernel => Sys2Proof.Machine.execPreloadComplete core kernel s
  | .preloadDeadline core kernel => Sys2Proof.Machine.execPreloadDeadline core kernel s
  | .dispatchEnd kernel => Sys2Proof.Machine.execDispatchEnd kernel s
  | .kernelDrainComplete kernel => Sys2Proof.Machine.execKernelDrainComplete kernel s
  | .lnchComplete lnch => Sys2Proof.Machine.execLnchComplete lnch s
  | .groupPlace o => Sys2Proof.Machine.execGroupPlace o s
  | .groupStart gid => Sys2Proof.Machine.execGroupStart gid s
  | .patienceExpire gid => Sys2Proof.Machine.execPatienceExpire gid s
  | .groupEnd gid => Sys2Proof.Machine.execGroupEnd gid s
  | .barrierRelease b => Sys2Proof.Machine.execBarrierRelease b s
  | .xstPerform x => Sys2Proof.Machine.execXstPerform x s
  | .nredContributionArrive c => Sys2Proof.Machine.execNredContributionArrive c s
  | .nredTimerExpire kernel inst => Sys2Proof.Machine.execNredTimerExpire kernel inst s
  | .proposalArrive m => Sys2Proof.Machine.execProposalArrive m s
  | .objectionArrive m => Sys2Proof.Machine.execObjectionArrive m s
  | .clwaitQueryArrive m => Sys2Proof.Machine.execClwaitQueryArrive m s
  | .clrdReadArrive m => Sys2Proof.Machine.execClrdReadArrive m s
  | .claimClose slot => Sys2Proof.Machine.execClaimClose slot s
  | .objectVerdictArrive m => Sys2Proof.Machine.execObjectVerdictArrive m s
  | .tsetDescriptorDone t => Sys2Proof.Machine.execTsetDescriptorDone t s
  | .mldbLoadComplete l => Sys2Proof.Machine.execMldbLoadComplete l s
  | .mmaStart core => Sys2Proof.Machine.execMmaStart core s
  | .mmaADataArrive mma row => Sys2Proof.Machine.execMmaADataArrive mma row s
  | .mmaStageOpportunity core => Sys2Proof.Machine.execMmaStageOpportunity core s
  | .mmaComplete mma => Sys2Proof.Machine.execMmaComplete mma s
  | .copyChunkComplete copy => Sys2Proof.Machine.execCopyChunkComplete copy s
  | .cwaitReadReturn w => Sys2Proof.Machine.execCwaitReadReturn w s
  | .slotLoadComplete core slot => Sys2Proof.Machine.execSlotLoadComplete core slot s
  | .retransmit pkt => Sys2Proof.Machine.execRetransmit pkt s
  | .senderTeardown k => Sys2Proof.Machine.execSenderTeardown k s
  | .receiverTeardown k => Sys2Proof.Machine.execReceiverTeardown k s
  | .fabricTimeout req => Sys2Proof.Machine.execFabricTimeout req s
  | .roundTripBound req => Sys2Proof.Machine.execRoundTripBound req s
  | .map slot => Sys2Proof.Machine.execMap slot s
  | .registerWrite r v => Sys2Proof.Machine.execRegisterWrite r v s
  | .rotaTblWrite cls v => Sys2Proof.Machine.execRotaTblWrite cls v s
  | .commit repair => Sys2Proof.Machine.execCommit repair s
  | .create o => Sys2Proof.Machine.execCreate o s
  | .ownerModeChange o m => Sys2Proof.Machine.execOwnerModeChange o m s
  | .retire o => Sys2Proof.Machine.execRetire o s
  | .clockStep mhz => Sys2Proof.Machine.execClockStep mhz s
  | .hostSnoop line data => Sys2Proof.Machine.execHostSnoop line data s
  | .hostAccess pa n write => Sys2Proof.Machine.execHostAccess pa n write s
  | .framePoisoned frame => Sys2Proof.Machine.execFramePoisoned frame s
  | .install pol => Sys2Proof.Machine.execInstall pol s
  | .remove pol => Sys2Proof.Machine.execRemove pol s
  | .tenkeyWrite t key => Sys2Proof.Machine.execTenkeyWrite t key s
  | .bind ctx => Sys2Proof.Machine.execBind ctx s
  | .unbind ctx => Sys2Proof.Machine.execUnbind ctx s
  | .revoke ctx => Sys2Proof.Machine.execRevoke ctx s
  | .resume ctx => Sys2Proof.Machine.execResume ctx s
  | .preempt ctx => Sys2Proof.Machine.execPreempt ctx s
  | .replay ctx => Sys2Proof.Machine.execReplay ctx s
  | .deliver ctx => Sys2Proof.Machine.execDeliver ctx s
  | .notify aqi offset width v pasid => Sys2Proof.Machine.execNotify aqi offset width v pasid s
  | .unmap slot => Sys2Proof.Machine.execUnmap slot s
  | .restart slot => Sys2Proof.Machine.execRestart slot s
  | .compact o core => Sys2Proof.Machine.execCompact o core s
  | .breakBarriers ctx group levels => Sys2Proof.Machine.execBreakBarriers ctx group levels s
  | .portEnable port => Sys2Proof.Machine.execPortEnable port s
  | .portDisable port => Sys2Proof.Machine.execPortDisable port s
  | .trainingDone port passed => Sys2Proof.Machine.execTrainingDone port passed s
  | .laneFailure port lane => Sys2Proof.Machine.execLaneFailure port lane s
  | .retrainingDone port ok => Sys2Proof.Machine.execRetrainingDone port ok s
  | .flitReceive port f check => Sys2Proof.Machine.execFlitReceive port f check s
  | .coreErrorThreshold core => Sys2Proof.Machine.execCoreErrorThreshold core s
  | .coreUncorrectableFailure core => Sys2Proof.Machine.execCoreUncorrectableFailure core s
  | .hbmRowRemap stack chan bank row => Sys2Proof.Machine.execHbmRowRemap stack chan bank row s
  | .hbmChannelSpare stack chan => Sys2Proof.Machine.execHbmChannelSpare stack chan s
  | .l2WayDisable die slice way => Sys2Proof.Machine.execL2WayDisable die slice way s
  | .firmwareImageLoad img => Sys2Proof.Machine.execFirmwareImageLoad img s
  | .attestationQuote nonce => Sys2Proof.Machine.execAttestationQuote nonce s
  | .thermalTrip die => Sys2Proof.Machine.execThermalTrip die s
  | .thermalShutdown die => Sys2Proof.Machine.execThermalShutdown die s
  | .lxas args fs => Sys2Proof.Machine.execLxas args fs s
  | .lxdbAttach pkg ctx => Sys2Proof.Machine.execLxdbAttach pkg ctx s
  | .lxdbSelect pkg => Sys2Proof.Machine.execLxdbSelect pkg s
  | .lxdbBreak at_ => Sys2Proof.Machine.execLxdbBreak at_ s
  | .lxdbRun launches => Sys2Proof.Machine.execLxdbRun launches s
  | .lxdbStep n => Sys2Proof.Machine.execLxdbStep n s
  | .lxdbRegs rs => Sys2Proof.Machine.execLxdbRegs rs s
  | .lxdbMask m => Sys2Proof.Machine.execLxdbMask m s
  | .lxdbLabel rs => Sys2Proof.Machine.execLxdbLabel rs s
  | .lxdbMem va n => Sys2Proof.Machine.execLxdbMem va n s
  | .lxdbFlush o => Sys2Proof.Machine.execLxdbFlush o s
  | .lxdbStress o on => Sys2Proof.Machine.execLxdbStress o on s
  | .lxdbEngineSave n => Sys2Proof.Machine.execLxdbEngineSave n s
  | .lxdbClaim slot => Sys2Proof.Machine.execLxdbClaim slot s
  | .lxdbWatchFabric pkg => Sys2Proof.Machine.execLxdbWatchFabric pkg s
  | .lxdbFabricLog pkg => Sys2Proof.Machine.execLxdbFabricLog pkg s
  | .lxdbSeedbank e n => Sys2Proof.Machine.execLxdbSeedbank e n s
  | .lxdbGate pol => Sys2Proof.Machine.execLxdbGate pol s
  | .superframeBoundary => Sys2Proof.Machine.execSuperframeBoundary s
  | .gateCommandDone => Sys2Proof.Machine.execGateCommandDone s
  | .bucketRefill => Sys2Proof.Machine.execBucketRefill s
  | .reset => Sys2Proof.Machine.execReset s
  | .lxdbCont => Sys2Proof.Machine.execLxdbCont s
  | .lxdbPcv => Sys2Proof.Machine.execLxdbPcv s
  | .lxdbRotaTrace => Sys2Proof.Machine.execLxdbRotaTrace s
  | .lxdbWatchEngine => Sys2Proof.Machine.execLxdbWatchEngine s
  | .lxdbEngineLog => Sys2Proof.Machine.execLxdbEngineLog s
  | .lxdbTrap => Sys2Proof.Machine.execLxdbTrap s

end Sys2Proof.Machine
end

