-- ==== Sys2Proof/Machine/Step.lean ====
section
/-! DEFINITION. The machine's step, and an instruction placed where the step fetches its next one. -/

namespace Sys2Proof.Machine

/-- One step: the wave whose turn it is, or the next event; then whose turn is next. -/
def step : State → Host.Outcome State Fault Refusal := advance exec

/-- The state with an instruction of the opcode table stored where the next step fetches (LOG 12). -/
def State.withFetchWord (s : State) (nbits w : Nat) : State := placeWords (tableWords nbits w) s

end Sys2Proof.Machine
end

