-- ==== Sys2Proof/Safety.lean ====
section
/-! DEFINITION. The terms in which claims are stated: a safe run, a wave that may issue, what an instruction of one shape does to
its wave and leaves alone, the memories as a reader sees them. -/

namespace Sys2Proof.Machine

/-! ### Runs -/

/-- A step is safe when it answers a next state: it neither stops the machine nor is turned away. -/
def Safe (o : Out) : Prop := ∃ t, o = .next t

/-- What the turn says of the state: a wave that issues runs, has an issue address and is ready, in its own position of the barrel, or, in
deterministic mode, is the group's current wave in one of its group's positions, at least 8 cycles behind its last issue (R39, R161,
R320); and no step of the device is due. A wave that goes on waits in an instruction. -/
def IssueInv (s : State) : Prop :=
  match s.turn with
  | .issue r => ∃ g p w, g ∈ s.groups ∧ g.gid = r.gid ∧ g.st = .running ∧ g.place = some p ∧ g.waves[r.wave]? = some w ∧
      w.status = .running ∧ (∃ a, w.issueAddr = some a) ∧ w.ready ≤ s.now ∧
      (g.det = false → p.pos[r.wave]? = some (s.now % 16)) ∧
      (g.det = true → g.cur = r.wave ∧ s.now % 16 ∈ p.pos ∧ (w.lastIss = 0 ∨ w.lastIss + 8 ≤ s.now)) ∧
      s.now < s.clk.boundary ∧ ∀ c i rest, s.agenda = (c, i) :: rest → s.now < c
  | .resume r => ∃ g p w k i, g ∈ s.groups ∧ g.gid = r.gid ∧ g.st = .running ∧ g.place = some p ∧ g.waves[r.wave]? = some w ∧
      w.status = .waiting k i ∧ (∀ n, k = .untilCycle n → n ≤ s.now) ∧
      s.now < s.clk.boundary ∧ ∀ c i rest, s.agenda = (c, i) :: rest → s.now < c
  | .event => True

/-! ### A wave that may issue -/

/-- It is the turn of wave c, to issue an instruction. -/
def IssuesX (s : State) (c : Cur) : Prop := s.cur? = some c ∧ c.res = false ∧ c.w.status = .running

/-- It is the turn of wave c, to issue an instruction of n words that is no transfer, where it may stand (R47, R149). -/
def Issues (s : State) (c : Cur) (n : Nat) : Prop := IssuesX s c ∧ c.pc % 2048 + n ≤ 2047

/-- It is the turn of wave c, to go on with an instruction that it waits in (R161). -/
def Resumes (s : State) (c : Cur) (i : Instr) : Prop := s.cur? = some c ∧ c.res = true ∧ ∃ k, c.w.status = .waiting k i

/-- The vector registers of a list are among those that the wave's kernel declares (R64). -/
def InV (c : Cur) (l : List Nat) : Prop := ∀ r ∈ l, r < c.g.vdecl
def InH (c : Cur) (l : List Nat) : Prop := ∀ r ∈ l, r < c.g.hdecl
def InA (c : Cur) (l : List Nat) : Prop := ∀ r ∈ l, r < c.g.adecl

/-- The return buffer has room for one more entry (R51, R55). -/
def Room (c : Cur) : Prop := c.w.entries < 32
/-- And the queue of the special-function unit too (R129). -/
def RoomSfu (c : Cur) : Prop := c.w.entries < 32 ∧ c.w.sfuEntries < 4

/-! ### What an instruction leaves alone -/

/-- Nothing of the machine but wave c differs between two states, and w is that wave afterwards. -/
def OnlyWave (c : Cur) (s t : State) (w : Wave) : Prop := t = s.updWave c.ref fun _ => w

/-- An entry of the return buffer, or a request held for a replay, without the writes that it makes. -/
def pendEntry (p : Pend) : Nat × Bool × Nat × Nat × Flags × Option Fail := (p.id, p.entry, p.left, p.pc, p.flags, p.fail)

/-- Apart from the parts named, w' is w: its vector, uniform, mask and index registers, lanes' PCs, special registers, trap
registers and random-number state. -/
def SameV (w w' : Wave) : Prop := ∀ n : Reg, w'.vreg n = w.vreg n
def SameS (w w' : Wave) : Prop := ∀ n : Reg, w'.sreg n = w.sreg n
def SameM (w w' : Wave) : Prop := ∀ n : MReg, w'.mreg n = w.mreg n
def SameX (w w' : Wave) : Prop := w'.x = w.x
def SameTrap (w w' : Wave) : Prop :=
  w'.tcause = w.tcause ∧ w'.tpc = w.tpc ∧ w'.taddr = w.taddr ∧ w'.tpcv = w.tpcv ∧ w'.intrap = w.intrap
def SameRng (w w' : Wave) : Prop := w'.rngkey = w.rngkey ∧ w'.rnglab = w.rnglab ∧ w'.rngctr = w.rngctr
/-- The registers that an instruction reaches by name only: RLANE, OCYCH, LCLKH, OVER, the path counters, the engine and claim
counts, what a replay sends again (a later write of a register cancels a held one, R54). -/
def SameMisc (w w' : Wave) : Prop :=
  w'.rlane = w.rlane ∧ w'.ocych = w.ocych ∧ w'.lclkh = w.lclkh ∧ w'.overrun = w.overrun ∧ w'.pathcnt = w.pathcnt ∧ w'.eseen = w.eseen
    ∧ w'.claims = w.claims ∧ w'.held.map pendEntry = w.held.map pendEntry ∧ w'.exited = w.exited
def SameFlags (w w' : Wave) : Prop := w'.fflags = w.fflags
def SameCtx (w w' : Wave) : Prop := w'.ctxlbl = w.ctxlbl
/-- No entry of the return buffer comes or goes, and none returns. -/
def SameEntries (w w' : Wave) : Prop := w'.pend.map pendEntry = w.pend.map pendEntry

/-- The active lanes go on behind n words, no other lane moves (R149); the wave parks when P is 1 (R53) and may issue again
in the next cycle. -/
def Advances (p : Bool) (n : Nat) (c : Cur) (s : State) (w' : Wave) : Prop :=
  (∀ l, l < 64 → w'.pcAt l = if c.act.getLsbD l then c.w.pcAt l + n else c.w.pcAt l) ∧
    w'.status = (if p then .parked .next else .running) ∧ w'.phase = 0 ∧ w'.ready = s.now + 1

/-! ### Instructions of one shape -/

/-- The instruction writes vector register d: lane l of the active lanes becomes `f l`, every other lane stays; the register's
label becomes `lab`, with its own in it when a lane or a part of one stays (R108). Nothing else of the wave changes but its
PCs, and nothing of the machine but the wave. -/
def WritesV (i : Instr) (p : Bool) (n : Nat) (d : Reg) (part : Bool) (f : Nat → Word) (lab : Label) (s : State) (c : Cur) : Prop :=
  ∃ t w', exec i s = .next t ∧ OnlyWave c s t w' ∧
    (∀ l, l < 64 → w'.lane d l = if c.act.getLsbD l then f l else c.w.lane d l) ∧
    (w'.vreg d).lab = (if part ∨ c.act ≠ BitVec.allOnes 64 then lab ||| (c.w.vreg d).lab else lab) ∧
    (∀ n : Reg, n ≠ d → w'.vreg n = c.w.vreg n) ∧
    SameS c.w w' ∧ SameM c.w w' ∧ SameX c.w w' ∧ SameTrap c.w w' ∧ SameRng c.w w' ∧ SameMisc c.w w' ∧ SameFlags c.w w' ∧
    SameCtx c.w w' ∧ SameEntries c.w w' ∧ Advances p n c s w'

/-- As WritesV, of an instruction that also raises flags: those of the active lanes together, under the same label (R69, R96). -/
def WritesVF (i : Instr) (p : Bool) (d : Reg) (part : Bool) (f : Nat → Word × Flags) (lab : Label) (s : State) (c : Cur) : Prop :=
  ∃ t w', exec i s = .next t ∧ OnlyWave c s t w' ∧
    (∀ l, l < 64 → w'.lane d l = if c.act.getLsbD l then (f l).1 else c.w.lane d l) ∧
    (w'.vreg d).lab = (if part ∨ c.act ≠ BitVec.allOnes 64 then lab ||| (c.w.vreg d).lab else lab) ∧
    (∀ k, k < 32 → w'.fflags.val.getLsbD k =
      (c.w.fflags.val.getLsbD k || (List.range 64).any fun l => c.act.getLsbD l && (f l).2.getLsbD k)) ∧
    w'.fflags.lab = c.w.fflags.lab ||| lab ∧
    (∀ n : Reg, n ≠ d → w'.vreg n = c.w.vreg n) ∧
    SameS c.w w' ∧ SameM c.w w' ∧ SameX c.w w' ∧ SameTrap c.w w' ∧ SameRng c.w w' ∧ SameMisc c.w w' ∧
    SameCtx c.w w' ∧ SameEntries c.w w' ∧ Advances p 1 c s w'

/-- The instruction writes uniform register d with value and label; s0 reads 0 whatever is written to it (R48). Nothing else of
the wave changes but its PCs, and nothing of the machine but the wave. -/
def WritesS (i : Instr) (p : Bool) (n : Nat) (d : Reg) (x : Word) (lab : Label) (s : State) (c : Cur) : Prop :=
  ∃ t w', exec i s = .next t ∧ OnlyWave c s t w' ∧
    w'.sreg d = (if d = 0 then UReg.zero else ⟨x, lab⟩) ∧
    (∀ n : Reg, n ≠ d → w'.sreg n = c.w.sreg n) ∧
    SameV c.w w' ∧ SameM c.w w' ∧ SameX c.w w' ∧ SameTrap c.w w' ∧ SameRng c.w w' ∧ SameMisc c.w w' ∧ SameFlags c.w w' ∧
    SameCtx c.w w' ∧ SameEntries c.w w' ∧ Advances p n c s w'

/-- The instruction writes mask register d: lane l's bit becomes `f l` where `m` holds l, and stays elsewhere; m0 reads as all
ones whatever is written to it (R48). -/
def WritesM (i : Instr) (p : Bool) (d : MReg) (m : BitVec 64) (f : Nat → Bool) (lab : Label) (s : State) (c : Cur) : Prop :=
  ∃ t w', exec i s = .next t ∧ OnlyWave c s t w' ∧
    (∀ l, l < 64 → (w'.mreg d).val.getLsbD l =
      (if d = 0 then true else if m.getLsbD l then f l else (c.w.mreg d).val.getLsbD l)) ∧
    (w'.mreg d).lab = (if d = 0 then 0 else if m = BitVec.allOnes 64 then lab else lab ||| (c.w.mreg d).lab) ∧
    (∀ n : MReg, n ≠ d → w'.mreg n = c.w.mreg n) ∧
    SameV c.w w' ∧ SameS c.w w' ∧ SameX c.w w' ∧ SameTrap c.w w' ∧ SameRng c.w w' ∧ SameMisc c.w w' ∧ SameFlags c.w w' ∧
    SameCtx c.w w' ∧ SameEntries c.w w' ∧ Advances p 1 c s w'

/-- The registers of a wave are all as before; what else changes is said beside it. -/
def SameRegs (w w' : Wave) : Prop :=
  SameV w w' ∧ SameS w w' ∧ SameM w w' ∧ SameX w w' ∧ SameTrap w w' ∧ SameRng w w' ∧ SameMisc w w' ∧ SameFlags w w'

/-- Words that are no instruction: the decoder refuses them, and a wave at whose issue address they stand, where they
may stand, takes the precise trap of that refusal: it parks, and no register changes (R64, R265). -/
def NoInstr (e : DecErr) (cause : Nat) (ws : List Nat) : Prop :=
  decodeWords ws = .error e ∧ ∀ (s : State) (c : Cur), s.clk.stopped = false → Issues s c 1 → marked s c = false →
    c.w.intrap = false → isBranch (ws.headD 0) = false → (isLit (ws.headD 0) = false ∨ c.pc % 2048 < 2045) →
    (((s.core c.core).slot (c.pc / 2048)).st = .present ∨ ((s.core c.core).slot (c.pc / 2048)).st = .held) →
    ((s.core c.core).slot (c.pc / 2048)).words.drop (c.pc % 2048) = ws →
    ∃ w', step s = .next (settle (s.updWave c.ref fun _ => w')) ∧ w'.status = .parked (.trap cause c.pc 0 0) ∧ SameRegs c.w w' ∧
      SameCtx c.w w' ∧ w'.pcs = c.w.pcs ∧ w'.pend = c.w.pend

/-- The instruction moves its active lanes: lane l goes to `f l`; no register changes, and CTXLBL takes `lab` in. -/
def Jumps (i : Instr) (p : Bool) (f : Nat → Nat) (lab : Label) (s : State) (c : Cur) : Prop :=
  ∃ t w', exec i s = .next t ∧ OnlyWave c s t w' ∧
    (∀ l, l < 64 → w'.pcAt l = if c.act.getLsbD l then f l else c.w.pcAt l) ∧
    w'.ctxlbl = c.w.ctxlbl ||| lab ∧ SameRegs c.w w' ∧ SameEntries c.w w' ∧
    w'.status = (if p then .parked .next else .running) ∧ w'.phase = 0 ∧ w'.ready = s.now + 1

/-- The instruction takes a precise trap at a PC: with INTRAP 0 its wave parks, and enters the handler once the park has
completed (R265). CTXLBL takes `lab` in at once, and `absorb` with the entry (R250); no register changes. -/
def TrapsWith (i : Instr) (pc cause addr : Nat) (absorb lab : Label) (s : State) (c : Cur) : Prop :=
  ∃ t w', exec i s = .next t ∧ OnlyWave c s t w' ∧ w'.status = .parked (.trap cause pc addr absorb) ∧ w'.phase = 0 ∧
    w'.ctxlbl = c.w.ctxlbl ||| lab ∧ SameRegs c.w w' ∧ (∀ l, w'.pcAt l = c.w.pcAt l) ∧ w'.pend = c.w.pend

/-- As TrapsWith, when no label is taken in. -/
def TrapsAt (i : Instr) (pc cause addr : Nat) (s : State) (c : Cur) : Prop := TrapsWith i pc cause addr 0 0 s c

/-- The instruction does nothing but go on behind its words. -/
def OnlyAdvances (i : Instr) (p : Bool) (n : Nat) (s : State) (c : Cur) : Prop :=
  ∃ t w', exec i s = .next t ∧ OnlyWave c s t w' ∧ SameRegs c.w w' ∧ SameCtx c.w w' ∧ SameEntries c.w w' ∧ Advances p n c s w'

/-- The instruction parks first, and its wave goes on with it when the park has completed (R53); no register changes. -/
def ParksFirst (i : Instr) (s : State) (c : Cur) : Prop :=
  ∃ t w', exec i s = .next t ∧ OnlyWave c s t w' ∧ w'.status = .parked (.again i) ∧ w'.phase = 1 ∧ SameRegs c.w w' ∧
    SameCtx c.w w' ∧ w'.pcs = c.w.pcs ∧ w'.pend = c.w.pend

/-- The wave waits in the instruction, and nothing else changes than that its phase becomes n. -/
def WaitsIn (i : Instr) (n : Nat) (k : Cond) (s : State) (c : Cur) : Prop :=
  ∃ t w', exec i s = .next t ∧ OnlyWave c s t w' ∧ w'.status = .waiting k i ∧ w'.phase = n ∧ SameRegs c.w w' ∧
    SameCtx c.w w' ∧ w'.pcs = c.w.pcs ∧ w'.pend = c.w.pend

/-- The state in which the effect of an issued instruction begins: its wave's issue is noted. -/
def atIssue (s : State) (c : Cur) : State := s.updWave c.ref fun _ => (c.noted s).w

/-- The instruction takes one more entry of the return buffer, which holds register writes and flags, or a failure, and returns
`lat` cycles after issue (R51, R53); meanwhile no register changes. Of the machine nothing changes but the wave, the agenda
and the count of requests. -/
def Enters (i : Instr) (p : Bool) (lat : Nat) (ws : List RegWrite) (flags : Flags) (flab : Label) (fail : Option Fail) (s : State)
    (c : Cur) : Prop :=
  ∃ t w' e, exec i s = .next t ∧
    t = ((s.updWave c.ref fun _ => w').setMem { s.mem with nextId := s.mem.nextId + 1 }).schedule (s.now + lat)
      (.resultReturn c.ref s.mem.nextId) ∧
    w'.pend = c.w.pend ++ [e] ∧ e.id = s.mem.nextId ∧ e.entry = true ∧ e.left = 1 ∧ e.pc = c.pc ∧ e.ws = ws ∧ e.flags = flags ∧
    e.flab = flab ∧ e.fail = fail ∧ SameRegs c.w w' ∧ SameCtx c.w w' ∧ Advances p 1 c s w'

/-! ### Instructions of the hypervector unit (R173) -/

/-- The group's other waves, and the waves of other groups, keep their registers, lanes and status; none of their entries comes,
goes or returns. -/
def OtherWaves (c : Cur) (s t : State) : Prop :=
  ∀ r w, r ≠ c.ref → s.wave? r = some w → ∃ w', t.wave? r = some w' ∧ SameRegs w w' ∧ SameCtx w w' ∧ SameEntries w w' ∧
    w'.pcs = w.pcs ∧ w'.status = w.status

/-- The instruction writes hypervector register d of the group: bit i becomes `f i`. No other register of the group changes, none of
any wave, and nothing of memory. -/
def WritesH (i : Instr) (p : Bool) (d : Fin 16) (f : Nat → Bool) (lab : Label) (s : State) (c : Cur) : Prop :=
  ∃ t g' w', exec i s = .next t ∧ t.group? c.ref.gid = some g' ∧ t.wave? c.ref = some w' ∧
    (∀ k, k < 8192 → (g'.hreg d).val.getLsbD k = f k) ∧ (g'.hreg d).lab = lab ∧
    (∀ n : Fin 16, n ≠ d → g'.hreg n = c.g.hreg n) ∧ g'.a = c.g.a ∧ OtherWaves c s t ∧
    SameRegs c.w w' ∧ SameCtx c.w w' ∧ SameEntries c.w w' ∧ Advances p 1 c s w' ∧ t.mem = s.mem

/-- The instruction makes accumulator k of the group x. -/
def WritesA (i : Instr) (p : Bool) (k : Fin 4) (x : Accum) (s : State) (c : Cur) : Prop :=
  ∃ t g' w', exec i s = .next t ∧ t.group? c.ref.gid = some g' ∧ t.wave? c.ref = some w' ∧
    g'.acc k = x ∧ (∀ j : Fin 4, j ≠ k → g'.acc j = c.g.acc j) ∧ g'.h = c.g.h ∧ OtherWaves c s t ∧
    SameRegs c.w w' ∧ SameCtx c.w w' ∧ SameEntries c.w w' ∧ Advances p 1 c s w' ∧ t.mem = s.mem

/-! ### Memory as a reader sees it -/

/-- The byte of LOCAL, remote or host memory at an address. -/
def readByte (t : MemType) (s : State) (a : Nat) : Byte :=
  match t with
  | .loc => cellGet a s.mem.cells
  | .host => cellGet a s.mem.host
  | _ => cellGet a s.mem.remote

/-- Every byte of memory reads as before. -/
def SameMemory (s t : State) : Prop := ∀ k a, readByte k t a = readByte k s a

/-- The machine keeps memory in canonical form. -/
def MemOk (s : State) : Prop := s.mem.wf = true

/-! ### Accesses to global memory (R199 to R206) -/

/-- What the checks of an access find at its issue: the lanes before the first failure, and that failure. -/
def checksAt (s : State) (c : Cur) (a : Acc) : Checks := (checkLanes c.who a a.inOrder [] (atIssue s c).fresh.2).1

/-- The tags and delivery contexts that the access needs are free (R394, R397), and no RELEASE of its wave waits for the gate (R210). -/
def FabricFree (s : State) (c : Cur) (a : Acc) : Prop :=
  let n := fabricNeed c.who a (atIssue s c)
  gateOut s c.ref = false ∧ (n.1 = 0 ∨ fabricReady (atIssue s c) c.core c.g.owner 0 n.1 n.2 = true)

/-- No access of the wave has failed since its last park. -/
def NoFailure (c : Cur) : Prop := ∀ q ∈ c.w.pend, q.fail = none

/-- Byte a of memory of a type after the lanes of a store: that of the highest lane which covers it, or the byte there before. -/
def storedByte (m : MemType) (ok : List LaneOk) (n : Nat) (s : State) (a : Nat) : Byte :=
  match (ok.filter fun k => k.t.typ = m && decide (k.pa ≤ a) && decide (a < k.pa + n)).getLast? with
  | some k => BitVec.ofNat 8 (k.l.data / 2 ^ (8 * (a - k.pa)))
  | none => readByte m s a

/-- What every access leaves of its wave: registers and CTXLBL as before, its lanes behind the word; other waves as they were. -/
def AccessFrame (p : Bool) (s t : State) (c : Cur) (w' : Wave) : Prop :=
  t.wave? c.ref = some w' ∧ SameRegs c.w w' ∧ SameCtx c.w w' ∧ Advances p 1 c s w' ∧ OtherWaves c s t

/-- A global store is made: LOCAL and HOST bytes of the lanes before its first failure are written at issue, in the order of the
lanes, and no other byte; bytes off the package are written at their home later. A failure waits for the next park, and so does the
whole store when an earlier access of the wave has failed (R56). -/
def StoreDone (i : Instr) (p : Bool) (a : Acc) (s : State) (c : Cur) : Prop :=
  let ck := checksAt s c a
  ∃ t w', exec i s = .next t ∧ AccessFrame p s t c w' ∧
    (c.g.det = false → NoFailure c →
      (∀ b, readByte .loc t b = storedByte .loc ck.ok a.n s b) ∧ (∀ b, readByte .host t b = storedByte .host ck.ok a.n s b) ∧
      (∀ b, readByte .peer t b = readByte .peer s b)) ∧
    (¬NoFailure c → SameMemory s t) ∧
    (NoFailure c → ∀ f, ck.bad = some f → ∃ e, w'.pend.getLast? = some e ∧ e.entry = false ∧ e.fail = some f ∧ e.pc = c.pc)

/-- A global load is made: it takes an entry, whose failure is that of its first failing lane. -/
def LoadDone (i : Instr) (p : Bool) (a : Acc) (s : State) (c : Cur) (e : Pend) : Prop :=
  let ck := checksAt s c a
  ∃ t w', exec i s = .next t ∧ AccessFrame p s t c w' ∧ SameMemory s t ∧
    w'.pend.getLast? = some e ∧ w'.pend.length = c.w.pend.length + 1 ∧ e.entry = true ∧ e.pc = c.pc ∧ e.ws.map (·.tgt) = a.dst ∧
    (NoFailure c → e.fail = ck.bad ∧ ∀ x ∈ e.ws, x.lab = ck.ok.foldl (fun l k => l ||| k.t.lab) a.al)

/-- No cache that a core's load looks in holds a copy of a line. -/
def Uncached (s : State) (c : Cur) (line : Nat) : Prop :=
  (∀ x ∈ (s.core c.core).l1, x.pa ≠ line) ∧ ∀ y ∈ s.mem.l2, y.line.pa ≠ line

/-- LOCAL memory after some lanes' operations, one after the other. -/
def atomCells (op : AOp) (m : List Host.Cell) : List LaneOk → List Host.Cell
  | [] => m
  | k :: ks => atomCells op (cellPuts m k.pa (leBytes 4
      (op.apply (BitVec.ofNat 32 (cellVal m k.pa 4)) (BitVec.ofNat 32 k.l.data) (BitVec.ofNat 32 k.l.swap)).toNat)) ks

/-- A global atomic of the wave's or the group's scope is made: it takes an entry; on LOCAL memory its lanes operate one after the
other at issue, and each reads what those before it left. -/
def AtomDone (i : Instr) (p : Bool) (a : Acc) (s : State) (c : Cur) : Prop :=
  let ck := checksAt s c a
  ∃ t w' e, exec i s = .next t ∧ AccessFrame p s t c w' ∧ w'.pend.getLast? = some e ∧ w'.pend.length = c.w.pend.length + 1 ∧
    e.entry = true ∧ e.pc = c.pc ∧ (NoFailure c → e.fail = ck.bad) ∧ (¬NoFailure c → SameMemory s t) ∧
    (c.g.det = false → NoFailure c → (∀ k ∈ ck.ok, k.t.typ = .loc) →
      (∀ b, readByte .loc t b = cellGet b (atomCells a.op s.mem.cells ck.ok)) ∧ (∀ b, readByte .host t b = readByte .host s b) ∧
      (∀ b, readByte .peer t b = readByte .peer s b) ∧
      (∀ x ∈ e.ws, x.lab = ck.ok.foldl (fun l k => l ||| k.t.lab) (a.al ||| a.dl)) ∧
      ∀ j k x, ck.ok[j]? = some k → e.ws[0]? = some x → (∀ v, x.tgt = .v v → k.l.lane < 64) →
        (ck.ok.map (·.l.lane)).Nodup →
        x.vals.getD (match x.tgt with | .v _ => k.l.lane | _ => 0) 0 =
          BitVec.ofNat 32 (cellVal (atomCells a.op s.mem.cells (ck.ok.take j)) k.pa 4))

end Sys2Proof.Machine
end

