-- ==== Sys2Proof/Certificates/Slice0/Obligations.lean ====
section
/-! DEFINITION. The statements. -/

open Sys2Proof Sys2Proof.Machine


/-- R112. VADD, VSUB, VADDS, VSUBS, VADDSN, VSUBSN and VABSD, in the active lanes, with every other thing of the wave and the machine as
before; function code 7 of their major is no instruction. That a routed operand is read before any lane is written is how the spec is read
in LOG 37. -/
def Obligations.IntegerAddSubtract : Prop :=
  (∀ (p : Bool) (d a b : Reg) (r : Route) (s : State) (c : Cur), Issues s c 1 → InV c [d.val, a.val, b.val] →
    let x := fun l => c.w.lane a l
    let y := fun l => routed c.w b r l
    let lab := vlab c.w a ||| vlab c.w b ||| routeLab c.w r ||| c.w.ctxlbl
    WritesV (.vadd p d a b r) p 1 d false (fun l => BitVec.ofNat 32 ((x l).toNat + (y l).toNat)) lab s c ∧
    WritesV (.vsub p d a b r) p 1 d false (fun l => BitVec.ofInt 32 ((x l).toNat - (y l).toNat)) lab s c ∧
    WritesV (.vadds p d a b r) p 1 d false
      (fun l => BitVec.ofInt 32 (max (-2 ^ 31) (min (2 ^ 31 - 1) ((x l).toInt + (y l).toInt)))) lab s c ∧
    WritesV (.vsubs p d a b r) p 1 d false
      (fun l => BitVec.ofInt 32 (max (-2 ^ 31) (min (2 ^ 31 - 1) ((x l).toInt - (y l).toInt)))) lab s c ∧
    WritesV (.vaddsn p d a b r) p 1 d false (fun l => BitVec.ofNat 32 (min (2 ^ 32 - 1) ((x l).toNat + (y l).toNat))) lab s c ∧
    WritesV (.vsubsn p d a b r) p 1 d false (fun l => BitVec.ofNat 32 ((x l).toNat - (y l).toNat)) lab s c ∧
    WritesV (.vabsd p d a b r) p 1 d false (fun l => BitVec.ofNat 32 ((x l).toInt - (y l).toInt).natAbs) lab s c) ∧
  ∀ (w : Nat) (rest : List Nat), fld w 31 1 = 0 → fld w 24 6 = 0 → fld w 0 3 = 7 → NoInstr .illegalOp illegalOp (w :: rest)

/-- R113. VMUL, VMULH, VMULHN, VMAD, VDOT4 and VDOT4N, the last three reading vd too. That a routed operand is read before any lane is
written is how the spec is read in LOG 37. -/
def Obligations.IntegerMultiply : Prop :=
  (∀ (p : Bool) (d a b : Reg) (r : Route) (s : State) (c : Cur), Issues s c 1 → InV c [d.val, a.val, b.val] →
    let x := fun l => c.w.lane a l
    let y := fun l => routed c.w b r l
    let z := fun l => c.w.lane d l
    let lab := vlab c.w a ||| vlab c.w b ||| routeLab c.w r ||| c.w.ctxlbl
    let lab3 := vlab c.w a ||| vlab c.w b ||| vlab c.w d ||| routeLab c.w r ||| c.w.ctxlbl
    let byte := fun (v : Word) (i : Nat) => BitVec.extractLsb' (8 * i) 8 v
    WritesV (.vmul p d a b r) p 1 d false (fun l => BitVec.ofNat 32 ((x l).toNat * (y l).toNat)) lab s c ∧
    WritesV (.vmulh p d a b r) p 1 d false
      (fun l => BitVec.extractLsb' 32 32 (BitVec.ofInt 64 ((x l).toInt * (y l).toInt))) lab s c ∧
    WritesV (.vmulhn p d a b r) p 1 d false
      (fun l => BitVec.extractLsb' 32 32 (BitVec.ofNat 64 ((x l).toNat * (y l).toNat))) lab s c ∧
    WritesV (.vmad p d a b r) p 1 d false (fun l => BitVec.ofNat 32 ((x l).toNat * (y l).toNat + (z l).toNat)) lab3 s c ∧
    WritesV (.vdot4 p d a b r) p 1 d false (fun l => BitVec.ofInt 32 ((z l).toInt +
      ((byte (x l) 0).toInt * (byte (y l) 0).toInt + (byte (x l) 1).toInt * (byte (y l) 1).toInt +
       (byte (x l) 2).toInt * (byte (y l) 2).toInt + (byte (x l) 3).toInt * (byte (y l) 3).toInt))) lab3 s c ∧
    WritesV (.vdot4n p d a b r) p 1 d false (fun l => BitVec.ofNat 32 ((z l).toNat +
      ((byte (x l) 0).toNat * (byte (y l) 0).toNat + (byte (x l) 1).toNat * (byte (y l) 1).toNat +
       (byte (x l) 2).toNat * (byte (y l) 2).toNat + (byte (x l) 3).toNat * (byte (y l) 3).toNat))) lab3 s c) ∧
  ∀ (w : Nat) (rest : List Nat), fld w 31 1 = 0 → fld w 24 6 = 1 → 6 ≤ fld w 0 3 → NoInstr .illegalOp illegalOp (w :: rest)

/-- R114. VMIN, VMAX, VMINN, VMAXN, VABS and VNEG. R115. VAND, VOR, VXOR, VANDN, VNOT, VMOV, VPOPC and VCLZ: every function code of the
major is an instruction. That a routed operand is read before any lane is written is how the spec is read in LOG 37. -/
def Obligations.MinMaxLogic : Prop :=
  ((∀ (p : Bool) (d a b : Reg) (r : Route) (s : State) (c : Cur), Issues s c 1 → InV c [d.val, a.val, b.val] →
     let x := fun l => c.w.lane a l
     let y := fun l => routed c.w b r l
     let lab := vlab c.w a ||| vlab c.w b ||| routeLab c.w r ||| c.w.ctxlbl
     WritesV (.vmin p d a b r) p 1 d false (fun l => if (x l).toInt ≤ (y l).toInt then x l else y l) lab s c ∧
     WritesV (.vmax p d a b r) p 1 d false (fun l => if (x l).toInt ≥ (y l).toInt then x l else y l) lab s c ∧
     WritesV (.vminn p d a b r) p 1 d false (fun l => if (x l).toNat ≤ (y l).toNat then x l else y l) lab s c ∧
     WritesV (.vmaxn p d a b r) p 1 d false (fun l => if (x l).toNat ≥ (y l).toNat then x l else y l) lab s c) ∧
   (∀ (p : Bool) (d b : Reg) (r : Route) (s : State) (c : Cur), Issues s c 1 → InV c [d.val, b.val] →
     let y := fun l => routed c.w b r l
     let lab := vlab c.w b ||| routeLab c.w r ||| c.w.ctxlbl
     WritesV (.vabs p d b r) p 1 d false (fun l => BitVec.ofNat 32 (y l).toInt.natAbs) lab s c ∧
     WritesV (.vneg p d b r) p 1 d false (fun l => BitVec.ofInt 32 (0 - (y l).toInt)) lab s c) ∧
   ∀ (w : Nat) (rest : List Nat), fld w 31 1 = 0 → fld w 24 6 = 2 → 6 ≤ fld w 0 3 → NoInstr .illegalOp illegalOp (w :: rest)) ∧
  ((∀ (p : Bool) (d a b : Reg) (r : Route) (s : State) (c : Cur), Issues s c 1 → InV c [d.val, a.val, b.val] →
     let x := fun l => c.w.lane a l
     let y := fun l => routed c.w b r l
     let lab := vlab c.w a ||| vlab c.w b ||| routeLab c.w r ||| c.w.ctxlbl
     WritesV (.vand p d a b r) p 1 d false (fun l => x l &&& y l) lab s c ∧
     WritesV (.vor p d a b r) p 1 d false (fun l => x l ||| y l) lab s c ∧
     WritesV (.vxor p d a b r) p 1 d false (fun l => x l ^^^ y l) lab s c ∧
     WritesV (.vandn p d a b r) p 1 d false (fun l => x l &&& ~~~(y l)) lab s c) ∧
   (∀ (p : Bool) (d b : Reg) (r : Route) (s : State) (c : Cur), Issues s c 1 → InV c [d.val, b.val] →
     let y := fun l => routed c.w b r l
     let lab := vlab c.w b ||| routeLab c.w r ||| c.w.ctxlbl
     WritesV (.vnot p d b r) p 1 d false (fun l => ~~~(y l)) lab s c ∧
     WritesV (.vmov p d b r) p 1 d false y lab s c ∧
     WritesV (.vpopc p d b r) p 1 d false
       (fun l => BitVec.ofNat 32 ((List.range 32).filter fun k => (y l).getLsbD k).length) lab s c ∧
     ∃ n : Nat → Nat, WritesV (.vclz p d b r) p 1 d false (fun l => BitVec.ofNat 32 (n l)) lab s c ∧
       ∀ l, n l ≤ 32 ∧ (∀ k, 32 - n l ≤ k → (y l).getLsbD k = false) ∧ (n l < 32 → (y l).getLsbD (31 - n l) = true)) ∧
   ∀ (w : Nat) (rest : List Nat), fld w 31 1 = 0 → fld w 24 6 = 3 → decodeWords (w :: rest) ≠ .error .illegalOp)

/-- R116. VSHL, VSHR, VSRA and VROTL by the low five bits of the amount, and VBREV. R57. The source lane of each route, and the label that
rep adds, as VMOV shows them. That a routed operand is read before any lane is written is how the spec is read in LOG 37. -/
def Obligations.ShiftsRoutes : Prop :=
  ((∀ (p : Bool) (d a b : Reg) (r : Route) (s : State) (c : Cur), Issues s c 1 → InV c [d.val, a.val, b.val] →
     let x := fun l => c.w.lane a l
     let n := fun l => (routed c.w b r l).toNat % 32
     let lab := vlab c.w a ||| vlab c.w b ||| routeLab c.w r ||| c.w.ctxlbl
     WritesV (.vshl p d a b r) p 1 d false (fun l => BitVec.ofNat 32 ((x l).toNat * 2 ^ n l)) lab s c ∧
     WritesV (.vshr p d a b r) p 1 d false (fun l => BitVec.ofNat 32 ((x l).toNat / 2 ^ n l)) lab s c ∧
     WritesV (.vsra p d a b r) p 1 d false (fun l => BitVec.ofInt 32 ((x l).toInt / 2 ^ n l)) lab s c ∧
     WritesV (.vrotl p d a b r) p 1 d false
       (fun l => if n l = 0 then x l else BitVec.ofNat 32 ((x l).toNat * 2 ^ n l) ||| BitVec.ofNat 32 ((x l).toNat / 2 ^ (32 - n l))) lab s c) ∧
   (∀ (p : Bool) (d b : Reg) (r : Route) (s : State) (c : Cur), Issues s c 1 → InV c [d.val, b.val] →
     ∃ y : Nat → Word, WritesV (.vbrev p d b r) p 1 d false y (vlab c.w b ||| routeLab c.w r ||| c.w.ctxlbl) s c ∧
       ∀ l i, i < 32 → (y l).getLsbD i = (routed c.w b r l).getLsbD (31 - i)) ∧
   ∀ (w : Nat) (rest : List Nat), fld w 31 1 = 0 → fld w 24 6 = 4 → 5 ≤ fld w 0 3 → NoInstr .illegalOp illegalOp (w :: rest)) ∧
  (∀ (p : Bool) (d b : Reg) (s : State) (c : Cur), Issues s c 1 → InV c [d.val, b.val] →
     let v := fun l => c.w.lane b l
     let lab := vlab c.w b ||| c.w.ctxlbl
     WritesV (.vmov p d b .none) p 1 d false v lab s c ∧
     WritesV (.vmov p d b .bfly1) p 1 d false (fun l => v (l ^^^ 1)) lab s c ∧
     WritesV (.vmov p d b .bfly2) p 1 d false (fun l => v (l ^^^ 2)) lab s c ∧
     WritesV (.vmov p d b .bfly4) p 1 d false (fun l => v (l ^^^ 4)) lab s c ∧
     WritesV (.vmov p d b .bfly8) p 1 d false (fun l => v (l ^^^ 8)) lab s c ∧
     WritesV (.vmov p d b .rot8) p 1 d false (fun l => v ((l &&& 0x38) ||| ((l + 1) &&& 7))) lab s c ∧
     WritesV (.vmov p d b .rev) p 1 d false (fun l => v (63 - l)) lab s c ∧
     WritesV (.vmov p d b .rep) p 1 d false (fun _ => v (c.w.rlane.val.toNat % 64)) (vlab c.w b ||| c.w.rlane.lab ||| c.w.ctxlbl) s c)

/-- R117, R118. VBCAST of a uniform register, and VSREG of each per-lane special register. R119. The immediate forms; behind a LIT word
(R60: three words that issue as one) they take its 32 bits. -/
def Obligations.BroadcastImmediates : Prop :=
  (∀ (p : Bool) (d a : Reg) (s : State) (c : Cur), Issues s c 1 → InV c [d.val] →
     WritesV (.vbcast p d a) p 1 d false (fun _ => sval c.w a) (slab c.w a ||| c.w.ctxlbl) s c ∧
     WritesV (.vsreg p d .lane) p 1 d false (fun l => BitVec.ofNat 32 l) c.w.ctxlbl s c ∧
     WritesV (.vsreg p d .glane) p 1 d false
       (fun l => BitVec.ofNat 32 ((c.g.lin * c.g.nwaves + c.ref.wave) * 64 + l)) c.w.ctxlbl s c ∧
     WritesV (.vsreg p d .pcv) p 1 d false
       (fun l => BitVec.ofNat 32 (c.w.pcAt l + if c.w.exited.getLsbD l then 2 ^ 31 else 0)) c.w.ctxlbl s c ∧
     WritesV (.vsreg p d .trappcv) p 1 d false (fun l => c.w.tpcv.getD l 0) c.w.ctxlbl s c ∧
     WritesV (.vsreg p d .rngctr) p 1 d false (fun l => c.w.rngctr.getD l 0) c.w.ctxlbl s c) ∧
  ((∀ (p : Bool) (d a : Reg) (imm : BitVec 12) (n : Fin 32) (s : State) (c : Cur), Issues s c 1 → InV c [d.val, a.val] →
     let x := fun l => c.w.lane a l
     let se := imm.signExtend 32
     let ze := imm.setWidth 32
     let lab := vlab c.w a ||| c.w.ctxlbl
     WritesV (.vaddi p d a imm) p 1 d false (fun l => BitVec.ofNat 32 ((x l).toNat + se.toNat)) lab s c ∧
     WritesV (.vandi p d a imm) p 1 d false (fun l => x l &&& ze) lab s c ∧
     WritesV (.vori p d a imm) p 1 d false (fun l => x l ||| ze) lab s c ∧
     WritesV (.vxori p d a imm) p 1 d false (fun l => x l ^^^ ze) lab s c ∧
     WritesV (.vshli p d a n) p 1 d false (fun l => BitVec.ofNat 32 ((x l).toNat * 2 ^ n.val)) lab s c ∧
     WritesV (.vshri p d a n) p 1 d false (fun l => BitVec.ofNat 32 ((x l).toNat / 2 ^ n.val)) lab s c ∧
     WritesV (.vsrai p d a n) p 1 d false (fun l => BitVec.ofInt 32 ((x l).toInt / 2 ^ n.val)) lab s c) ∧
   (∀ (p : Bool) (d : Reg) (imm : BitVec 12) (s : State) (c : Cur), Issues s c 1 → InV c [d.val] →
     WritesV (.vli p d imm) p 1 d false (fun _ => imm.signExtend 32) c.w.ctxlbl s c) ∧
   (∀ (p : Bool) (d a : Reg) (i : BitVec 32) (s : State) (c : Cur), Issues s c 3 → InV c [d.val, a.val] →
     let x := fun l => c.w.lane a l
     let lab := vlab c.w a ||| c.w.ctxlbl
     WritesV (.lit p .vaddi d a i) p 3 d false (fun l => BitVec.ofNat 32 ((x l).toNat + i.toNat)) lab s c ∧
     WritesV (.lit p .vandi d a i) p 3 d false (fun l => x l &&& i) lab s c ∧
     WritesV (.lit p .vori d a i) p 3 d false (fun l => x l ||| i) lab s c ∧
     WritesV (.lit p .vxori d a i) p 3 d false (fun l => x l ^^^ i) lab s c ∧
     (i.toNat < 32 →
       WritesV (.lit p .vshli d a i) p 3 d false (fun l => BitVec.ofNat 32 ((x l).toNat * 2 ^ i.toNat)) lab s c ∧
       WritesV (.lit p .vshri d a i) p 3 d false (fun l => BitVec.ofNat 32 ((x l).toNat / 2 ^ i.toNat)) lab s c ∧
       WritesV (.lit p .vsrai d a i) p 3 d false (fun l => BitVec.ofInt 32 ((x l).toInt / 2 ^ i.toNat)) lab s c)) ∧
   ∀ (p : Bool) (d : Reg) (i : BitVec 32) (s : State) (c : Cur), Issues s c 3 → InV c [d.val] →
     WritesV (.lit p .vli d 0 i) p 3 d false (fun _ => i) c.w.ctxlbl s c)

/-- R120, R121. The exact result of each element rounded once to its format; of the packed types each half on its own, the flags of both
together; VFMIN and VFMAX by R93, raising none. R93. The minimum and the maximum are one of the operands bit for bit, −0 below +0; beside
a NaN the other operand, and of two NaNs the canonical one. A NaN operand beside 0 × ∞ raises no flag, as the spec is read in LOG 13; a
routed operand is read before any lane is written, as it is read in LOG 37. -/
def Obligations.FloatArithmetic : Prop :=
  (∀ (p : Bool) (d a b : Reg) (r : Route) (s : State) (c : Cur), Issues s c 1 → InV c [d.val, a.val, b.val] →
     let lab := vlab c.w a ||| vlab c.w b ||| routeLab c.w r ||| c.w.ctxlbl
     let lab3 := vlab c.w a ||| vlab c.w b ||| routeLab c.w r ||| vlab c.w d ||| c.w.ctxlbl
     let once := fun (g : Fv → Fv → Fv → Fv × Flags) (f : Fmt) (x y z : Nat) =>
       let e := g (decodeF f x) (decodeF f y) (decodeF f z)
       ((roundF f e.1).1, e.2 ||| (roundF f e.1).2)
     let elems := fun (o : Fmt → Nat → Nat → Nat → Nat × Flags) (ty : FpType) (l : Nat) =>
       let x := (c.w.lane a l).toNat
       let y := (routed c.w b r l).toNat
       let z := (c.w.lane d l).toNat
       let two := fun (f : Fmt) =>
         (BitVec.ofNat 32 ((o f (x % 2 ^ 16) (y % 2 ^ 16) (z % 2 ^ 16)).1 + 2 ^ 16 * (o f (x / 2 ^ 16) (y / 2 ^ 16) (z / 2 ^ 16)).1),
           (o f (x % 2 ^ 16) (y % 2 ^ 16) (z % 2 ^ 16)).2 ||| (o f (x / 2 ^ 16) (y / 2 ^ 16) (z / 2 ^ 16)).2)
       match ty with
       | .f32 => (BitVec.ofNat 32 (o f32 x y z).1, (o f32 x y z).2)
       | .f16x2 => two f16
       | .bf16x2 => two bf16
     (∀ ty,
       WritesVF (.vfadd p ty d a b r) p d false (elems (once fun x y _ => addV x y) ty) lab s c ∧
       WritesVF (.vfsub p ty d a b r) p d false (elems (once fun x y _ => addV x y.neg) ty) lab s c ∧
       WritesVF (.vfmul p ty d a b r) p d false (elems (once fun x y _ => mulV x y) ty) lab s c ∧
       WritesVF (.vfma p ty d a b r) p d false (elems (once fun x y z => fmaV x y z) ty) lab3 s c ∧
       WritesVF (.vfnma p ty d a b r) p d false (elems (once fun x y z => fmaV x.neg y z.neg) ty) lab3 s c ∧
       WritesVF (.vfms p ty d a b r) p d false (elems (once fun x y z => fmaV x y z.neg) ty) lab3 s c ∧
       WritesVF (.vfnms p ty d a b r) p d false (elems (once fun x y z => fmaV x.neg y z) ty) lab3 s c ∧
       WritesV (.vfmin p ty d a b r) p 1 d false (fun l => (elems (fun f x y _ => (fMinMax f false x y, 0)) ty l).1) lab s c ∧
       WritesV (.vfmax p ty d a b r) p 1 d false (fun l => (elems (fun f x y _ => (fMinMax f true x y, 0)) ty l).1) lab s c)) ∧
  (∀ (f : Fmt) (big : Bool) (x y : Nat),
     ((decodeF f x).isNaN = true → (decodeF f y).isNaN = true → fMinMax f big x y = f.nanBits) ∧
     ((decodeF f x).isNaN = true → (decodeF f y).isNaN = false → fMinMax f big x y = y) ∧
     ((decodeF f x).isNaN = false → (decodeF f y).isNaN = true → fMinMax f big x y = x) ∧
     ((decodeF f x).isNaN = false → (decodeF f y).isNaN = false →
       (ltV (decodeF f x) (decodeF f y) = true → fMinMax f big x y = if big then y else x) ∧
       (ltV (decodeF f y) (decodeF f x) = true → eqV (decodeF f x) (decodeF f y) = false →
         ltV (decodeF f x) (decodeF f y) = false → fMinMax f big x y = if big then x else y) ∧
       (ltV (decodeF f x) (decodeF f y) = false → eqV (decodeF f x) (decodeF f y) = true →
         fMinMax f big x y = if x / f.signBit % 2 = 1 then (if big then y else x) else (if big then x else y))))

/-- R122. VFABS, VFNEG and VFCLASS raise no flag; the rounding forms give NaNs, infinities and integral values back, and raise inexact
alone. The integral values between which R122's forms choose: below and above m·2^e there are the magnitudes q and q + 1, and the directed
forms, the form toward zero and the form to nearest, ties to even, take the one that the rule names. That a routed operand is read before
any lane is written is how the spec is read in LOG 37. -/
def Obligations.FloatSingleOperand : Prop :=
  (∀ (p : Bool) (d b : Reg) (r : Route) (s : State) (c : Cur), Issues s c 1 → InV c [d.val, b.val] →
     let y := fun l => (routed c.w b r l).toNat
     let v := fun l => decodeF f32 (y l)
     let lab := vlab c.w b ||| routeLab c.w r ||| c.w.ctxlbl
     WritesV (.vfabs p d b r) p 1 d false
       (fun l => BitVec.ofNat 32 (if (v l).isNaN then f32.nanBits else y l % 2 ^ 31)) lab s c ∧
     WritesV (.vfneg p d b r) p 1 d false
       (fun l => if (v l).isNaN then BitVec.ofNat 32 f32.nanBits else routed c.w b r l ^^^ 0x8000_0000) lab s c ∧
     (∃ k : Nat → Nat, WritesV (.vfclass p d b r) p 1 d false (fun l => BitVec.ofNat 32 (2 ^ k l)) lab s c ∧
       ∀ l, k l ≤ 8 ∧ (k l = 8 ↔ (v l).isNaN = true) ∧ (k l = 0 ↔ v l = .inf true) ∧ (k l = 7 ↔ v l = .inf false) ∧
         ((k l = 3 ∨ k l = 4) ↔ y l % 2 ^ 31 = 0) ∧ ((k l = 2 ∨ k l = 5) ↔ (y l / 2 ^ 23 % 2 ^ 8 = 0 ∧ y l % 2 ^ 23 ≠ 0)) ∧
         ((k l = 4 ∨ k l = 5 ∨ k l = 6 ∨ k l = 7) → y l < 2 ^ 31) ∧ (k l < 4 → 2 ^ 31 ≤ y l)) ∧
     (∀ e : Rounding × Instr, e ∈ [(.near, .vfrndn p d b r), (.zero, .vfrndz p d b r), (.down, .vfrndd p d b r), (.up, .vfrndu p d b r)] →
       ∃ f : Nat → Word × Flags, WritesVF e.2 p d false f lab s c ∧ ∀ l,
         ((v l).isNaN = true → f l = (BitVec.ofNat 32 f32.nanBits, 0)) ∧
         (∀ n, v l = .inf n → f l = (BitVec.ofNat 32 (y l), 0)) ∧
         (∀ n m k, v l = .fin n m k →
           f l = (BitVec.ofNat 32 (roundF f32 (.fin n (roundInt e.1 n m k).1 0)).1, if (roundInt e.1 n m k).2 then fInexact else 0)))) ∧
  (∀ (n : Bool) (m : Nat) (e : Int), e < 0 →
     let k := (-e).toNat
     let q := m / 2 ^ k
     let exact := m % 2 ^ k = 0
     (∀ md, (roundInt md n m e).2 = !decide exact) ∧
     (∀ md, exact → (roundInt md n m e).1 = q) ∧
     ((roundInt .zero n m e).1 = q) ∧
     (¬ exact → (roundInt .down n m e).1 = if n then q + 1 else q) ∧
     (¬ exact → (roundInt .up n m e).1 = if n then q else q + 1) ∧
     (2 * (m % 2 ^ k) < 2 ^ k → (roundInt .near n m e).1 = q) ∧
     (2 * (m % 2 ^ k) > 2 ^ k → (roundInt .near n m e).1 = q + 1) ∧
     (2 * (m % 2 ^ k) = 2 ^ k → (roundInt .near n m e).1 = if q % 2 = 0 then q else q + 1))

/-- R123 to R126. Conversions: to and from integers, between formats, packing into and unpacking from a byte, narrowing and widening of
bytes and halves. R94. F32 to I32: the rounded value where it fits; a NaN gives 0, and what does not fit the nearest bound, raising
invalid alone. That a routed operand is read before any lane is written is how the spec is read in LOG 37. -/
def Obligations.Conversions : Prop :=
  ((∀ (p hi : Bool) (j : Fin 4) (t : Tapered) (d a : Reg) (s : State) (c : Cur), Issues s c 1 → InV c [d.val, a.val] →
     let x := fun l => c.w.lane a l
     let z := fun l => c.w.lane d l
     let lab := vlab c.w a ||| c.w.ctxlbl
     let lab2 := vlab c.w a ||| vlab c.w d ||| c.w.ctxlbl
     let half := fun (v : Word) => (if hi then v.toNat / 2 ^ 16 else v.toNat % 2 ^ 16)
     let byte := fun (v : Word) => v.toNat / 2 ^ (8 * j.val) % 2 ^ 8
     let putByte := fun (v : Word) (b : Nat) => (v &&& ~~~(BitVec.ofNat 32 (255 * 2 ^ (8 * j.val)))) ||| BitVec.ofNat 32 (b * 2 ^ (8 * j.val))
     let putHalf := fun (v : Word) (b : Nat) =>
       if hi then BitVec.ofNat 32 (b * 2 ^ 16 + v.toNat % 2 ^ 16) else BitVec.ofNat 32 (v.toNat / 2 ^ 16 * 2 ^ 16 + b)
     let clamp := fun (n : Nat) (v : Word) => (max (-2 ^ (n - 1)) (min (2 ^ (n - 1) - 1) v.toInt) % 2 ^ n).toNat
     WritesVF (.vcvt p .f2i d a) p d false (fun l => fToInt .near (x l).toNat) lab s c ∧
     WritesVF (.vcvt p .f2iz d a) p d false (fun l => fToInt .zero (x l).toNat) lab s c ∧
     WritesVF (.vcvt p .i2f d a) p d false
       (fun l => (BitVec.ofNat 32 (roundF f32 (Fv.ofInt (x l).toInt)).1, (roundF f32 (Fv.ofInt (x l).toInt)).2)) lab s c ∧
     WritesVF (.vcvt p .n2f d a) p d false
       (fun l => (BitVec.ofNat 32 (roundF f32 (Fv.ofInt (x l).toNat)).1, (roundF f32 (Fv.ofInt (x l).toNat)).2)) lab s c ∧
     WritesV (.vcvt p (.h2f hi) d a) p 1 d false (fun l => BitVec.ofNat 32 (roundF f32 (decodeF f16 (half (x l)))).1) lab s c ∧
     WritesV (.vcvt p (.b2f hi) d a) p 1 d false (fun l => BitVec.ofNat 32 (roundF f32 (decodeF bf16 (half (x l)))).1) lab s c ∧
     WritesVF (.vpkt p t j d a) p d true
       (fun l => (putByte (z l) (roundLT t (decodeF f32 (x l).toNat)).1, (roundLT t (decodeF f32 (x l).toNat)).2)) lab2 s c ∧
     WritesV (.vupkt p t j d a) p 1 d false (fun l => BitVec.ofNat 32 (roundF f32 (taperedV t (byte (x l)))).1) lab s c ∧
     WritesV (.vcvti p (.nb j) d a) p 1 d true (fun l => putByte (z l) (clamp 8 (x l))) lab2 s c ∧
     WritesV (.vcvti p (.nh hi) d a) p 1 d true (fun l => putHalf (z l) (clamp 16 (x l))) lab2 s c ∧
     WritesV (.vcvti p (.sb j) d a) p 1 d false (fun l => (BitVec.ofNat 8 (byte (x l))).signExtend 32) lab s c ∧
     WritesV (.vcvti p (.zb j) d a) p 1 d false (fun l => BitVec.ofNat 32 (byte (x l))) lab s c ∧
     WritesV (.vcvti p (.sh hi) d a) p 1 d false (fun l => (BitVec.ofNat 16 (half (x l))).signExtend 32) lab s c ∧
     WritesV (.vcvti p (.zh hi) d a) p 1 d false (fun l => BitVec.ofNat 32 (half (x l))) lab s c) ∧
   ∀ (p : Bool) (d a b : Reg) (r : Route) (s : State) (c : Cur), Issues s c 1 → InV c [d.val, a.val, b.val] →
     let lab := vlab c.w a ||| vlab c.w b ||| routeLab c.w r ||| c.w.ctxlbl
     let two := fun (f : Fmt) (l : Nat) =>
       let e0 := roundF f (decodeF f32 (c.w.lane a l).toNat)
       let e1 := roundF f (decodeF f32 (routed c.w b r l).toNat)
       (BitVec.ofNat 32 (e0.1 + 2 ^ 16 * e1.1), e0.2 ||| e1.2)
     WritesVF (.vcvt p (.f2h b r) d a) p d false (two f16) lab s c ∧
     WritesVF (.vcvt p (.f2b b r) d a) p d false (two bf16) lab s c) ∧
  (∀ (md : Rounding) (x : Nat),
     ((decodeF f32 x).isNaN = true → fToInt md x = (0, fInvalid)) ∧
     (decodeF f32 x = .inf true → fToInt md x = (0x8000_0000, fInvalid)) ∧
     (decodeF f32 x = .inf false → fToInt md x = (0x7FFF_FFFF, fInvalid)) ∧
     (∀ n m e, decodeF f32 x = .fin n m e →
       let i : Int := if n then -((roundInt md n m e).1 : Int) else (roundInt md n m e).1
       (i > 2 ^ 31 - 1 → fToInt md x = (0x7FFF_FFFF, fInvalid)) ∧
       (i < -2 ^ 31 → fToInt md x = (0x8000_0000, fInvalid)) ∧
       (-2 ^ 31 ≤ i → i ≤ 2 ^ 31 - 1 → fToInt md x = (BitVec.ofInt 32 i, if (roundInt md n m e).2 then fInexact else 0))))

/-- R127, R128. Each condition of VCMPI and VCMPF into the bits of the active lanes of a mask, which the select then reads. That a routed
operand is read before any lane is written is how the spec is read in LOG 37. -/
def Obligations.ComparesSelect : Prop :=
  (∀ (p : Bool) (m : MReg) (d a b : Reg) (r : Route) (s : State) (c : Cur), Issues s c 1 → InV c [a.val, b.val] →
     let x := fun l => c.w.lane a l
     let y := fun l => routed c.w b r l
     let u := fun l => decodeF f32 (x l).toNat
     let v := fun l => decodeF f32 (y l).toNat
     let lab := vlab c.w a ||| vlab c.w b ||| routeLab c.w r ||| c.w.ctxlbl
     WritesM (.vcmpi p .eq m a b r) p m c.act (fun l => x l == y l) lab s c ∧
     WritesM (.vcmpi p .ne m a b r) p m c.act (fun l => x l != y l) lab s c ∧
     WritesM (.vcmpi p .lt m a b r) p m c.act (fun l => decide ((x l).toInt < (y l).toInt)) lab s c ∧
     WritesM (.vcmpi p .le m a b r) p m c.act (fun l => decide ((x l).toInt ≤ (y l).toInt)) lab s c ∧
     WritesM (.vcmpi p .ltn m a b r) p m c.act (fun l => decide ((x l).toNat < (y l).toNat)) lab s c ∧
     WritesM (.vcmpi p .len m a b r) p m c.act (fun l => decide ((x l).toNat ≤ (y l).toNat)) lab s c ∧
     WritesM (.vcmpi p .bits m a b r) p m c.act (fun l => x l &&& y l != 0) lab s c ∧
     WritesM (.vcmpf p .eq m a b r) p m c.act (fun l => eqV (u l) (v l)) lab s c ∧
     WritesM (.vcmpf p .ne m a b r) p m c.act (fun l => !eqV (u l) (v l)) lab s c ∧
     WritesM (.vcmpf p .lt m a b r) p m c.act (fun l => ltV (u l) (v l)) lab s c ∧
     WritesM (.vcmpf p .le m a b r) p m c.act (fun l => leV (u l) (v l)) lab s c ∧
     WritesM (.vcmpf p .un m a b r) p m c.act (fun l => (u l).isNaN || (v l).isNaN) lab s c ∧
     WritesM (.vcmpf p .ord m a b r) p m c.act (fun l => !(u l).isNaN && !(v l).isNaN) lab s c ∧
     (d.val < c.g.vdecl → WritesV (.vsel p d a b r m) p 1 d false
       (fun l => if (c.w.mreg m).val.getLsbD l then x l else y l)
       (vlab c.w a ||| vlab c.w b ||| routeLab c.w r ||| (c.w.mreg m).lab ||| c.w.ctxlbl) s c)) ∧
  ∀ (w : Nat) (rest : List Nat), fld w 31 1 = 0 →
    (fld w 24 6 = 0x1A → fld w 0 3 = 7 → NoInstr .illegalOp illegalOp (w :: rest)) ∧
    (fld w 24 6 = 0x1B → 6 ≤ fld w 0 3 → NoInstr .illegalOp illegalOp (w :: rest))

/-- R129, R132. The functions of the special-function unit and the division take an entry that returns 40 and 64 cycles after issue, with
the results of the active lanes, which the next park writes. R131. The special operands of the functions: NaNs, zeros, infinities and
negative numbers. Between the bounds of the spec the results are free values (the model's choice, LOG 9). -/
def Obligations.SpecialFunctions : Prop :=
  ((∀ (p : Bool) (d b : Reg) (r : Route) (s : State) (c : Cur), Issues s c 1 → RoomSfu c → InV c [d.val, b.val] →
     let y := fun l => (routed c.w b r l).toNat
     let lab := vlab c.w b ||| routeLab c.w r ||| c.w.ctxlbl
     ∀ e : Nat × Instr, e ∈ [(0, .vrcp p d b r), (1, .vrsq p d b r), (2, .vsqrt p d b r), (3, .vexp2 p d b r), (4, .vlog2 p d b r),
         (5, .vsin p d b r), (6, .vcos p d b r), (7, .vtanh p d b r)] →
       ∃ fl : Flags, Enters e.2 p 40 [RegWrite.lanes d c.act (fun l => BitVec.ofNat 32 (sfu e.1 (y l)).1) lab] fl lab none s c ∧
         ∀ k, fl.getLsbD k = (List.range 64).any fun l => c.act.getLsbD l && (sfu e.1 (y l)).2.getLsbD k) ∧
   ∀ (p : Bool) (d a b : Reg) (r : Route) (s : State) (c : Cur), Issues s c 1 → RoomSfu c → InV c [d.val, a.val, b.val] →
     let q := fun l => divV (decodeF f32 (c.w.lane a l).toNat) (decodeF f32 (routed c.w b r l).toNat)
     let lab := vlab c.w a ||| vlab c.w b ||| routeLab c.w r ||| c.w.ctxlbl
     ∃ fl : Flags, Enters (.vfdiv p d a b r) p 64
         [RegWrite.lanes d c.act (fun l => BitVec.ofNat 32 (roundF f32 (q l).1).1) lab] fl lab none s c ∧
       ∀ k, fl.getLsbD k = (List.range 64).any fun l => c.act.getLsbD l && ((q l).2 ||| (roundF f32 (q l).1).2).getLsbD k) ∧
  ((∀ fn x, fn < 8 → (decodeF f32 x).isNaN = true → sfu fn x = (f32.nanBits, 0)) ∧
   (sfu 0 0 = (0x7F80_0000, fDivZero) ∧ sfu 0 0x8000_0000 = (0xFF80_0000, fDivZero) ∧
     sfu 0 0x7F80_0000 = (0, 0) ∧ sfu 0 0xFF80_0000 = (0x8000_0000, 0)) ∧
   (sfu 1 0 = (0x7F80_0000, fDivZero) ∧ sfu 1 0x8000_0000 = (0xFF80_0000, fDivZero) ∧ sfu 1 0x7F80_0000 = (0, 0)) ∧
   (sfu 2 0 = (0, 0) ∧ sfu 2 0x8000_0000 = (0x8000_0000, 0) ∧ sfu 2 0x7F80_0000 = (0x7F80_0000, 0)) ∧
   (∀ fn x m e, fn = 1 ∨ fn = 2 ∨ fn = 4 → decodeF f32 x = .fin true m e → m ≠ 0 → sfu fn x = (f32.nanBits, fInvalid)) ∧
   (∀ fn, fn = 1 ∨ fn = 2 ∨ fn = 4 → sfu fn 0xFF80_0000 = (f32.nanBits, fInvalid)) ∧
   (sfu 3 0xFF80_0000 = (0, 0) ∧ sfu 3 0x7F80_0000 = (0x7F80_0000, 0) ∧ sfu 3 0 = (0x3F80_0000, 0) ∧ sfu 3 0x8000_0000 = (0x3F80_0000, 0)) ∧
   (sfu 4 0 = (0xFF80_0000, fDivZero) ∧ sfu 4 0x8000_0000 = (0xFF80_0000, fDivZero) ∧ sfu 4 0x3F80_0000 = (0, 0) ∧
     sfu 4 0x7F80_0000 = (0x7F80_0000, 0)) ∧
   (∀ fn, fn = 5 ∨ fn = 6 → sfu fn 0x7F80_0000 = (f32.nanBits, fInvalid) ∧ sfu fn 0xFF80_0000 = (f32.nanBits, fInvalid)) ∧
   (sfu 7 0x7F80_0000 = (0x3F80_0000, 0) ∧ sfu 7 0xFF80_0000 = (0xBF80_0000, 0) ∧ sfu 7 0 = (0, 0) ∧ sfu 7 0x8000_0000 = (0x8000_0000, 0)))

/-- R134, R135, R137. VRNG draws for its active lanes and counts their draws; no other lane draws; RNGKEY sets the key and leaves the
counts. -/
def Obligations.RandomNumbers : Prop :=
  ∀ (p : Bool) (d a : Reg) (k : Fin 64) (s : State) (c : Cur), Issues s c 1 →
    let w0 := fun (l : Nat) => (philox (BitVec.ofNat 32 ((c.g.lin * c.g.nwaves + c.ref.wave) * 64 + l)) (c.w.rngctr.getD l 0)
      (BitVec.ofNat 32 k.val) 0 (c.w.rngkey.setWidth 32) (BitVec.ofNat 32 (c.w.rngkey.toNat / 2 ^ 32))).1
    (d.val < c.g.vdecl → ∀ f32 : Bool, ∃ t w', exec (.vrng p f32 d k) s = .next t ∧ OnlyWave c s t w' ∧
      (∀ l, l < 64 → c.act.getLsbD l = true → (f32 = false → w'.lane d l = w0 l) ∧
        (f32 = true → decodeF Sys2Proof.Machine.f32 (w'.lane d l).toNat = decodeF Sys2Proof.Machine.f32
          (roundF Sys2Proof.Machine.f32 (.fin false ((w0 l).toNat / 2 ^ 8) (-24))).1)) ∧
      (∀ l, l < 64 → c.act.getLsbD l = false → w'.lane d l = c.w.lane d l) ∧
      (w'.vreg d).lab = (if c.act ≠ BitVec.allOnes 64 then c.w.rnglab ||| c.w.ctxlbl ||| (c.w.vreg d).lab else c.w.rnglab ||| c.w.ctxlbl) ∧
      (∀ l, l < 64 → w'.rngctr.getD l 0 = c.w.rngctr.getD l 0 + if c.act.getLsbD l then 1 else 0) ∧
      w'.rngkey = c.w.rngkey ∧ w'.rnglab = c.w.rnglab ∧ (∀ n : Reg, n ≠ d → w'.vreg n = c.w.vreg n) ∧
      SameS c.w w' ∧ SameM c.w w' ∧ SameX c.w w' ∧ SameTrap c.w w' ∧ SameMisc c.w w' ∧ SameFlags c.w w' ∧ SameCtx c.w w' ∧
      SameEntries c.w w' ∧ Advances p 1 c s w') ∧
    (even a = true → ∃ t w', exec (.rngkey p a) s = .next t ∧ OnlyWave c s t w' ∧
      w'.rngkey = BitVec.ofNat 64 ((c.w.sreg a).val.toNat + 2 ^ 32 * (c.w.sreg (a.val + 1)).val.toNat) ∧
      w'.rnglab = (c.w.sreg a).lab ||| (c.w.sreg (a.val + 1)).lab ||| c.w.ctxlbl ∧ w'.rngctr = c.w.rngctr ∧
      SameV c.w w' ∧ SameS c.w w' ∧ SameM c.w w' ∧ SameX c.w w' ∧ SameTrap c.w w' ∧ SameMisc c.w w' ∧ SameFlags c.w w' ∧
      SameCtx c.w w' ∧ SameEntries c.w w' ∧ Advances p 1 c s w')

/-- R164 to R168. Compress, expand, slide, permute, scan: only active lanes are written, source lanes are read whatever their state, and
every operand before any lane is written. -/
def Obligations.LaneRearrangement : Prop :=
  (∀ (p : Bool) (d a b : Reg) (r : Route) (k : MReg) (op : RedOp) (s : State) (c : Cur), Issues s c 1 → InV c [d.val, a.val] →
     let x := fun l => c.w.lane a l
     let act : List Nat := (List.range 64).filter fun l => c.act.getLsbD l
     let sel : List Nat := act.filter fun l => (c.w.mreg k).val.getLsbD l
     let n := (sval c.w b).toNat
     let labk := vlab c.w a ||| (c.w.mreg k).lab ||| c.w.ctxlbl
     let labs := vlab c.w a ||| slab c.w b ||| c.w.ctxlbl
     (∃ f : Nat → Word, WritesV (.vcomp p d a k) p 1 d false f labk s c ∧
       ∀ j l : Nat, act[j]? = some l → f l = match sel[j]? with | some m => x m | none => 0) ∧
     (∃ f : Nat → Word, WritesV (.vexpd p d a k) p 1 d false f labk s c ∧
       (∀ j l : Nat, sel[j]? = some l → ∀ m : Nat, act[j]? = some m → f l = x m) ∧
       (∀ l : Nat, l ∈ act → l ∉ sel → f l = 0)) ∧
     WritesV (.vslup p d a b) p 1 d false (fun l => if n ≤ l then x (l - n) else 0) labs s c ∧
     WritesV (.vsldn p d a b) p 1 d false (fun l => if l + n ≤ 63 then x (l + n) else 0) labs s c ∧
     (b.val < c.g.vdecl → WritesV (.vperm p d a b r) p 1 d false (fun l => x ((routed c.w b r l).toNat % 64))
       (vlab c.w a ||| vlab c.w b ||| routeLab c.w r ||| c.w.ctxlbl) s c) ∧
     (op ≠ .fadd → ∃ f : Nat → Word, WritesV (.vscan p op d a) p 1 d false f (vlab c.w a ||| c.w.ctxlbl) s c ∧
       (∀ l : Nat, act[0]? = some l → f l = x l) ∧
       (∀ j l m : Nat, act[j]? = some l → act[j + 1]? = some m → f m = (redStep op (f l) (x m)).1)) ∧
     (∃ f : Nat → Word × Flags, WritesVF (.vscan p .fadd d a) p d false f (vlab c.w a ||| c.w.ctxlbl) s c ∧
       (∀ l : Nat, act[0]? = some l → f l = (x l, 0)) ∧
       (∀ j l m : Nat, act[j]? = some l → act[j + 1]? = some m →
         (f m).1 = (redStep .fadd (f l).1 (x m)).1 ∧ (f m).2 = (f l).2 ||| (redStep .fadd (f l).1 (x m)).2))) ∧
  ∀ (w : Nat) (rest : List Nat), fld w 31 1 = 0 →
    (fld w 24 6 = 0x20 ∨ fld w 24 6 = 0x21 → fld w 6 6 ≠ 0 ∨ fld w 3 3 ≠ 0 → NoInstr .reservedEnc reservedEnc (w :: rest)) ∧
    (fld w 24 6 = 0x22 ∨ fld w 24 6 = 0x23 → (fld w 0 3 ≠ 0 → NoInstr .illegalOp illegalOp (w :: rest)) ∧
      (fld w 0 3 = 0 → fld w 3 3 ≠ 0 → NoInstr .reservedEnc reservedEnc (w :: rest))) ∧
    (fld w 24 6 = 0x24 → fld w 0 3 ≠ 0 → NoInstr .illegalOp illegalOp (w :: rest)) ∧
    (fld w 24 6 = 0x25 → fld w 6 6 ≠ 0 ∨ fld w 3 3 ≠ 0 → NoInstr .reservedEnc reservedEnc (w :: rest))

/-- R170, R171. XSET sets an index register, or traps REG_BOUND and leaves it; VMOVX and VMOVXW reach the register that it names. -/
def Obligations.IndexRegisters : Prop :=
  ∀ (p : Bool) (k : Fin 4) (d a b : Reg) (imm : BitVec 12) (s : State) (c : Cur), Issues s c 1 →
    let x := c.w.xreg k
    let base := (sval c.w b).toNat % 64
    let len := (sval c.w b).toNat / 2 ^ 8 % 128
    let sets := fun (i : Instr) (y : XReg) => ∃ t w', exec i s = .next t ∧ OnlyWave c s t w' ∧ w'.xreg k = y ∧
      (∀ j : Fin 4, j ≠ k → w'.xreg j = c.w.xreg j) ∧ SameV c.w w' ∧ SameS c.w w' ∧ SameM c.w w' ∧ SameTrap c.w w' ∧ SameRng c.w w' ∧
      SameMisc c.w w' ∧ SameFlags c.w w' ∧ SameCtx c.w w' ∧ SameEntries c.w w' ∧ Advances p 1 c s w'
    (len ≤ 64 → base + len ≤ c.g.vdecl →
      sets (.xset p .set k a b) ⟨sval c.w a, base, len, slab c.w a ||| slab c.w b ||| c.w.ctxlbl⟩) ∧
    ((len > 64 ∨ base + len > c.g.vdecl) → c.w.intrap = false → TrapsAt (.xset p .set k a b) c.pc regBound 0 s c) ∧
    sets (.xset p .val k a 0) ⟨sval c.w a, x.base, x.len, slab c.w a ||| c.w.ctxlbl⟩ ∧
    sets (.xset p .add k a 0) ⟨x.val + sval c.w a, x.base, x.len, x.lab ||| slab c.w a ||| c.w.ctxlbl⟩ ∧
    (d.val < c.g.vdecl → ∀ n : Reg, (x.val.toInt + imm.toInt : Int) = n.val - x.base → 0 ≤ x.val.toInt + imm.toInt →
      x.val.toInt + imm.toInt < x.len →
      WritesV (.vmovx p d k imm) p 1 d false (fun l => c.w.lane n l) (vlab c.w n ||| x.lab ||| c.w.ctxlbl) s c ∧
      ∃ t w', exec (.vmovxw p d k imm) s = .next t ∧ OnlyWave c s t w' ∧
        (∀ l, l < 64 → w'.lane n l = if c.act.getLsbD l then c.w.lane d l else c.w.lane n l) ∧
        (∀ m : Reg, m ≠ n → w'.vreg m = c.w.vreg m) ∧ w'.ctxlbl = c.w.ctxlbl ||| x.lab ∧
        SameS c.w w' ∧ SameM c.w w' ∧ SameX c.w w' ∧ SameTrap c.w w' ∧ SameRng c.w w' ∧ SameMisc c.w w' ∧ SameFlags c.w w' ∧
        SameEntries c.w w' ∧ Advances p 1 c s w')

/-- R139. SALU writes s[sd] from s[sa] and s[sb]; function codes 18 to 63 of its major are no instruction, and SCLZ and SPOPC name no sb.
R140. SSET writes 1 where its condition holds, and 0 otherwise; function codes 6 to 63 are no instruction. -/
def Obligations.UniformArithmetic : Prop :=
  ((∀ (p : Bool) (d a b : Reg) (s : State) (c : Cur), Issues s c 1 →
     let x := sval c.w a
     let y := sval c.w b
     let n := y.toNat % 32
     let lab := slab c.w a ||| slab c.w b ||| c.w.ctxlbl
     let lab1 := slab c.w a ||| c.w.ctxlbl
     WritesS (.sadd p d a b) p 1 d (BitVec.ofNat 32 (x.toNat + y.toNat)) lab s c ∧
     WritesS (.ssub p d a b) p 1 d (BitVec.ofInt 32 (x.toNat - y.toNat)) lab s c ∧
     WritesS (.smul p d a b) p 1 d (BitVec.ofNat 32 (x.toNat * y.toNat)) lab s c ∧
     WritesS (.smulh p d a b) p 1 d (BitVec.extractLsb' 32 32 (BitVec.ofInt 64 (x.toInt * y.toInt))) lab s c ∧
     WritesS (.smulhn p d a b) p 1 d (BitVec.extractLsb' 32 32 (BitVec.ofNat 64 (x.toNat * y.toNat))) lab s c ∧
     WritesS (.sand p d a b) p 1 d (x &&& y) lab s c ∧
     WritesS (.sor p d a b) p 1 d (x ||| y) lab s c ∧
     WritesS (.sxor p d a b) p 1 d (x ^^^ y) lab s c ∧
     WritesS (.sshl p d a b) p 1 d (BitVec.ofNat 32 (x.toNat * 2 ^ n)) lab s c ∧
     WritesS (.sshr p d a b) p 1 d (BitVec.ofNat 32 (x.toNat / 2 ^ n)) lab s c ∧
     WritesS (.ssra p d a b) p 1 d (BitVec.ofInt 32 (x.toInt / 2 ^ n)) lab s c ∧
     WritesS (.smin p d a b) p 1 d (if x.toInt ≤ y.toInt then x else y) lab s c ∧
     WritesS (.smax p d a b) p 1 d (if x.toInt ≥ y.toInt then x else y) lab s c ∧
     WritesS (.sminn p d a b) p 1 d (if x.toNat ≤ y.toNat then x else y) lab s c ∧
     WritesS (.smaxn p d a b) p 1 d (if x.toNat ≥ y.toNat then x else y) lab s c ∧
     (∃ z : Word, WritesS (.sclz p d a) p 1 d z lab1 s c ∧ z.toNat ≤ 32 ∧ x.toNat < 2 ^ (32 - z.toNat) ∧
       (z.toNat < 32 → x.getLsbD (31 - z.toNat) = true)) ∧
     WritesS (.spopc p d a) p 1 d (BitVec.ofNat 32 ((List.range 32).filter fun k => x.getLsbD k).length) lab1 s c ∧
     WritesS (.srotl p d a b) p 1 d (x.rotateLeft n) lab s c) ∧
   ∀ (w : Nat) (rest : List Nat), fld w 31 1 = 1 → fld w 24 6 = 0 →
     (18 ≤ fld w 0 6 → NoInstr .illegalOp illegalOp (w :: rest)) ∧
     ((fld w 0 6 = 15 ∨ fld w 0 6 = 16) → fld w 6 6 ≠ 0 → NoInstr .reservedEnc reservedEnc (w :: rest))) ∧
  ((∀ (p : Bool) (d a b : Reg) (s : State) (c : Cur), Issues s c 1 →
     let x := sval c.w a
     let y := sval c.w b
     let lab := slab c.w a ||| slab c.w b ||| c.w.ctxlbl
     WritesS (.sset p .eq d a b) p 1 d (if x = y then 1 else 0) lab s c ∧
     WritesS (.sset p .ne d a b) p 1 d (if x ≠ y then 1 else 0) lab s c ∧
     WritesS (.sset p .lt d a b) p 1 d (if x.toInt < y.toInt then 1 else 0) lab s c ∧
     WritesS (.sset p .le d a b) p 1 d (if x.toInt ≤ y.toInt then 1 else 0) lab s c ∧
     WritesS (.sset p .ltn d a b) p 1 d (if x.toNat < y.toNat then 1 else 0) lab s c ∧
     WritesS (.sset p .len d a b) p 1 d (if x.toNat ≤ y.toNat then 1 else 0) lab s c) ∧
   ∀ (w : Nat) (rest : List Nat), fld w 31 1 = 1 → fld w 24 6 = 1 → 6 ≤ fld w 0 6 → NoInstr .illegalOp illegalOp (w :: rest))

/-- R141, R60. The uniform immediate forms, with imm12 in one word and with imm32 in the three words of a LIT group, which advances its
lanes by three (R149). R142, R143. SLIL, SLIH and SSEL, whose label holds those of all three operands. -/
def Obligations.UniformImmediates : Prop :=
  ((∀ (p : Bool) (d a : Reg) (imm : BitVec 12) (n : Fin 32) (s : State) (c : Cur), Issues s c 1 →
     let x := sval c.w a
     let i := imm.signExtend 32
     let u := imm.setWidth 32
     let lab := slab c.w a ||| c.w.ctxlbl
     WritesS (.saddi p d a imm) p 1 d (BitVec.ofNat 32 (x.toNat + i.toNat)) lab s c ∧
     WritesS (.sandi p d a imm) p 1 d (x &&& u) lab s c ∧
     WritesS (.sori p d a imm) p 1 d (x ||| u) lab s c ∧
     WritesS (.sxori p d a imm) p 1 d (x ^^^ u) lab s c ∧
     WritesS (.sshli p d a n) p 1 d (BitVec.ofNat 32 (x.toNat * 2 ^ n.val)) lab s c ∧
     WritesS (.sshri p d a n) p 1 d (BitVec.ofNat 32 (x.toNat / 2 ^ n.val)) lab s c ∧
     WritesS (.ssrai p d a n) p 1 d (BitVec.ofInt 32 (x.toInt / 2 ^ n.val)) lab s c) ∧
   (∀ (p : Bool) (d a : Reg) (i : BitVec 32) (s : State) (c : Cur), Issues s c 3 →
     let x := sval c.w a
     let lab := slab c.w a ||| c.w.ctxlbl
     WritesS (.lit p .saddi d a i) p 3 d (BitVec.ofNat 32 (x.toNat + i.toNat)) lab s c ∧
     WritesS (.lit p .sandi d a i) p 3 d (x &&& i) lab s c ∧
     WritesS (.lit p .sori d a i) p 3 d (x ||| i) lab s c ∧
     WritesS (.lit p .sxori d a i) p 3 d (x ^^^ i) lab s c ∧
     (i.toNat < 32 →
       WritesS (.lit p .sshli d a i) p 3 d (BitVec.ofNat 32 (x.toNat * 2 ^ i.toNat)) lab s c ∧
       WritesS (.lit p .sshri d a i) p 3 d (BitVec.ofNat 32 (x.toNat / 2 ^ i.toNat)) lab s c ∧
       WritesS (.lit p .ssrai d a i) p 3 d (BitVec.ofInt 32 (x.toInt / 2 ^ i.toNat)) lab s c)) ∧
   ∀ (w : Nat) (rest : List Nat), fld w 31 1 = 1 → 6 ≤ fld w 24 6 → fld w 24 6 ≤ 8 → fld w 5 7 ≠ 0 →
     NoInstr .reservedEnc reservedEnc (w :: rest)) ∧
  ((∀ (p : Bool) (d a b e : Reg) (imm : BitVec 16) (s : State) (c : Cur), Issues s c 1 →
     WritesS (.slil p d imm) p 1 d (imm.setWidth 32) c.w.ctxlbl s c ∧
     WritesS (.slih p d imm) p 1 d (imm ++ (sval c.w d).extractLsb' 0 16) (slab c.w d ||| c.w.ctxlbl) s c ∧
     WritesS (.ssel p d a b e) p 1 d (if sval c.w e ≠ 0 then sval c.w a else sval c.w b)
       (slab c.w e ||| slab c.w a ||| slab c.w b ||| c.w.ctxlbl) s c ∧
     (e = 0 → WritesS (.ssel p d a b e) p 1 d (sval c.w b) (slab c.w e ||| slab c.w a ||| slab c.w b ||| c.w.ctxlbl) s c)) ∧
   ∀ (w : Nat) (rest : List Nat), fld w 31 1 = 1 → (fld w 24 6 = 0x0A ∨ fld w 24 6 = 0x0B) → fld w 16 2 ≠ 0 →
     NoInstr .reservedEnc reservedEnc (w :: rest))

/-- R144, R145, R69. SRD reads any special register, with the latches and the clearing that go with some of them; SWR writes the three
that are writable, and traps PRIV on every other. -/
def Obligations.SpecialRegisters : Prop :=
  (∀ (p : Bool) (d : Reg) (n : SpecialReg) (s : State) (c : Cur), Issues s c 1 →
    ∃ t w', exec (.srd p d n) s = .next t ∧ OnlyWave c s t w' ∧
      w'.sreg d = (if d = 0 then UReg.zero else
        ⟨BitVec.ofNat 32 (specialReg s c n), c.w.ctxlbl ||| (if n = .rlane then c.w.rlane.lab else if n = .fflags then c.w.fflags.lab
          else if n = .trappc then c.w.tpc.lab else 0)⟩) ∧
      (∀ k : Reg, k ≠ d → w'.sreg k = c.w.sreg k) ∧
      w'.ocych = (if n = .ocycl then BitVec.ofNat 32 (c.g.ocycAt s.now / 2 ^ 32) else c.w.ocych) ∧
      w'.lclkh = (if n = .lclkl then BitVec.ofNat 32 ((s.core c.core).lclk / 2 ^ 32 % 2 ^ 16) else c.w.lclkh) ∧
      w'.overrun = (if n = .omode then false else c.w.overrun) ∧
      w'.rlane = c.w.rlane ∧ w'.pathcnt = c.w.pathcnt ∧ w'.eseen = c.w.eseen ∧ w'.claims = c.w.claims ∧ w'.held.map pendEntry = c.w.held.map pendEntry ∧
      w'.exited = c.w.exited ∧ SameV c.w w' ∧ SameM c.w w' ∧ SameX c.w w' ∧ SameTrap c.w w' ∧ SameRng c.w w' ∧ SameFlags c.w w' ∧
      SameCtx c.w w' ∧ SameEntries c.w w' ∧ Advances p 1 c s w') ∧
  (∀ (p : Bool) (a : Reg) (n : SpecialReg) (s : State) (c : Cur), Issues s c 1 →
    let x := sval c.w a
    let lab := slab c.w a ||| c.w.ctxlbl
    (n = .rlane ∨ n = .fflags ∨ n = .trappc → ∃ t w', exec (.swr p n a) s = .next t ∧ OnlyWave c s t w' ∧
      w'.rlane = (if n = .rlane then ⟨x &&& 63, lab⟩ else c.w.rlane) ∧
      w'.fflags = (if n = .fflags then ⟨x &&& 31, lab⟩ else c.w.fflags) ∧
      w'.tpc = (if n = .trappc then ⟨x &&& 0x7FFF, lab⟩ else c.w.tpc) ∧
      w'.tcause = c.w.tcause ∧ w'.taddr = c.w.taddr ∧ w'.tpcv = c.w.tpcv ∧ w'.intrap = c.w.intrap ∧
      w'.ocych = c.w.ocych ∧ w'.lclkh = c.w.lclkh ∧ w'.overrun = c.w.overrun ∧ w'.pathcnt = c.w.pathcnt ∧ w'.eseen = c.w.eseen ∧
      w'.claims = c.w.claims ∧ w'.held = c.w.held ∧ w'.exited = c.w.exited ∧
      SameV c.w w' ∧ SameS c.w w' ∧ SameM c.w w' ∧ SameX c.w w' ∧ SameRng c.w w' ∧ SameCtx c.w w' ∧ SameEntries c.w w' ∧
      Advances p 1 c s w') ∧
    (¬(n = .rlane ∨ n = .fflags ∨ n = .trappc) → c.w.intrap = false → TrapsAt (.swr p n a) c.pc privOp 0 s c)) ∧
  (∀ (w : Nat) (rest : List Nat), fld w 31 1 = 1 → (fld w 24 6 = 0x0D ∨ fld w 24 6 = 0x0E) →
    SpecialReg.ofCode (fld w 0 12) = none → NoInstr .illegalOp illegalOp (w :: rest)) ∧
  (∀ (w : Nat) (rest : List Nat), fld w 31 1 = 1 → fld w 24 6 = 0x0D → fld w 12 6 ≠ 0 → SpecialReg.ofCode (fld w 0 12) ≠ none →
    NoInstr .reservedEnc reservedEnc (w :: rest)) ∧
  ∀ (w : Nat) (rest : List Nat) (n : SpecialReg), fld w 31 1 = 1 → fld w 24 6 = 0x0E → fld w 18 6 ≠ 0 →
    SpecialReg.ofCode (fld w 0 12) = some n → n.writable = true → NoInstr .reservedEnc reservedEnc (w :: rest)

/-- R146. The mask operations: every mask write writes all 64 bits; function codes 11 to 63 are no instruction. R162, R163. VLANE reads
one lane, whatever its state; VRED reduces the active lanes in ascending order, each step as one of VSCAN, and raises the flags of its
steps for FADD only. -/
def Obligations.MasksLaneReads : Prop :=
  ((∀ (p : Bool) (d a b : Reg) (m k j : MReg) (s : State) (c : Cur), Issues s c 1 →
     let x := (c.w.mreg k).val
     let y := (c.w.mreg j).val
     let lab := (c.w.mreg k).lab ||| c.w.ctxlbl
     let labm := (c.w.mreg k).lab ||| (c.w.mreg j).lab ||| c.w.ctxlbl
     let ones := BitVec.allOnes 64
     WritesS (.mrdl p d k) p 1 d (x.extractLsb' 0 32) lab s c ∧
     WritesS (.mrdh p d k) p 1 d (x.extractLsb' 32 32) lab s c ∧
     WritesM (.mwr p m a b) p m ones (fun l => if l < 32 then (sval c.w a).getLsbD l else (sval c.w b).getLsbD (l - 32))
       (slab c.w a ||| slab c.w b ||| c.w.ctxlbl) s c ∧
     WritesS (.mpop p d k) p 1 d (BitVec.ofNat 32 ((List.range 64).filter fun l => x.getLsbD l).length) lab s c ∧
     (x = 0 → WritesS (.mffs p d k) p 1 d 64 lab s c) ∧
     (∀ l, l < 64 → x.getLsbD l = true → (∀ n, n < l → x.getLsbD n = false) → WritesS (.mffs p d k) p 1 d (BitVec.ofNat 32 l) lab s c) ∧
     WritesM (.mand p m k j) p m ones (fun l => x.getLsbD l && y.getLsbD l) labm s c ∧
     WritesM (.mor p m k j) p m ones (fun l => x.getLsbD l || y.getLsbD l) labm s c ∧
     WritesM (.mxor p m k j) p m ones (fun l => x.getLsbD l ^^ y.getLsbD l) labm s c ∧
     WritesM (.mnot p m k) p m ones (fun l => !x.getLsbD l) lab s c ∧
     WritesS (.vany p d k) p 1 d (if x &&& c.act ≠ 0 then 1 else 0) lab s c ∧
     WritesS (.vall p d k) p 1 d (if c.act &&& ~~~x = 0 then 1 else 0) lab s c) ∧
   ∀ (w : Nat) (rest : List Nat), fld w 31 1 = 1 → fld w 24 6 = 0x0F → 11 ≤ fld w 0 6 → NoInstr .illegalOp illegalOp (w :: rest)) ∧
  ((∀ (p : Bool) (d a b : Reg) (s : State) (c : Cur), Issues s c 1 → a.val < c.g.vdecl →
     WritesS (.vlane p d a b) p 1 d (c.w.lane a ((sval c.w b).toNat % 64)) (vlab c.w a ||| slab c.w b ||| c.w.ctxlbl) s c) ∧
   (∀ (p : Bool) (d a b : Reg) (s : State) (c : Cur), Issues s c 1 → c.g.vdecl ≤ a.val → c.w.intrap = false →
     TrapsAt (.vlane p d a b) c.pc regBound 0 s c) ∧
   (∀ (p : Bool) (op : RedOp) (d a : Reg) (s : State) (c : Cur), Issues s c 1 → a.val < c.g.vdecl →
     let act : List Nat := (List.range 64).filter fun l => c.act.getLsbD l
     let lab := vlab c.w a ||| c.w.ctxlbl
     ∃ (f : Nat → Word × Flags) (t : State) (w' : Wave), exec (.vred p op d a) s = .next t ∧ OnlyWave c s t w' ∧
       (∀ l : Nat, act[0]? = some l → f 0 = (c.w.lane a l, 0)) ∧
       (∀ j l : Nat, act[j + 1]? = some l → (f (j + 1)).1 = (redStep op (f j).1 (c.w.lane a l)).1 ∧
         (f (j + 1)).2 = (f j).2 ||| (redStep op (f j).1 (c.w.lane a l)).2) ∧
       (∀ j : Nat, act.length = j + 1 →
         w'.sreg d = (if d = 0 then UReg.zero else ⟨(f j).1, lab⟩) ∧
         w'.fflags = (if op = .fadd then ⟨c.w.fflags.val ||| (f j).2.setWidth 32, c.w.fflags.lab ||| lab⟩ else c.w.fflags)) ∧
       (∀ k : Reg, k ≠ d → w'.sreg k = c.w.sreg k) ∧
       SameV c.w w' ∧ SameM c.w w' ∧ SameX c.w w' ∧ SameTrap c.w w' ∧ SameRng c.w w' ∧ SameMisc c.w w' ∧
       SameCtx c.w w' ∧ SameEntries c.w w' ∧ Advances p 1 c s w') ∧
   (∀ x y : Word, redStep .add x y = (BitVec.ofNat 32 (x.toNat + y.toNat), 0) ∧
     redStep .min x y = (if x.toInt ≤ y.toInt then x else y, 0) ∧ redStep .max x y = (if x.toInt ≥ y.toInt then x else y, 0) ∧
     redStep .minn x y = (if x.toNat ≤ y.toNat then x else y, 0) ∧ redStep .maxn x y = (if x.toNat ≥ y.toNat then x else y, 0) ∧
     redStep .and x y = (x &&& y, 0) ∧ redStep .or x y = (x ||| y, 0) ∧
     redStep .fadd x y = (BitVec.ofNat 32 (roundF f32 (addV (decodeF f32 x.toNat) (decodeF f32 y.toNat)).1).1,
       (addV (decodeF f32 x.toNat) (decodeF f32 y.toNat)).2 ||| (roundF f32 (addV (decodeF f32 x.toNat) (decodeF f32 y.toNat)).1).2)) ∧
   ∀ (w : Nat) (rest : List Nat), fld w 31 1 = 1 →
     (fld w 24 6 = 0x38 → fld w 0 6 ≠ 0 → NoInstr .illegalOp illegalOp (w :: rest)) ∧
     (fld w 24 6 = 0x27 → 8 ≤ fld w 0 6 → NoInstr .illegalOp illegalOp (w :: rest)))

/-- R150, R151. The relative branches: every active lane goes to the target in its slot or to the next word, and CTXLBL takes in the label
that decides; a target outside the slot traps, and so does a branch that may not stand at word 2,047. R152. RET goes to s[sa] in the slot
of its own address; CTXLBL takes in its label, also when RET traps. -/
def Obligations.Branches : Prop :=
  (∀ (p : Bool) (a : Reg) (k : MReg) (off : BitVec 18) (s : State) (c : Cur), IssuesX s c →
     let W : Int := (c.pc % 2048 : Nat)
     let T : Int := W + off.toInt
     let t := c.pc / 2048 * 2048 + T.toNat
     let inside := 0 ≤ T ∧ T ≤ 2047
     (inside → Jumps (.jmp p off) p (fun _ => t) 0 s c) ∧
     (inside → c.pc % 2048 ≠ 2047 →
       Jumps (.br p a off) p (fun _ => if sval c.w a ≠ 0 then t else c.pc + 1) (slab c.w a) s c ∧
       Jumps (.brz p a off) p (fun _ => if sval c.w a = 0 then t else c.pc + 1) (slab c.w a) s c ∧
       Jumps (.vbr p k off) p (fun l => if (c.w.mreg k).val.getLsbD l then t else c.pc + 1) (c.w.mreg k).lab s c ∧
       ∃ u w', exec (.call p a off) s = .next u ∧ OnlyWave c s u w' ∧
         w'.sreg a = (if a = 0 then UReg.zero else ⟨BitVec.ofNat 32 (c.pc + 1), c.w.ctxlbl⟩) ∧
         (∀ n : Reg, n ≠ a → w'.sreg n = c.w.sreg n) ∧
         (∀ l, l < 64 → w'.pcAt l = if c.act.getLsbD l then t else c.w.pcAt l) ∧
         SameV c.w w' ∧ SameM c.w w' ∧ SameX c.w w' ∧ SameTrap c.w w' ∧ SameRng c.w w' ∧ SameMisc c.w w' ∧ SameFlags c.w w' ∧
         SameCtx c.w w' ∧ SameEntries c.w w' ∧ w'.status = (if p then .parked .next else .running) ∧ w'.phase = 0 ∧
         w'.ready = s.now + 1) ∧
     (¬inside → c.w.intrap = false → TrapsAt (.jmp p off) c.pc illegalOp 0 s c) ∧
     (¬inside ∨ c.pc % 2048 = 2047 → c.w.intrap = false →
       TrapsAt (.br p a off) c.pc illegalOp 0 s c ∧ TrapsAt (.brz p a off) c.pc illegalOp 0 s c ∧
       TrapsAt (.vbr p k off) c.pc illegalOp 0 s c ∧ TrapsAt (.call p a off) c.pc illegalOp 0 s c)) ∧
  (∀ (p : Bool) (a : Reg) (s : State) (c : Cur), IssuesX s c →
     let x := (sval c.w a).toNat
     (x < 2 ^ 15 → x / 2048 = c.pc / 2048 → Jumps (.ret p a) p (fun _ => x) (slab c.w a) s c) ∧
     (2 ^ 15 ≤ x ∨ x / 2048 ≠ c.pc / 2048 → c.w.intrap = false → TrapsWith (.ret p a) c.pc illegalOp 0 0 (slab c.w a) s c))

/-- R153, R154, R155. EXIT marks the active lanes, YIELD and NOP go on behind their word; EXIT and YIELD park whatever P is, and a wave
whose lanes have all exited ends with that park. R43. FRAMEW parks; the wave then waits for the first super-frame boundary after the next
cycle at which OCYC has reached its target, with OMODE.OVER set when the target has passed; at that cycle it goes on, and may issue in it.
-/
def Obligations.EndingWaiting : Prop :=
  (∀ (p : Bool) (s : State) (c : Cur),
     (IssuesX s c → ∃ t w', exec (.exit p) s = .next t ∧ OnlyWave c s t w' ∧
       w'.exited = c.w.exited ||| c.act ∧ w'.pcs = c.w.pcs ∧ w'.pend = c.w.pend ∧
       ((∀ l, l < 64 → w'.exited.getLsbD l = true) → w'.status = .parked .ended) ∧
       ((∃ l, l < 64 ∧ w'.exited.getLsbD l = false) → w'.status = .parked .next) ∧
       SameV c.w w' ∧ SameS c.w w' ∧ SameM c.w w' ∧ SameX c.w w' ∧ SameTrap c.w w' ∧ SameRng c.w w' ∧ SameFlags c.w w' ∧
       SameCtx c.w w' ∧ w'.rlane = c.w.rlane ∧ w'.ocych = c.w.ocych ∧ w'.lclkh = c.w.lclkh ∧ w'.overrun = c.w.overrun ∧
       w'.pathcnt = c.w.pathcnt ∧ w'.eseen = c.w.eseen ∧ w'.claims = c.w.claims ∧ w'.held = c.w.held) ∧
     (Issues s c 1 → ∃ t w', exec (.yield p) s = .next t ∧ OnlyWave c s t w' ∧ SameRegs c.w w' ∧ SameCtx c.w w' ∧
       w'.pend = c.w.pend ∧ w'.status = .parked .yielded ∧
       (∀ l, l < 64 → w'.pcAt l = if c.act.getLsbD l then c.w.pcAt l + 1 else c.w.pcAt l)) ∧
     (Issues s c 1 → OnlyAdvances (.nop p) p 1 s c)) ∧
  (∀ (p u : Bool) (a : Reg) (s : State) (c : Cur), wf (.framew p u a) = true →
     let i := Instr.framew p u a
     let now := s.now + 1
     let target := if u then c.w.pair a else 0
     (Issues s c 1 → c.w.phase = 0 → ParksFirst i s c) ∧
     (Resumes s c i → c.w.phase = 1 → ∃ t w' b, exec i s = .next t ∧ OnlyWave c s t w' ∧
       w'.status = .waiting (.untilCycle b) i ∧ w'.phase = 2 ∧
       now < b ∧ b % 256 = 0 ∧ (∀ k, c.g.counting = some k → k ≤ now →
         target ≤ c.g.ocycAt b ∧ ∀ b', now < b' → b' < b → b' % 256 = 0 → c.g.ocycAt b' < target) ∧
       w'.overrun = (c.w.overrun || (u && decide (target ≤ c.g.ocycAt now))) ∧
       w'.ctxlbl = c.w.ctxlbl ||| (if u then c.w.pairLab a else 0) ∧ SameV c.w w' ∧ SameS c.w w' ∧ SameM c.w w' ∧ SameX c.w w' ∧ SameTrap c.w w' ∧
       SameRng c.w w' ∧ SameFlags c.w w' ∧ w'.pcs = c.w.pcs ∧ w'.pend = c.w.pend) ∧
     (Resumes s c i → c.w.phase = 2 → ∃ t w', exec i s = .next t ∧ OnlyWave c s t w' ∧ SameRegs c.w w' ∧ SameCtx c.w w' ∧
       w'.pend = c.w.pend ∧ w'.ready = s.now ∧ w'.status = .running ∧
       (∀ l, l < 64 → w'.pcAt l = if c.act.getLsbD l then c.w.pcAt l + 1 else c.w.pcAt l)))

/-- R158, R156. CFETCH checks the grant, the length and the lanes, then the alignment; it waits while the slot is being filled, is held
while lanes of other waves stand in the slot, and otherwise begins to load; the wave goes on at once with CTXLBL grown. R159. CFWAIT waits
while the slot is held or loading, traps with the cause that a failed load recorded, and otherwise goes on. R160. JMPF parks first; then
CTXLBL takes in the label of s[sa], a word index above 2,047 traps, the wave waits for the slot, a slot that is absent or not granted
traps, and otherwise the active lanes go to it with its label in CTXLBL. -/
def Obligations.Segments : Prop :=
  (∀ (p : Bool) (a b : Reg) (slot : Fin 16) (s : State) (c : Cur), Issues s c 1 → even a = true →
     (s.core c.core).slots.length = 16 →
     let i := Instr.cfetch p a b slot
     let va := c.w.pair a
     let n := (sval c.w b).toNat
     let granted := if slot.val = 15 then privileged s c.g = true else slotGranted (s.core c.core) slot c.g.kernel = true
     let own := (List.range 64).any fun l => !c.w.exited.getLsbD l && c.w.pcAt l / 2048 == slot.val
     (¬granted → c.w.intrap = false → TrapsAt i c.pc privOp 0 s c) ∧
     (granted → (n = 0 ∨ 2048 < n ∨ own = true) → c.w.intrap = false → TrapsAt i c.pc illegalOp 0 s c) ∧
     (granted → 1 ≤ n → n ≤ 2048 → own = false →
       (va % 64 ≠ 0 → c.w.intrap = false → TrapsWith i c.pc misalign va (c.w.pairLab a) 0 s c) ∧
       (va % 64 = 0 →
         ((s.core c.core).slotLoading slot = true → WaitsIn i c.w.phase (.slotBusy slot) s c) ∧
         ((s.core c.core).slotLoading slot = false →
           ∃ t w', exec i s = .next t ∧ t.wave? c.ref = some w' ∧ w'.ctxlbl = c.w.ctxlbl ||| c.w.pairLab a ||| slab c.w b ∧
             SameRegs c.w w' ∧ SameEntries c.w w' ∧ Advances p 1 c s w' ∧
             (∀ r, r ≠ c.ref → t.wave? r = s.wave? r) ∧
             ((t.core c.core).slot slot).st = (if slotOccupied s c.core slot then .held else .loading))))) ∧
  (∀ (p : Bool) (slot : Fin 16) (s : State) (c : Cur), Issues s c 1 →
     let sl := (s.core c.core).slot slot
     let i := Instr.cfwait p slot
     ((sl.st = .held ∨ sl.st = .loading) → WaitsIn i 1 (.slotBusy slot) s c) ∧
     (sl.st = .failed → c.w.intrap = false → TrapsAt i c.pc sl.cause sl.addr s c) ∧
     ((sl.st = .present ∨ sl.st = .empty) → OnlyAdvances i p 1 s c)) ∧
  (∀ (p : Bool) (a : Reg) (slot : Fin 16) (w8 : Fin 256) (s : State) (c : Cur),
     let i := Instr.jmpf p a slot w8
     let word := 8 * w8.val + (sval c.w a).toNat
     let sl := (s.core c.core).slot slot
     (IssuesX s c → c.w.phase = 0 → ParksFirst i s c) ∧
     (Resumes s c i → c.w.phase = 1 →
       (2047 < word → c.w.intrap = false → TrapsWith i c.pc illegalOp 0 0 (slab c.w a) s c) ∧
       (word ≤ 2047 →
         ((sl.st = .held ∨ sl.st = .loading) → ∃ t w', exec i s = .next t ∧ OnlyWave c s t w' ∧
           w'.status = .waiting (.slotBusy slot) i ∧ w'.ctxlbl = c.w.ctxlbl ||| slab c.w a ∧ SameRegs c.w w' ∧ w'.pcs = c.w.pcs) ∧
         ((sl.st = .empty ∨ sl.st = .failed) → c.w.intrap = false → TrapsWith i c.pc codeAbsent 0 0 (slab c.w a) s c) ∧
         (sl.st = .present → slotGranted (s.core c.core) slot c.g.kernel = false → slot.val ≠ c.pc / 2048 → c.w.intrap = false →
           TrapsWith i c.pc codeAbsent 0 0 (slab c.w a) s c) ∧
         (sl.st = .present → (slotGranted (s.core c.core) slot c.g.kernel = true ∨ slot.val = c.pc / 2048) →
           Jumps i false (fun _ => slot.val * 2048 + word) (slab c.w a ||| sl.lab) s c))))

/-- R265. What trap entry changes, once its park has committed everything: the trap registers, CTXLBL, and the lanes that have not exited,
which go to word 0 of slot 15. R267, R268. Entry waits while slot 15 is being filled; a slot 15 that is neither that nor present makes a
double trap, and a double trap ends every group of the kernel and suspends the context. That TRAPPC takes the empty label is the model's
choice (LOG 33). -/
def Obligations.TrapEntry : Prop :=
  ((∀ (cause pc addr : Nat) (defer : Bool) (absorb : Label) (w : Wave),
     let w' := enterTrap cause pc addr defer absorb w
     (∀ l, l < 64 → w'.tpcv.getD l 0 = BitVec.ofNat 32 (w.pcAt l + if w.exited.getLsbD l then 2 ^ 31 else 0)) ∧
     w'.tpc = ⟨BitVec.ofNat 32 pc, 0⟩ ∧ w'.tcause = BitVec.ofNat 32 (cause + if defer then 256 else 0) ∧
     w'.taddr = BitVec.ofNat 64 (addr % 2 ^ 56) ∧ w'.ctxlbl = w.ctxlbl ||| absorb ∧ w'.intrap = true ∧
     (∀ l, l < 64 → w'.pcAt l = if w.exited.getLsbD l then w.pcAt l else 15 * 2048) ∧
     SameV w w' ∧ SameS w w' ∧ SameM w w' ∧ SameX w w' ∧ SameRng w w' ∧ SameFlags w w' ∧ w'.rlane = w.rlane ∧
     w'.exited = w.exited ∧ w'.pend = w.pend) ∧
   (∀ (r : WaveRef) (cause pc addr : Nat) (absorb : Label) (s : State) (g : Group) (w : Wave) (p : Place),
     s.group? r.gid = some g → g.waves[r.wave]? = some w → g.place = some p → w.pend = [] → w.eseen = g.eseq →
     w.status = .parked (.trap cause pc addr absorb) →
     ((s.core p.core).slot 15).st = .present →
     (completePark r (.trap cause pc addr absorb) s).wave? r =
       some { enterTrap cause pc addr false absorb w with ready := s.now + 1 }) ∧
   (∀ (r : WaveRef) (cause pc addr : Nat) (absorb : Label) (s : State) (w : Wave),
     s.wave? r = some w → w.intrap = true → takeTrap r cause pc addr absorb s = doubleTrap r cause addr false (preciseNote cause pc w.entries) s)) ∧
  (∀ (r : WaveRef) (cause pc addr : Nat) (defer : Bool) (absorb : Label) (n : FailNote) (s : State) (g : Group) (w : Wave)
       (p : Place) (k : Kernel),
     s.group? r.gid = some g → g.waves[r.wave]? = some w → g.place = some p → s.kernel? g.kernel = some k →
     let sl := (s.core p.core).slot 15
     let t := reachHandler r cause pc addr defer absorb n s
     ((sl.st = .held ∨ sl.st = .loading) → t.wave? r = some { w with status := .entering cause pc addr defer absorb n }) ∧
     ((sl.st = .empty ∨ sl.st = .failed) → t = doubleTrap r cause addr defer n s ∧
       (∀ h ∈ t.groups, h.kernel ≠ g.kernel) ∧ (t.ctx g.ctx).st = .suspended ∧
       (∃ k', t.kernel? g.kernel = some k' ∧ k'.st = .faulted ∧ k'.cause = cause) ∧
       (∃ f rest, (t.ctx g.ctx).flog = f :: rest ∧ f.kind = 2 ∧ f.cause = cause ∧ f.failpc = n.failpc ∧ f.defer = defer ∧
         f.unknown = n.unknown ∧ f.held = min n.held 32)))

/-- R273, R276. TRAP and BKPT take a precise trap whose TRAPPC is the next word and whose address is their code; BKPT of an ELASTIC owner
in a context with DEBUG stops the group instead, the wave standing still with its code behind the word. R274. RTE traps outside the
handler; within, it parks, and then sends the lanes that were active at the trap to TRAPPC and the others to the PCs they held, leaving
every other trap register. -/
def Obligations.SoftwareTraps : Prop :=
  (∀ (p : Bool) (code : BitVec 8) (s : State) (c : Cur), Issues s c 1 →
     (c.w.intrap = false → TrapsAt (.trap p code) (c.pc + 1) softTrap code.toNat s c) ∧
     (((ctxOf s c).latched.debug = false ∨ s.timed c.g.owner = true) → c.w.intrap = false →
       TrapsAt (.bkpt p code) (c.pc + 1) bkptTrap code.toNat s c) ∧
     ((ctxOf s c).latched.debug = true → s.timed c.g.owner = false →
       ∃ t w' g', exec (.bkpt p code) s = .next t ∧ t.wave? c.ref = some w' ∧ t.group? c.ref.gid = some g' ∧ g'.stop = true ∧
         w'.status = .parked .next ∧ SameV c.w w' ∧ SameS c.w w' ∧ SameM c.w w' ∧ SameTrap c.w w' ∧
         (∀ l, l < 64 → w'.pcAt l = if c.act.getLsbD l then c.w.pcAt l + 1 else c.w.pcAt l))) ∧
  (∀ (p : Bool) (s : State) (c : Cur),
     let pcv := fun l => (c.w.tpcv.getD l 0).toNat % 2 ^ 15
     (IssuesX s c → c.w.phase = 0 →
       (c.w.intrap = false → TrapsAt (.rte p) c.pc illegalOp 0 s c) ∧ (c.w.intrap = true → ParksFirst (.rte p) s c)) ∧
     (Resumes s c (.rte p) → c.w.phase = 1 → ∃ t w', exec (.rte p) s = .next t ∧ OnlyWave c s t w' ∧ w'.intrap = false ∧
       (∀ m l, m < 64 → c.w.exited.getLsbD m = false → (c.w.tpcv.getD m 0).toNat < 2 ^ 31 →
         (∀ n, n < 64 → c.w.exited.getLsbD n = false → (c.w.tpcv.getD n 0).toNat < 2 ^ 31 → pcv m ≤ pcv n) → l < 64 →
         w'.pcAt l = if c.w.exited.getLsbD l then c.w.pcAt l else if pcv l = pcv m then c.w.tpc.val.toNat % 2 ^ 15 else pcv l) ∧
       w'.tpc = c.w.tpc ∧ w'.tcause = c.w.tcause ∧ w'.taddr = c.w.taddr ∧ w'.tpcv = c.w.tpcv ∧ SameCtx c.w w' ∧
       SameV c.w w' ∧ SameS c.w w' ∧ SameM c.w w' ∧ SameX c.w w' ∧ SameRng c.w w' ∧ SameMisc c.w w' ∧ SameFlags c.w w' ∧
       w'.pend = c.w.pend ∧ w'.status = .running))

/-- R175. HBIND, HPERM and HCOPY write a whole hypervector register; fields that a form does not use, and other function codes, are
refused by the decoder. R176, R177. HBUND adds 1 or −1 to each counter, clamped to ±127, and SAT records a clamp that changed a sum; HCLR
clears counters and SAT, and HTIE sets the tie policy, and its register under REG. R178, R179. HTHR thresholds an accumulator into a
hypervector register, the tie register read as it stands at issue, and writes SAT to s[sa]; HSIM counts the bits in which two registers
differ. -/
def Obligations.Hypervectors : Prop :=
  ((∀ (p : Bool) (d a b : Fin 16) (e : Reg) (s : State) (c : Cur), Issues s c 1 → d.val < c.g.hdecl → a.val < c.g.hdecl →
     let x := (c.g.hreg a).val
     let n := (sval c.w e).toNat % 8192
     (b.val < c.g.hdecl → WritesH (.hbind p d a b) p d (fun i => x.getLsbD i ^^ (c.g.hreg b).val.getLsbD i)
       ((c.g.hreg a).lab ||| (c.g.hreg b).lab ||| c.w.ctxlbl) s c) ∧
     WritesH (.hperm p d a e) p d (fun i => x.getLsbD ((i + 8192 - n) % 8192)) ((c.g.hreg a).lab ||| slab c.w e ||| c.w.ctxlbl) s c ∧
     WritesH (.hcopy p d a) p d (fun i => x.getLsbD i) ((c.g.hreg a).lab ||| c.w.ctxlbl) s c) ∧
   ∀ (w : Nat) (rest : List Nat), fld w 31 1 = 1 → fld w 24 6 = 0x3B →
     (3 ≤ fld w 0 6 → NoInstr .illegalOp illegalOp (w :: rest)) ∧
     (fld w 0 6 = 0 → fld w 6 6 ≠ 0 → NoInstr .reservedEnc reservedEnc (w :: rest)) ∧
     (fld w 0 6 = 1 → fld w 12 4 ≠ 0 → NoInstr .reservedEnc reservedEnc (w :: rest)) ∧
     (fld w 0 6 = 2 → (fld w 12 4 ≠ 0 ∨ fld w 6 6 ≠ 0) → NoInstr .reservedEnc reservedEnc (w :: rest))) ∧
  (∀ (p : Bool) (k : Fin 4) (a b : Fin 16) (pol : TiePolicy) (s : State) (c : Cur), Issues s c 1 → k.val < c.g.adecl →
     let x := c.g.acc k
     (a.val < c.g.hdecl → ∃ y : Accum, WritesA (.hbund p k a) p k y s c ∧ y.tie = x.tie ∧ y.tr = x.tr ∧
       y.lab = x.lab ||| (c.g.hreg a).lab ||| c.w.ctxlbl ∧
       (∀ i, i < 8192 → y.c.getD i 0 = max (-127) (min 127 (x.c.getD i 0 + if (c.g.hreg a).val.getLsbD i then 1 else -1))) ∧
       (y.sat = true ↔ x.sat = true ∨ ∃ i, i < 8192 ∧
         y.c.getD i 0 ≠ x.c.getD i 0 + if (c.g.hreg a).val.getLsbD i then 1 else -1)) ∧
     (∃ y : Accum, WritesA (.hclr p k) p k y s c ∧ y.tie = x.tie ∧ y.tr = x.tr ∧ y.lab = c.w.ctxlbl ∧ y.sat = false ∧
       ∀ i, y.c.getD i 0 = 0) ∧
     (wf (.htie p k pol b) = true → (pol = .reg → b.val < c.g.hdecl) →
       WritesA (.htie p k pol b) p k { x with tie := pol, tr := if pol = .reg then b else x.tr } s c)) ∧
  (∀ (p : Bool) (k : Fin 4) (h a b : Fin 16) (d : Reg) (s : State) (c : Cur), Issues s c 1 →
     let x := c.g.acc k
     let l := x.lab ||| c.w.ctxlbl
     (k.val < c.g.adecl → h.val < c.g.hdecl → ∃ t g' w', exec (.hthr p k h d) s = .next t ∧ t.group? c.ref.gid = some g' ∧
       t.wave? c.ref = some w' ∧
       (∀ i, i < 8192 → (g'.hreg h).val.getLsbD i = if x.c.getD i 0 > 0 then true else if x.c.getD i 0 < 0 then false else
         match x.tie with
         | .zero => false
         | .one => true
         | .reg => (c.g.hreg x.tr).val.getLsbD i) ∧
       (g'.hreg h).lab = (if x.tie = .reg then l ||| (c.g.hreg x.tr).lab else l) ∧
       w'.sreg d = (if d = 0 then UReg.zero else ⟨if x.sat then 1 else 0, l⟩) ∧
       (∀ n : Fin 16, n ≠ h → g'.hreg n = c.g.hreg n) ∧ g'.a = c.g.a ∧ OtherWaves c s t ∧ t.mem = s.mem ∧
       (∀ n : Reg, n ≠ d → w'.sreg n = c.w.sreg n) ∧ SameV c.w w' ∧ SameM c.w w' ∧ SameX c.w w' ∧ SameTrap c.w w' ∧ SameRng c.w w' ∧
       SameMisc c.w w' ∧ SameFlags c.w w' ∧ SameCtx c.w w' ∧ SameEntries c.w w' ∧ Advances p 1 c s w') ∧
     (a.val < c.g.hdecl → b.val < c.g.hdecl →
       WritesS (.hsim p a b d) p 1 d
         (BitVec.ofNat 32 ((List.range 8192).filter fun i => (c.g.hreg a).val.getLsbD i ^^ (c.g.hreg b).val.getLsbD i).length)
         ((c.g.hreg a).lab ||| (c.g.hreg b).lab ||| c.w.ctxlbl) s c))

/-- R181, R182, R183, R184. HWR writes an entry of the owner's range at the end of its cycle; HRD and HNEAR read the entries as they stand
at its start and return after 64 cycles, HNEAR after one more for every 256 entries; an access beyond the range fails at the wave's next
park, whose trap takes in the labels of the operands. -/
def Obligations.Seedbank : Prop :=
  ∀ (p : Bool) (a : Fin 16) (b : Reg) (s : State) (c : Cur), Issues s c 1 → a.val < c.g.hdecl →
    let e := (sval c.w b).toNat
    let size := (seedRange s c).2
    let x := c.g.hreg a
    let at_ := fun n => seedAt s.mem s.now (seedKey s c n)
    (e < size → ∃ t w', exec (.hwr p a b) s = .next t ∧ t.wave? c.ref = some w' ∧
      (∀ now, s.now < now → seedAt t.mem now (seedKey s c e) = ⟨x.val, x.lab ||| slab c.w b ||| c.w.ctxlbl⟩) ∧
      (∀ k, seedAt t.mem s.now k = seedAt s.mem s.now k) ∧
      ((∀ v ∈ s.mem.seedw, v.1 < s.now) → ∀ now k, s.now ≤ now → k ≠ seedKey s c e → seedAt t.mem now k = seedAt s.mem now k) ∧
      OtherWaves c s t ∧ SameMemory s t ∧ SameRegs c.w w' ∧ SameCtx c.w w' ∧ SameEntries c.w w' ∧ Advances p 1 c s w') ∧
    (size ≤ e → ∃ t w' q, exec (.hwr p a b) s = .next t ∧ t.wave? c.ref = some w' ∧ w'.pend = c.w.pend ++ [q] ∧ q.entry = false ∧
      q.left = 0 ∧ q.ws = [] ∧ q.fail = some ⟨permFault, e, slab c.w b, false, false⟩ ∧ t.mem.seed = s.mem.seed ∧ t.mem.seedw = s.mem.seedw ∧
      OtherWaves c s t ∧ SameMemory s t ∧ SameRegs c.w w' ∧ SameCtx c.w w' ∧ Advances p 1 c s w') ∧
    (Room c →
      (e < size → Enters (.hrd p a b) p 64 [RegWrite.hyper a (at_ e).val ((at_ e).lab ||| slab c.w b ||| c.w.ctxlbl)] 0 0 none s c) ∧
      (size ≤ e → Enters (.hrd p a b) p 64 [] 0 0 (some ⟨permFault, e, slab c.w b, false, false⟩) s c) ∧
      (even b = true → ∀ b1 : Reg, b1.val = b.val + 1 →
        let n := (sval c.w b1).toNat
        let lat := (min n 16384 + 255) / 256 + 64
        let l := x.lab ||| slab c.w b ||| slab c.w b1 ||| c.w.ctxlbl
        let dist := fun j => hamming x.val (at_ j).val
        (n = 0 → ∃ l', l' = l ∧ Enters (.hnear p a b) p lat
          [RegWrite.uni b 0xFFFF_FFFF l', RegWrite.uni b1 0xFFFF_FFFF l'] 0 0 none s c) ∧
        (0 < n → size < e + n → Enters (.hnear p a b) p lat [] 0 0 (some ⟨permFault, e + n - 1, slab c.w b ||| slab c.w b1, false, false⟩) s c) ∧
        (0 < n → e + n ≤ size → ∃ j l', e ≤ j ∧ j < e + n ∧ (∀ k, e ≤ k → k < e + n → dist j ≤ dist k) ∧
          (∀ k, e ≤ k → k < j → dist j < dist k) ∧
          (∀ k, k < 16 → (l'.getLsbD k = true ↔ l.getLsbD k = true ∨ ∃ m, e ≤ m ∧ m < e + n ∧ (at_ m).lab.getLsbD k = true)) ∧
          Enters (.hnear p a b) p lat [RegWrite.uni b (BitVec.ofNat 32 j) l', RegWrite.uni b1 (BitVec.ofNat 32 (dist j)) l']
            0 0 none s c)))

/-- R190, R191, R199, R200, R204, R205. Stores to the scratch window: a misaligned lane traps, then one beyond the window; a byte that a
copy engine guards makes the wave wait (R198); otherwise every lane's bytes are written in lane order and the banks take the data's label,
and nothing else changes but the wave's PCs. R191, R199, R204, R205. Loads from the scratch window and from the front exchange bank take
an entry that returns after 16 cycles with the bytes of the active lanes, under the labels of the address and of the banks read. R190,
R191, R226, R228, R230. Atomics on the scratch window: with the checks of stores, each lane in ascending order replaces the 32-bit value
by the operation's, and reads the value before it, after 16 cycles. That a scratch access is performed at its issue is the model's choice
(LOG 7). -/
def Obligations.ScratchAccesses : Prop :=
  (∀ (p : Bool) (t vo sb : Reg) (sz : Size) (off : BitVec 6) (s : State) (c : Cur), Issues s c 1 →
     let n := sz.bytes
     let goal := fun (i : Instr) (ls : List LaneAcc) (al dl : Label) =>
       let lo := ls.map (·.va)
       let hi := ls.map fun l => l.va + n - 1
       (∀ l, ls.find? (fun l => l.va % n != 0) = some l → c.w.intrap = false → TrapsWith i c.pc misalign l.va al 0 s c) ∧
       ((∀ l ∈ ls, l.va % n = 0) →
         (∀ l, ls.find? (fun l => decide (1024 * c.g.kib < l.va + n)) = some l → c.w.intrap = false →
           TrapsWith i c.pc scratchRange l.va al 0 s c) ∧
         ((∀ l ∈ ls, l.va + n ≤ 1024 * c.g.kib) →
           (scoreHit s c.core c.g.gid lo hi = true → WaitsIn i c.w.phase (.score lo hi) s c) ∧
           (scoreHit s c.core c.g.gid lo hi = false → ∃ u g' w', exec i s = .next u ∧ AccessFrame p s u c w' ∧ SameEntries c.w w' ∧
             u.group? c.ref.gid = some g' ∧ u.mem = s.mem ∧ g'.h = c.g.h ∧ g'.a = c.g.a ∧ g'.front = c.g.front ∧ g'.back = c.g.back ∧
             (∀ o, cellGet o g'.win = match (ls.filter fun l => decide (l.va ≤ o) && decide (o < l.va + n)).getLast? with
               | some l => BitVec.ofNat 8 (l.data / 2 ^ (8 * (o - l.va)))
               | none => cellGet o c.g.win) ∧
             ∀ b, b < c.g.wlab.length →
               g'.wlab.getD b 0 = if ls.any (fun l => l.va / 8192 == b) then c.g.wlab.getD b 0 ||| dl else c.g.wlab.getD b 0)))
     let al := vlab c.w vo ||| c.w.ctxlbl
     let au := slab c.w sb ||| c.w.ctxlbl
     (InV c (if sz = .d then [t.val, t.val + 1, vo.val] else [t.val, vo.val]) →
       goal (.vst p t 0 vo sz .scratch false false) (vecLanes c .scratch 0 vo t sz) al
         (vlab c.w t ||| al ||| if sz = .d then vlab c.w (t + 1) else 0)) ∧
     (wf (.sst p t sb sz .scratch false off) = true →
       goal (.sst p t sb sz .scratch false off) [⟨lowLane c.act, uniAddr c.w .scratch sb n off, uniData c.w t sz, 0⟩] au
         (slab c.w t ||| au ||| if sz = .d then slab c.w (t + 1) else 0))) ∧
  (∀ (p : Bool) (t vo sb : Reg) (sz : Size) (off : BitVec 6) (s : State) (c : Cur), Issues s c 1 → Room c →
     let n := sz.bytes
     let goal := fun (i : Instr) (ls : List LaneAcc) (al : Label) (good : List RegWrite → Label → Prop) =>
       (∀ l ∈ ls, l.va % n = 0) → (∀ l ∈ ls, scratchOk c.g l.va n true = true) →
       scoreHit s c.core c.g.gid (ls.map (·.va)) (ls.map fun l => l.va + n - 1) = false →
       ∃ ws, Enters i p 16 ws 0 0 none s c ∧ good ws (ls.foldl (fun x l => x ||| scratchLab c.g l.va) al)
     let lo := fun (l : Nat) => BitVec.ofNat 32 (scratchVal c.g (c.w.lane vo l).toNat n)
     let hi := fun (l : Nat) => BitVec.ofNat 32 (scratchVal c.g (c.w.lane vo l).toNat n / 2 ^ 32)
     let lane := fun (x : RegWrite) (r : Nat) (f : Nat → Word) (lab : Label) =>
       x.tgt = .v r ∧ x.mask = c.act ∧ x.lab = lab ∧ x.live = true ∧ ∀ l, l < 64 → c.act.getLsbD l = true → x.vals.getD l 0 = f l
     let v := scratchVal c.g (uniAddr c.w .scratch sb n off) n
     (InV c (if sz = .d then [t.val, t.val + 1, vo.val] else [t.val, vo.val]) →
       goal (.vld p t 0 vo sz .scratch false) (vecLanes c .scratch 0 vo t sz) (vlab c.w vo ||| c.w.ctxlbl) fun ws lab =>
         if sz = .d then ∃ x y, ws = [x, y] ∧ lane x t lo lab ∧ lane y (t.val + 1) hi lab else ∃ x, ws = [x] ∧ lane x t lo lab) ∧
     (wf (.sld p t sb sz .scratch off) = true →
       goal (.sld p t sb sz .scratch off) [⟨lowLane c.act, uniAddr c.w .scratch sb n off, 0, 0⟩] (slab c.w sb ||| c.w.ctxlbl) fun ws lab =>
         ws = if sz = .d then [RegWrite.uni t (BitVec.ofNat 32 v) lab, RegWrite.uni (t.val + 1) (BitVec.ofNat 32 (v / 2 ^ 32)) lab]
           else [RegWrite.uni t (BitVec.ofNat 32 v) lab])) ∧
  (∀ (p : Bool) (op : AtomOp) (bop : BitOp) (d vo : Reg) (sc : Scope) (s : State) (c : Cur), Issues s c 1 → Room c →
     (sc = .wave ∨ sc = .grp) → InV c [d.val, vo.val] →
     let goal := fun (i : Instr) (o : AOp) (ls : List LaneAcc) (al dl : Label) =>
       (∀ l, ls.find? (fun l => l.va % 4 != 0) = some l → c.w.intrap = false → TrapsWith i c.pc misalign l.va al 0 s c) ∧
       ((∀ l ∈ ls, l.va % 4 = 0) →
         (∀ l, ls.find? (fun l => decide (1024 * c.g.kib < l.va + 4)) = some l → c.w.intrap = false →
           TrapsWith i c.pc scratchRange l.va al 0 s c) ∧
         ((∀ l ∈ ls, l.va + 4 ≤ 1024 * c.g.kib ∧ l.va + 4 ≤ frontBase) → scoreHit s c.core c.g.gid (ls.map (·.va)) (ls.map (·.va + 3)) = false →
           let put := fun (w : List Host.Cell) (l : LaneAcc) => cellPuts w l.va (leBytes 4
             (o.apply (BitVec.ofNat 32 (cellVal w l.va 4)) (BitVec.ofNat 32 l.data) (BitVec.ofNat 32 l.swap)).toNat)
           ∃ u g' w' e, exec i s = .next u ∧ AccessFrame p s u c w' ∧ u.group? c.ref.gid = some g' ∧ SameMemory s u ∧
             g'.h = c.g.h ∧ g'.a = c.g.a ∧ w'.pend = c.w.pend ++ [e] ∧ e.entry = true ∧ e.left = 1 ∧ e.fail = none ∧
             (s.now + 16, Instr.resultReturn c.ref e.id) ∈ u.agenda ∧
             (∀ a, cellGet a g'.win = cellGet a (ls.foldl put c.g.win)) ∧
             ∀ j l x, ls[j]? = some l → e.ws[0]? = some x → x.tgt = .v d ∧
               x.lab = ls.foldl (fun y l => y ||| scratchLab c.g l.va) (al ||| dl) ∧
               x.vals.getD l.lane 0 = BitVec.ofNat 32 (cellVal ((ls.take j).foldl put c.g.win) l.va 4)))
     let al := vlab c.w vo ||| c.w.ctxlbl
     goal (.vatom p op sc d 0 vo) (.arith op) (atomLanes c .scratch 0 vo d false) al (vlab c.w d ||| al) ∧
     goal (.vatomb p bop sc d 0 vo) (.bits bop) (atomLanes c .scratch 0 vo d false) al (vlab c.w d ||| al) ∧
     (d.val + 1 < c.g.vdecl →
       goal (.vcas p sc d 0 vo) .cas (atomLanes c .scratch 0 vo d true) al (vlab c.w d ||| vlab c.w (d + 1) ||| al)))

/-- R199, R200, R201, R204, R205, R174. Global stores: a misaligned lane traps at issue; otherwise the store is made, each lane to the
address that its translation gives. A store to constant space traps PERM. That bytes of LOCAL and HOST memory are written at issue, and
those off the package at their home, is the model's choice (LOG 7). -/
def Obligations.GlobalStores : Prop :=
  ∀ (p of nt : Bool) (t vo sb : Reg) (sz : Size) (off : BitVec 6) (h : Fin 16) (s : State) (c : Cur), Issues s c 1 → even sb = true →
    let n := sz.bytes
    let goal := fun (i : Instr) (a : Acc) =>
      (∀ l, a.lanes.find? (fun l => l.va % a.n != 0) = some l → c.w.intrap = false → TrapsWith i c.pc misalign l.va a.al 0 s c) ∧
      ((∀ l ∈ a.lanes, l.va % a.n = 0) → FabricFree s c a → StoreDone i p a s c)
    let al := vlab c.w vo ||| c.w.ctxlbl ||| c.w.pairLab sb
    let au := c.w.pairLab sb ||| c.w.ctxlbl
    (InV c (if sz = .d then [t.val, t.val + 1, vo.val] else [t.val, vo.val]) →
      goal (.vst p t sb vo sz .global of nt) (plainAcc .store n (vecLanes c .global sb vo t sz) [] al
        (vlab c.w t ||| al ||| if sz = .d then vlab c.w (t + 1) else 0) of nt) ∧
      (c.w.intrap = false → ∀ l ls, vecLanes c .const sb vo t sz = l :: ls →
        TrapsWith (.vst p t sb vo sz .const false false) c.pc permFault l.va al 0 s c)) ∧
    ((sz = .d → even t = true) →
      goal (.sst p t sb sz .global of off) (plainAcc .store n [⟨lowLane c.act, uniAddr c.w .global sb n off, uniData c.w t sz, 0⟩] [] au
        (slab c.w t ||| au ||| if sz = .d then slab c.w (t + 1) else 0) of false) ∧
      (c.w.intrap = false → TrapsWith (.sst p t sb sz .const false off) c.pc permFault (uniAddr c.w .const sb n off) au 0 s c)) ∧
    (h.val < c.g.hdecl →
      goal (.hst p h sb) (plainAcc .store 64 (hyperLanes c.w sb (c.g.hreg h).val (some (lowLane c.act))) [] au
        (au ||| (c.g.hreg h).lab) false false))

/-- R199 to R202, R204, R205, R174. Global loads: a misaligned lane traps at issue; otherwise the load takes an entry; a LOCAL lane whose
line no cache holds reads memory as it stands. That such a lane reads at issue is the model's choice (LOG 7), and so are the latencies on
the way of a load (LOG 15). -/
def Obligations.GlobalLoads : Prop :=
  ∀ (p nt : Bool) (t vo sb : Reg) (sz : Size) (off : BitVec 6) (h : Fin 16) (s : State) (c : Cur), Issues s c 1 → Room c →
    even sb = true →
    let n := sz.bytes
    let goal := fun (i : Instr) (a : Acc) (at_ : Pend → LaneOk → Nat → Prop) =>
      (∀ l, a.lanes.find? (fun l => l.va % a.n != 0) = some l → c.w.intrap = false → TrapsWith i c.pc misalign l.va a.al 0 s c) ∧
      ((∀ l ∈ a.lanes, l.va % a.n = 0) → FabricFree s c a → ∃ e, LoadDone i p a s c e ∧
        (c.g.det = false → NoFailure c → a.kind = .load → ∀ k ∈ (checksAt s c a).ok, k.t.typ = .loc → k.pa % 64 + a.n ≤ 64 →
          Uncached s c (lineOf k.pa) → at_ e k (cellVal s.mem.cells k.pa a.n)))
    let vec := fun (e : Pend) (k : LaneOk) (v : Nat) => ∀ j x, e.ws[j]? = some x →
      x.vals.getD k.l.lane 0 = BitVec.ofNat 32 (v / 2 ^ (32 * j))
    let uni := fun (e : Pend) (_ : LaneOk) (v : Nat) => ∀ j x, e.ws[j]? = some x → x.vals = [BitVec.ofNat 32 (v / 2 ^ (32 * j))]
    let al := vlab c.w vo ||| c.w.ctxlbl ||| c.w.pairLab sb
    let au := c.w.pairLab sb ||| c.w.ctxlbl
    (∀ sp, sp ≠ Space.scratch →
      let kind : AccKind := if sp = .const then .const else .load
      (InV c (if sz = .d then [t.val, t.val + 1, vo.val] else [t.val, vo.val]) → (nt = true → sp = .global) →
        goal (.vld p t sb vo sz sp nt) (plainAcc kind n (vecLanes c sp sb vo t sz) (if sz = .d then [.v t, .v (t.val + 1)] else [.v t])
          al 0 false nt) vec) ∧
      ((sz = .d → even t = true) →
        goal (.sld p t sb sz sp off) (plainAcc kind n [⟨lowLane c.act, uniAddr c.w sp sb n off, 0, 0⟩]
          (if sz = .d then [.s t, .s (t.val + 1)] else [.s t]) au 0 false false) uni)) ∧
    (h.val < c.g.hdecl →
      goal (.hld p h sb) (plainAcc .load 64 (hyperLanes c.w sb 0 none) [.h h] au 0 false false) fun e k v =>
        ∀ x, e.ws[0]? = some x → ∀ b, b < 512 → x.big.getLsbD (512 * k.l.lane + b) = v.testBit b)

/-- R226 to R229. Global atomics: a misaligned lane traps at issue; one of scope WAVE or GRP is made at once; one of a wider scope waits
before and after for the wave's accesses with respect to that scope. R230. VAGG combines the operands of the lanes of one address in
ascending lane order and makes one atomic of them; each lane reads the old value combined with the lanes before it. That atomics on LOCAL
memory are performed at issue is the model's choice (LOG 7). -/
def Obligations.GlobalAtomics : Prop :=
  (∀ (p : Bool) (op : AtomOp) (bop : BitOp) (sop : SatomOp) (d vo sb : Reg) (sc : Scope) (s : State) (c : Cur),
     even sb = true → Room c →
     let goal := fun (i : Instr) (a : Acc) =>
       let fenced := fun (u : State) => fenceCond u c.ref ⟨true, true, true, true⟩ sc false
       (Issues s c 1 →
         (∀ l, a.lanes.find? (fun l => l.va % 4 != 0) = some l → c.w.intrap = false → TrapsWith i c.pc misalign l.va a.al 0 s c) ∧
         ((∀ l ∈ a.lanes, l.va % 4 = 0) →
           ((sc = .wave ∨ sc = .grp) → FabricFree s c a → AtomDone i p a s c) ∧
           (sc ≠ .wave → sc ≠ .grp → c.w.phase = 0 →
             (fenced s = true → WaitsIn i 0 (.kinds ⟨true, true, true, true⟩ sc false) s c) ∧
             (fenced s = false → FabricFree s c a → ∃ u w' e, exec i s = .next u ∧ u.wave? c.ref = some w' ∧
               w'.pend.getLast? = some e ∧ w'.pend.length = c.w.pend.length + 1 ∧ e.entry = true ∧ SameRegs c.w w' ∧ SameCtx c.w w' ∧
               OtherWaves c s u ∧
               (Advances p 1 c s w' ∨ (w'.status = .waiting (.kinds ⟨true, true, true, true⟩ sc false) i ∧ w'.phase = 3 ∧
                 w'.pcs = c.w.pcs)))))) ∧
       (Resumes s c i → c.w.phase = 3 → sc ≠ .wave → sc ≠ .grp → (∀ l ∈ a.lanes, l.va % 4 = 0) → fenced s = false → OnlyAdvances i p 1 s c)
     let al := vlab c.w vo ||| c.w.ctxlbl ||| c.w.pairLab sb
     let au := c.w.pairLab sb ||| c.w.ctxlbl
     let acc := fun (ls : List LaneAcc) (o : AOp) (dst : List Target) (al dl : Label) =>
       (⟨.atomic, 4, ls, o, false, dst, al, dl, false, false, sc⟩ : Acc)
     (sb ≠ 0 → InV c [d.val, vo.val] →
       goal (.vatom p op sc d sb vo) (acc (atomLanes c .global sb vo d false) (.arith op) [.v d] al (vlab c.w d ||| al)) ∧
       goal (.vatomb p bop sc d sb vo) (acc (atomLanes c .global sb vo d false) (.bits bop) [.v d] al (vlab c.w d ||| al)) ∧
       (d.val + 1 < c.g.vdecl → goal (.vcas p sc d sb vo)
         (acc (atomLanes c .global sb vo d true) .cas [.v d] al (vlab c.w d ||| vlab c.w (d + 1) ||| al)))) ∧
     goal (.satom p sop sc d sb) (acc [⟨lowLane c.act, c.w.pair sb % 2 ^ 64, (sval c.w d).toNat, 0⟩]
       (match sop with | .arith o => .arith o | .bits o => .bits o) [.s d] au (slab c.w d ||| au))) ∧
  ((∀ (p : Bool) (op : AtomOp) (sc : Scope) (d sb vo : Reg) (s : State) (c : Cur), Issues s c 1 → Room c → even sb = true → sb ≠ 0 →
     (sc = .wave ∨ sc = .grp) → InV c [d.val, vo.val] →
     let al := vlab c.w vo ||| c.w.ctxlbl ||| c.w.pairLab sb
     let a : Acc := ⟨.atomic, 4, atomLanes c .global sb vo d false, .arith op, true, [.v d], al, vlab c.w d ||| al, false, false, sc⟩
     (∀ l ∈ a.lanes, l.va % 4 = 0) → FabricFree s c a →
     ∃ u w' e, exec (.vagg p op sc d sb vo) s = .next u ∧ AccessFrame p s u c w' ∧ w'.pend.getLast? = some e ∧
       w'.pend.length = c.w.pend.length + 1 ∧ e.entry = true ∧ e.pc = c.pc ∧ (NoFailure c → e.fail = (checksAt s c a).bad) ∧
       (c.g.det = false → NoFailure c → ∀ k ks, (checksAt s c a).ok = k :: ks → k.t.typ = .loc → (∀ j ∈ ks, j.l.va = k.l.va) →
         let x := BitVec.ofNat 32 (cellVal s.mem.cells k.pa 4)
         ∀ b, readByte .loc u b = cellGet b (cellPuts s.mem.cells k.pa (leBytes 4
           ((AOp.arith op).apply x (ks.foldl (fun y j => (AOp.arith op).apply y (BitVec.ofNat 32 j.l.data) 0) (BitVec.ofNat 32 k.l.data)) 0).toNat)))) ∧
   ∀ (op : AOp) (old : Word) (l : LaneAcc) (ls : List LaneAcc), ((op.at old (l :: ls)).2[0]? = some (l.lane, old)) ∧
     ∀ j m v n, (op.at old (l :: ls)).2[j]? = some (n, v) → (l :: ls)[j]? = some m → ∀ m', (l :: ls)[j + 1]? = some m' →
       (op.at old (l :: ls)).2[j + 1]? = some (m'.lane, op.apply v (BitVec.ofNat 32 m.data) 0))

/-- R225. FENCE and FENCEA wait while an access of the selected kinds is not performed with respect to their scope, FENCEA also for the
acknowledgements of posted stores and of those still to be posted, and then go on; a fence of no kind is no instruction. R327. BAR of
every kind: an arrival waits while the wave has arrived in the open phase and while its accesses are outstanding, then it is counted and
the wave parks; a WAIT parks at once. After the park an ARRIVE is complete, and the other kinds wait for the phase of the wave's last
arrival, or trap BAR_BROKEN when the instance is broken or absent; the end of a wait acquires the lease clock that the phase's arrivals
released (R328), and a waiter that its release has reached goes on even where the instance is broken after it. -/
def Obligations.FencesBarriers : Prop :=
  ((∀ (p : Bool) (sc : Scope) (k : Kinds) (s : State) (c : Cur), Issues s c 1 → (k.e || k.a || k.s || k.l) = true →
     (outstanding s c.ref k sc = true → WaitsIn (.fence p sc k) c.w.phase (.kinds k sc false) s c) ∧
     (outstanding s c.ref k sc = false → OnlyAdvances (.fence p sc k) p 1 s c) ∧
     let posting := fun (f : FabReq) => f.w = c.ref ∧ f.src = .wave ∧ f.gone = false ∧ f.typ.remote = true ∧ f.acc.kind = .store
     let acked := (∀ n ∈ c.w.pathcnt, n = 0) ∧ ∀ f ∈ s.mem.fabs, ¬posting f
     ((outstanding s c.ref k sc = true ∨ ¬acked) → WaitsIn (.fencea p sc k) c.w.phase (.kinds k sc true) s c) ∧
     (outstanding s c.ref k sc = false → acked → OnlyAdvances (.fencea p sc k) p 1 s c)) ∧
   ∀ (w : Nat) (rest : List Nat), fld w 31 1 = 1 → (fld w 24 6 = 0x23 ∨ fld w 24 6 = 0x24) → fld w 5 4 = 0 →
     NoInstr .reservedEnc reservedEnc (w :: rest)) ∧
  (∀ (p : Bool) (kind : BarKind) (lvl : BarLevel) (n : Fin 16) (s : State) (c : Cur), wf (.bar p kind lvl n) = true →
     let i := Instr.bar p kind lvl n
     let b := barRef s c.g lvl n
     let x := barAt s b
     let here := hasLevel s c.g.kernel lvl = true
     let acquires := ∃ t w', exec i s = .next t ∧ AccessFrame false s t c w' ∧ SameEntries c.w w' ∧ t.mem = s.mem ∧ t.bars = s.bars ∧
       (t.core c.core).lclk = max (s.core c.core).lclk x.rel
     (Issues s c 1 → c.w.phase = 0 →
       (kind = .wait → ∃ t w', exec i s = .next t ∧ OnlyWave c s t w' ∧ w'.status = .parked (.again i) ∧ w'.phase = 1 ∧
         (∀ k q, x.last.find? (·.1 = c.ref) = some (k, q) → w'.target = q.toNat) ∧
         (x.last.find? (·.1 = c.ref) = none → w'.target = x.phase.toNat) ∧
         SameRegs c.w w' ∧ SameCtx c.w w' ∧ w'.pcs = c.w.pcs ∧ w'.pend = c.w.pend) ∧
       (kind ≠ .wait → here → x.broken = false → (x.done = true ∨ c.ref ∈ x.arr) → ∃ t w', exec i s = .next t ∧
         t.wave? c.ref = some w' ∧ w'.status = .waiting (.arrived b) i ∧ w'.phase = 0 ∧ SameRegs c.w w' ∧ SameCtx c.w w' ∧
         w'.pcs = c.w.pcs ∧ w'.pend = c.w.pend ∧ OtherWaves c s t ∧ t.mem = s.mem ∧ t.bars = s.bars ∧
         (lvl ≠ .grp ∨ c.g.det = false → OnlyWave c s t w')) ∧
       (kind ≠ .wait → ¬(here ∧ x.broken = false ∧ (x.done = true ∨ c.ref ∈ x.arr)) → barWait s c.ref (levelScope lvl) (lvl = .pod) = true →
         WaitsIn i 0 (.barrier (levelScope lvl) (lvl = .pod)) s c) ∧
       (kind ≠ .wait → ¬(here ∧ x.broken = false ∧ (x.done = true ∨ c.ref ∈ x.arr)) → barWait s c.ref (levelScope lvl) (lvl = .pod) = false →
         ∃ t w', exec i s = .next t ∧ t.wave? c.ref = some w' ∧ w'.status = .parked (.again i) ∧ w'.phase = 1 ∧ w'.target = x.phase.toNat ∧
           SameRegs c.w w' ∧ SameCtx c.w w' ∧ w'.pcs = c.w.pcs ∧ w'.pend = c.w.pend ∧ OtherWaves c s t ∧
           (lvl ≠ .grp ∨ c.g.det = false → t.mem = s.mem) ∧
           (here → x.broken = false →
             (barAt t b).arr = x.arr ++ [c.ref] ∧ (barAt t b).phase = x.phase ∧ (barAt t b).swap = (x.swap || decide (kind = .swap)) ∧
             ((barAt t b).done = true → (s.now + releaseTime lvl, Instr.barrierRelease b) ∈ t.agenda)) ∧
           (here → x.broken = true → t.bars = s.bars) ∧ (¬here → t.bars = s.bars))) ∧
     (Resumes s c i → c.w.phase = 1 →
       (kind = .arrive → OnlyAdvances i false 1 s c) ∧
       (kind ≠ .arrive → ¬here ∨ x.broken = true → c.w.intrap = false → TrapsAt i c.pc barBroken (lvl.code * 128 + n.val) s c) ∧
       (kind ≠ .arrive → here → x.broken = false → c.w.target ≠ x.phase.toNat → acquires) ∧
       (kind ≠ .arrive → here → x.broken = false → c.w.target = x.phase.toNat → ∃ t w', exec i s = .next t ∧ t.wave? c.ref = some w' ∧
         w'.status = .waiting (.phase b c.w.target) i ∧ SameRegs c.w w' ∧ SameCtx c.w w' ∧ w'.pcs = c.w.pcs ∧ OtherWaves c s t)) ∧
     (Resumes s c i → c.w.phase = 2 → acquires))

/-- R336, R337. XST checks its offsets and its peer, and then sends its bytes, which reach the back bank of the peer 8 cycles later, where
the highest member wins a byte. R338, R339. NRED waits while one of the wave's is outstanding; with a count of 0 it gives the identity of
its operation at once, and otherwise it takes an entry and sends its contribution. -/
def Obligations.ExchangeReduction : Prop :=
  ((∀ (p : Bool) (t sb vo : Reg) (sz : Size) (s : State) (c : Cur), Issues s c 1 → even sb = true →
     InV c (if sz = .d then [t.val, t.val + 1, vo.val] else [t.val, vo.val]) →
     let i := Instr.xst p t sb vo sz
     let n := sz.bytes
     let lanes := ((List.range 64).filter fun l => c.act.getLsbD l).map fun l => (c.w.lane vo l).toNat
     let al := vlab c.w vo ||| slab c.w sb ||| c.w.ctxlbl
     let peer := (sval c.w sb).toNat
     let size := clusterSize s c.g.kernel
     (∀ o, lanes.find? (fun o => o % n != 0) = some o → c.w.intrap = false → TrapsWith i c.pc misalign o al 0 s c) ∧
     ((∀ o ∈ lanes, o % n = 0) →
       (c.g.xchg = false ∨ size ≤ peer → c.w.intrap = false → TrapsWith i c.pc scratchRange peer al 0 s c) ∧
       (c.g.xchg = true → peer < size →
         (∀ o, lanes.find? (fun o => decide (8192 < o + n)) = some o → c.w.intrap = false → TrapsWith i c.pc scratchRange o al 0 s c) ∧
         ((∀ o ∈ lanes, o + n ≤ 8192) → ∃ u w' x, exec i s = .next u ∧ AccessFrame p s u c w' ∧ SameEntries c.w w' ∧ SameMemory s u ∧
           u.xsts = s.xsts ++ [x] ∧ (s.now + 8, Instr.xstPerform x.id) ∈ u.agenda ∧ x.w = c.ref ∧ x.member = c.g.lin % size ∧
           x.lin = c.g.lin / size * size + peer ∧ x.lab = al ||| vlab c.w t ||| (if sz = .d then vlab c.w (t + 1) else 0) ∧
           ∀ o, ((x.bytes.filter (·.1 == o)).getLast?.map (·.2)) =
             (((List.range 64).filter fun l => c.act.getLsbD l && decide ((c.w.lane vo l).toNat ≤ o) && decide (o < (c.w.lane vo l).toNat + n)).getLast?.map
               fun l => BitVec.ofNat 8 (laneData c.w t sz l / 2 ^ (8 * (o - (c.w.lane vo l).toNat)))))))) ∧
   (∀ (x : Nat) (s : State) (t : Xst), s.xsts.find? (·.id == x) = some t → (t.bytes.map (·.1)).Nodup →
     ∃ u, exec (.xstPerform x) s = .next u ∧ (∀ y ∈ u.xsts, y.id ≠ x) ∧ SameMemory s u ∧
       (∀ g ∈ s.groups, ∃ g' ∈ u.groups, g'.gid = g.gid ∧ g'.waves = g.waves ∧ g'.win = g.win ∧ g'.front = g.front ∧ g'.h = g.h ∧
         (g.kernel = t.kernel → g.lin = t.lin → g'.blab = g.blab ||| t.lab ∧ ∀ o v, (o, v) ∈ t.bytes →
           cellGet o g'.back = if t.member < look 0 o g.backSrc then cellGet o g.back else v) ∧
         (g.kernel ≠ t.kernel ∨ g.lin ≠ t.lin → g' = g)))) ∧
  (∀ (p : Bool) (op : RedOp) (d a b : Reg) (s : State) (c : Cur), Issues s c 1 → Room c → even d = true →
     let i := Instr.nred p op d a b
     let lab := slab c.w a ||| slab c.w b ||| c.w.ctxlbl
     (nredOut s c.ref = true → WaitsIn i c.w.phase .nredOut s c) ∧
     (nredOut s c.ref = false →
       (sval c.w b = 0 → Enters i p 16 [RegWrite.uni d (match op with
           | .min => 0x7FFF_FFFF
           | .max => 0x8000_0000
           | .minn => 0xFFFF_FFFF
           | .and => 0xFFFF_FFFF
           | _ => 0) lab, RegWrite.uni (d.val + 1) 0 lab] 0 0 none s c) ∧
       (sval c.w b ≠ 0 → ∃ t w' e k, exec i s = .next t ∧ AccessFrame p s t c w' ∧ SameMemory s t ∧ w'.pend = c.w.pend ++ [e] ∧
         e.entry = true ∧ e.left = 1 ∧ t.ncs = s.ncs ++ [k] ∧ k.pend = e.id ∧ k.w = c.ref ∧ k.fn = op ∧ k.n = (sval c.w b).toNat ∧
         k.x = sval c.w a ∧ k.pkg = s.link.pkgId ∧ k.grp = c.g.lin ∧ k.kernel = c.g.kernel ∧ k.job = (podJob s c.g).map (·.1) ∧ k.lab = lab)))

/-- R353 to R356. CLAIM, OBJECT, CLWAIT and CLRD wait for the wave's accesses at the scope of its claim group; then each sends one message
to the home of the claims and goes on; a slot beyond the kernel's fails with PERM at the next park. -/
def Obligations.ClaimInstructions : Prop :=
  ∀ (p : Bool) (d a b : Reg) (s : State) (c : Cur), Issues s c 1 → Room c →
    let pod := podClaims s c.g
    let sc : Scope := if pod then .pod else .pkg
    let k : Kinds := ⟨false, true, true, true⟩
    let busy := fenceCond s c.ref k sc pod
    let slot := (sval c.w b).toNat % 256
    let slots := claimSlots s c.g
    let ticket := ticketOf slot (claimMember s c.g) c.ref.wave c.w.claims
    let tk := (sval c.w a).toNat
    let sends := fun (i : Instr) (good : Wave → ClaimMsg → Prop) => ∃ t w' m, exec i s = .next t ∧ t.wave? c.ref = some w' ∧
      (t.claims.msgs.getLast?.map (·.2)) = some (c.g.kernel, m) ∧ good w' m ∧ t.claims.slots = s.claims.slots ∧
      SameMemory s t ∧ OtherWaves c s t ∧ Advances p 1 c s w' ∧
      SameV c.w w' ∧ SameS c.w w' ∧ SameM c.w w' ∧ SameX c.w w' ∧ SameTrap c.w w' ∧ SameFlags c.w w'
    let fails := fun (i : Instr) (entry : Bool) (addr : Nat) (lab : Label) => ∃ t w' e, exec i s = .next t ∧ t.wave? c.ref = some w' ∧
      w'.pend = c.w.pend ++ [e] ∧ e.entry = entry ∧ e.fail = some ⟨permFault, addr, lab, false, false⟩ ∧ t.claims = s.claims ∧
      Advances p 1 c s w' ∧ SameV c.w w' ∧ SameS c.w w' ∧ SameM c.w w'
    (busy = true → WaitsIn (.claim p d a b) c.w.phase (.kinds k sc pod) s c ∧ WaitsIn (.object p a) c.w.phase (.kinds k sc pod) s c ∧
      WaitsIn (.clwait p d a) c.w.phase (.kinds k sc pod) s c ∧
      (even d = true → WaitsIn (.clrd p d b) c.w.phase (.kinds k sc pod) s c)) ∧
    (busy = false →
      (slot < slots → sends (.claim p d a b) fun w' m =>
        (∃ core pos, m = .propose slot ticket (sval c.w a) (slab c.w a ||| slab c.w b ||| c.w.ctxlbl) s.link.pkgId core pos 0) ∧
        w'.claims = (c.w.claims + 1) % 2 ^ 14 ∧ ∃ e, w'.pend = c.w.pend ++ [e] ∧
          e.ws = [RegWrite.uni d (BitVec.ofNat 32 ticket) (slab c.w b ||| c.w.ctxlbl)] ∧ e.fail = none) ∧
      (slots ≤ slot → fails (.claim p d a b) true slot (slab c.w b ||| c.w.ctxlbl)) ∧
      (tk / 2 ^ 24 < slots → sends (.object p a) fun w' m => w'.ctxlbl = c.w.ctxlbl ||| slab c.w a ∧
        ∃ e l, w'.pend = c.w.pend ++ [e] ∧ e.entry = false ∧ e.left = 1 ∧ m = .object tk l c.ref e.id) ∧
      (slots ≤ tk / 2 ^ 24 → fails (.object p a) false tk (slab c.w a)) ∧
      (tk / 2 ^ 24 < slots → sends (.clwait p d a) fun w' m => SameCtx c.w w' ∧
        ∃ e, w'.pend = c.w.pend ++ [e] ∧ e.entry = true ∧ e.left = 1 ∧ m = .query tk c.ref e.id) ∧
      (slots ≤ tk / 2 ^ 24 → fails (.clwait p d a) true tk (slab c.w a ||| c.w.ctxlbl)) ∧
      (even d = true → slot < slots → sends (.clrd p d b) fun w' m => SameCtx c.w w' ∧
        ∃ e, w'.pend = c.w.pend ++ [e] ∧ e.entry = true ∧ e.left = 1 ∧ m = .read slot c.ref e.id) ∧
      (even d = true → slots ≤ slot → fails (.clrd p d b) true slot (slab c.w b ||| c.w.ctxlbl)))

/-- R365, R369, R371, R377. TSET and MLDB start their reads, MMA enters its core's queue, MQRY reads the engine's state after 16 cycles;
each traps or waits first where a descriptor is invalid or pending, a format does not fit, a macro is busy or a queue full. Which labels
the trap of a bad identifier absorbs is how the spec is read in LOG 27. -/
def Obligations.TensorEngines : Prop :=
  ∀ (p : Bool) (a : Reg) (m : Fin 4) (tid : Fin 256) (d : Reg) (s : State) (c : Cur), Issues s c 1 →
    let t := tidAt s c.g.ctx c.core tid
    let traps := fun (i : Instr) (low reason : Nat) => c.w.intrap = false → TrapsAt i c.pc tidInvalid (low + 2 ^ 32 * reason) s c
    let frame := fun (i : Instr) (good : State → Prop) => ∃ u w', exec i s = .next u ∧ AccessFrame p s u c w' ∧ SameMemory s u ∧ good u
    (even a = true →
      (c.w.pair a % 64 ≠ 0 → c.w.intrap = false →
        TrapsWith (.tset p a tid) c.pc misalign (c.w.pair a) (c.w.pairLab a ||| c.w.ctxlbl) 0 s c) ∧
      (c.w.pair a % 64 = 0 → gateOut s c.ref = true → WaitsIn (.tset p a tid) c.w.phase .gate s c) ∧
      (c.w.pair a % 64 = 0 → gateOut s c.ref = false → NoFailure c → frame (.tset p a tid) fun u => (tidAt u c.g.ctx c.core tid).st = .pending ∧
        ∃ j, u.eng.tsets = s.eng.tsets ++ [j] ∧ j.w = c.ref ∧ j.tid = tid.val ∧ j.ctx = c.g.ctx)) ∧
    (a.val ≤ 59 →
      (t.st = .pending → WaitsIn (.mldb p a m tid) c.w.phase (.tidPending [tid.val]) s c) ∧
      (∀ n, t.st = .invalid n → traps (.mldb p a m tid) tid n) ∧
      (t.st = .valid → 4 ≤ t.fmt → traps (.mldb p a m tid) tid 5) ∧
      (t.st = .valid → t.fmt < 4 → macroBusy s c.core m = true → WaitsIn (.mldb p a m tid) c.w.phase (.macroBusy m) s c) ∧
      (t.st = .valid → t.fmt < 4 → macroBusy s c.core m = false → fenceCond s c.ref ⟨true, true, true, true⟩ .pkg false = true →
        WaitsIn (.mldb p a m tid) c.w.phase (.kinds ⟨true, true, true, true⟩ .pkg false) s c) ∧
      (t.st = .valid → t.fmt < 4 → macroBusy s c.core m = false → fenceCond s c.ref ⟨true, true, true, true⟩ .pkg false = false →
        m.val < (s.core c.core).macros.length → frame (.mldb p a m tid) fun u => ∃ j, u.eng.mldbs = s.eng.mldbs ++ [j] ∧
          j.gid = c.g.gid ∧ j.core = c.core ∧ j.mac = m.val ∧
          ∀ x, (u.core c.core).macros[m.val]? = some x → x.tag = some c.g.gid ∧ x.loading = some j.id)) ∧
    (let o := (sval c.w a).toNat
     let prm := leBytes 64 (scratchVal c.g o 64)
     let e := tidAt s c.g.ctx c.core (paramVal prm 0 1)
     let macs := maskMacros (paramVal prm 1 1)
     let mac := fun (k : Nat) => (s.core c.core).macros.getD k Macro.empty
     let span := (paramVal prm 2 1 - 1) * paramVal prm 28 4 + 512
     let lab := slab c.w a ||| scratchLab c.g o
     let bad := fun (low reason : Nat) => c.w.intrap = false → TrapsWith (.mma p a) c.pc tidInvalid (low + 2 ^ 32 * reason) lab 0 s c
     (o % 64 ≠ 0 → c.w.intrap = false → TrapsWith (.mma p a) c.pc misalign o (slab c.w a) 0 s c) ∧
     (o % 64 = 0 → scratchOk c.g o 64 true = false → c.w.intrap = false → TrapsWith (.mma p a) c.pc scratchRange o (slab c.w a) 0 s c) ∧
     (o % 64 = 0 → scratchOk c.g o 64 true = true →
       (paramOk prm = false → bad o 7) ∧
       (paramOk prm = true → scratchOk c.g (paramVal prm 24 4) span false = false → c.w.intrap = false →
         TrapsWith (.mma p a) c.pc scratchRange (paramVal prm 24 4) lab 0 s c) ∧
       (paramOk prm = true → scratchOk c.g (paramVal prm 24 4) span false = true →
         (e.st = .pending → WaitsIn (.mma p a) c.w.phase (.tidPending [paramVal prm 0 1]) s c) ∧
         (∀ n, e.st = .invalid n → bad (paramVal prm 0 1) n) ∧
         (e.st = .valid → 4 ≤ e.fmt → bad (paramVal prm 0 1) 5) ∧
         (e.st = .valid → e.fmt < 4 → (∀ k, macs.find? (fun k => (mac k).tag != some c.g.gid) = some k → bad k 6) ∧
           ((∀ k ∈ macs, (mac k).tag = some c.g.gid) →
             (16 ≤ queuedMmas s c.core → WaitsIn (.mma p a) c.w.phase .mmaFull s c) ∧
             (queuedMmas s c.core < 16 → frame (.mma p a) fun u => ∃ x ∈ u.eng.mmas, x.gid = c.g.gid ∧ x.w = c.ref ∧ x.core = c.core ∧
               x.param = prm ∧ x.st = .queued ∧ x.issued = s.now ∧ x.macs = macs)))))) ∧
    (Room c → ∀ what, Enters (.mqry p false d what) p 16
        [RegWrite.uni d (engineState s c.g what).1 ((engineState s c.g what).2 ||| c.w.ctxlbl)] 0 0 none s c) ∧
    (Room c → ∃ u w' g' e, exec (.mqry p true d .mstat) s = .next u ∧ AccessFrame p s u c w' ∧ u.group? c.ref.gid = some g' ∧
      g'.mflags = 0 ∧ g'.msat = false ∧ w'.pend = c.w.pend ++ [e] ∧
      e.ws = [RegWrite.uni d (engineState s c.g .mstat).1 ((engineState s c.g .mstat).2 ||| c.w.ctxlbl)])

/-- R379, R380, R383. CPY checks its descriptors, formats and scratch boxes, waits for room in the scoreboard and in the engine, and then
enters the engine; CWAIT ends with a read of its counter that has reached the value, and takes a failure of the group's engines as a trap
before each read. That a quad's engine holds 64 commands of each owner is how the spec is read in LOG 36, and which labels the trap of a
bad identifier absorbs, in LOG 27. -/
def Obligations.CopyEngine : Prop :=
  ∀ (p rel acq : Bool) (a b : Reg) (sc : Scope) (s : State) (c : Cur),
    (Issues s c 1 → wf (.cpy p a sc rel acq) = true →
      let i := Instr.cpy p a sc rel acq
      let reg := fun (k : Nat) => (Fin.ofNat 64 (a.val + k) : Reg)
      let r := fun (k : Nat) => (sval c.w (reg k)).toNat
      let q := r 6 + 2 ^ 32 * r 7
      let si := r 0 % 256
      let di := r 0 / 256 % 256
      let ts := tidAt s c.g.ctx c.core si
      let td := tidAt s c.g.ctx c.core di
      let traps := fun (low reason : Nat) (l : Label) => c.w.intrap = false → TrapsWith i c.pc tidInvalid (low + 2 ^ 32 * reason) l 0 s c
      let by0 := slab c.w (reg 0)
      let org := (List.range 5).map fun k => r (k + 1) / (if k = 0 ∧ ts.fmt = 1 then 2 else 1)
      let ss := if ts.scratch then ts.packed.span org td.packed else none
      let ds := if td.scratch then td.packed.span [] td.packed else none
      let fits := fun (x : Option (Nat × Nat)) (load : Bool) => ∀ lo hi, x = some (lo, hi) → scratchOk c.g lo (hi + 1 - lo) load = true
      let need := (if ts.scratch then 1 else 0) + (if td.scratch then 1 else 0)
      let odd := ts.fmt = 1 ∧ r 1 % 2 = 1
      let lab := (List.range 8).foldl (fun l k => l ||| slab c.w (reg k)) c.w.ctxlbl
      let off := ts.scratch = false ∧ td.scratch = false ∧ (s.core c.core).spF = 0
      (q % 8 ≠ 0 → c.w.intrap = false → TrapsWith i c.pc misalign q (slab c.w (reg 6) ||| slab c.w (reg 7)) 0 s c) ∧
      (q % 8 = 0 →
        (ts.st = .pending → WaitsIn i c.w.phase (.tidPending [si]) s c) ∧
        (∀ n, ts.st = .invalid n → traps si n by0) ∧
        (ts.st = .valid → td.st = .pending → WaitsIn i c.w.phase (.tidPending [di]) s c) ∧
        (ts.st = .valid → ∀ n, td.st = .invalid n → traps di n by0) ∧
        (ts.st = .valid → td.st = .valid →
          (ts.fmt ≠ td.fmt → traps si 5 by0) ∧
          (ts.fmt = td.fmt → odd → traps si 7 (by0 ||| slab c.w (reg 1))) ∧
          (ts.fmt = td.fmt → ¬odd → off → traps si 8 by0) ∧
          (ts.fmt = td.fmt → ¬odd → ¬off →
            (∀ lo hi, ss = some (lo, hi) → scratchOk c.g lo (hi + 1 - lo) true = false → c.w.intrap = false →
              TrapsWith i c.pc scratchRange lo (lab ||| ts.lab ||| td.lab) 0 s c) ∧
            (∀ lo hi, fits ss true → ds = some (lo, hi) → scratchOk c.g lo (hi + 1 - lo) false = false → c.w.intrap = false →
              TrapsWith i c.pc scratchRange lo (lab ||| ts.lab ||| td.lab) 0 s c) ∧
            (fits ss true → fits ds false →
              (freeScore s c.core < need → WaitsIn i c.w.phase (.scoreFull need) s c) ∧
              (need ≤ freeScore s c.core → 64 ≤ engineCommands s (quadOf c.core) c.g.owner → WaitsIn i c.w.phase .copyFull s c) ∧
              (need ≤ freeScore s c.core → engineCommands s (quadOf c.core) c.g.owner < 64 → ∃ u w' x, exec i s = .next u ∧
                AccessFrame p s u c w' ∧ SameEntries c.w w' ∧ SameMemory s u ∧ x ∈ u.eng.copies ∧ x.w = c.ref ∧ x.gid = c.g.gid ∧
                x.q = q ∧ x.rel = rel ∧ x.acq = acq ∧ x.pos = 0 ∧ x.scope = sc)))))) ∧
    (wf (.cwait p a b) = true →
      let i := Instr.cwait p a b
      let lab := c.w.pairLab a ||| c.w.pairLab b
      (Issues s c 1 → c.w.phase = 0 →
        (c.w.pair a % 8 ≠ 0 → c.w.intrap = false → TrapsWith i c.pc misalign (c.w.pair a) (c.w.pairLab a) 0 s c) ∧
        (c.w.pair a % 8 = 0 → c.w.eseen ≠ c.g.eseq → c.w.intrap = false →
          TrapsWith i c.pc engineTrap c.g.eaddr c.g.elbl lab s c) ∧
        (c.w.pair a % 8 = 0 → c.w.eseen = c.g.eseq → gateOut s c.ref = true → ∃ t w', exec i s = .next t ∧ OnlyWave c s t w' ∧
          w'.status = .waiting .gate i ∧ w'.phase = 0 ∧ w'.ctxlbl = c.w.ctxlbl ||| lab ∧ SameRegs c.w w' ∧ w'.pcs = c.w.pcs ∧
          w'.pend = c.w.pend)) ∧
      (Resumes s c i → c.w.phase = 3 → c.w.intrap = false → TrapsWith i c.pc c.w.target (c.w.pair a % 2 ^ 56) (c.w.pairLab a) 0 s c) ∧
      (Resumes s c i → c.w.phase = 2 →
        (c.w.pair b ≤ c.w.target → OnlyAdvances i p 1 s c) ∧
        (c.w.target < c.w.pair b → c.w.pair a % 8 = 0 → c.w.eseen ≠ c.g.eseq → c.w.intrap = false →
          TrapsWith i c.pc engineTrap c.g.eaddr c.g.elbl lab s c)))

/-- R255, R307. RELEASE and LNCH trap on a misaligned operand; otherwise each is sent, and completes with an entry that the next park
waits for; RELEASE waits first for the wave's stores, and LNCH for its accesses. When the source of a RELEASE is read is how the spec is
read in LOG 28. -/
def Obligations.ReleaseLaunch : Prop :=
  ∀ (p : Bool) (a b len : Reg) (pol aqi : Fin 64) (s : State) (c : Cur), Issues s c 1 → even a = true →
    let n := (sval c.w len).toNat
    let la := c.w.pairLab a
    (even b = true →
      let i := Instr.release p a b pol len
      (c.w.pair a % 8 ≠ 0 → c.w.intrap = false → TrapsWith i c.pc misalign (c.w.pair a) la 0 s c) ∧
      (c.w.pair a % 8 = 0 → c.w.pair b % 8 ≠ 0 → c.w.intrap = false → TrapsWith i c.pc misalign (c.w.pair b) (c.w.pairLab b) 0 s c) ∧
      (c.w.pair a % 8 = 0 → c.w.pair b % 8 = 0 → n % 8 ≠ 0 → c.w.intrap = false → TrapsWith i c.pc misalign n (slab c.w len) 0 s c) ∧
      (c.w.pair a % 8 = 0 → c.w.pair b % 8 = 0 → n % 8 = 0 → gateOut s c.ref = true → WaitsIn i c.w.phase .gate s c) ∧
      (c.w.pair a % 8 = 0 → c.w.pair b % 8 = 0 → n % 8 = 0 → gateOut s c.ref = false →
        fenceCond s c.ref ⟨false, false, true, false⟩ .pkg true = true →
        WaitsIn i c.w.phase (.kinds ⟨false, false, true, false⟩ .pkg true) s c) ∧
      (c.w.pair a % 8 = 0 → c.w.pair b % 8 = 0 → n % 8 = 0 → gateOut s c.ref = false →
        fenceCond s c.ref ⟨false, false, true, false⟩ .pkg true = false → ∃ t w' e, exec i s = .next t ∧ AccessFrame p s t c w' ∧ SameMemory s t ∧
        w'.pend = c.w.pend ++ [e] ∧ e.entry = false ∧ e.fail = none ∧
        (NoFailure c → e.left = 1 ∧ ∃ r ∈ t.gate.rels, r.pend = e.id ∧ r.w = c.ref ∧ r.pol = pol.val ∧ r.src = c.w.pair a ∧
          r.dst = c.w.pair b ∧ r.n = n ∧ r.al = la ||| c.w.pairLab b ||| slab c.w len ||| c.w.ctxlbl) ∧
        (¬NoFailure c → e.left = 0 ∧ t.gate = s.gate))) ∧
    (let i := Instr.lnch p a b aqi
     let k : Kinds := ⟨true, true, true, true⟩
     (c.w.pair a % 64 ≠ 0 → c.w.intrap = false → TrapsWith i c.pc misalign (c.w.pair a) la 0 s c) ∧
     (c.w.pair a % 64 = 0 → fenceCond s c.ref k .sys false = true → WaitsIn i c.w.phase (.kinds k .sys false) s c) ∧
     (c.w.pair a % 64 = 0 → fenceCond s c.ref k .sys false = false → ∃ t w' e, exec i s = .next t ∧ AccessFrame p s t c w' ∧
       SameMemory s t ∧ w'.pend.getLast? = some e ∧ w'.pend.length = c.w.pend.length + 1 ∧ e.entry = false ∧ e.pc = c.pc ∧
       (NoFailure c → e.fail = none → ∃ j ∈ t.gate.lnchs, j.pend = e.id ∧ j.w = c.ref ∧ j.aqi = aqi.val ∧
         j.q = (sval c.w b).toNat % 512)))

/-- R257, R258, R259, R260. LBLRD reads the label of any register under that label; PROBE takes an entry with what a load's translation
finds; TLBINV of a privileged wave waits for the wave's accesses and removes the matching entries of every TLB; a wave that is not
privileged traps PRIV. -/
def Obligations.LabelsAndTranslations : Prop :=
  ∀ (p pa : Bool) (d a b : Reg) (m : MReg) (h : Fin 16) (k : Fin 4) (kind : TlbKind) (s : State) (c : Cur), Issues s c 1 →
    let reads := fun (x : LblReg) (l : Label) => WritesS (.lblrd p d x) p 1 d (l.setWidth 32) (l ||| c.w.ctxlbl) s c
    reads (.s a) (slab c.w a) ∧ (a.val < c.g.vdecl → reads (.v a) (vlab c.w a)) ∧ reads (.m m) (c.w.mreg m).lab ∧
    (h.val < c.g.hdecl → reads (.h h) (c.g.hreg h).lab) ∧ (k.val < c.g.adecl → reads (.a k) (c.g.acc k).lab) ∧
    (even a = true → even b = true →
      (Room c → privileged s c.g = false → c.w.intrap = false → TrapsAt (.probe p true a b) c.pc privOp 0 s c) ∧
      (Room c → (pa = true → privileged s c.g = true) →
        let q := (translate c.core c.g.owner c.g.ctx (c.w.pair a) .load (atIssue s c)).1.res
        ∃ t w' e, exec (.probe p pa a b) s = .next t ∧ AccessFrame p s t c w' ∧ SameMemory s t ∧ w'.pend.getLast? = some e ∧
          w'.pend.length = c.w.pend.length + 1 ∧ e.entry = true ∧ e.pc = c.pc ∧
          ∀ x, q = .ok x → e.fail = none ∧
            let l := c.w.pairLab a ||| c.w.ctxlbl ||| x.lab
            let v := if pa then (x.pa + (c.w.pair a - x.va)) % 2 ^ 52 else probeOk x + 2 ^ 32 * x.lab.toNat
            e.ws = [RegWrite.uni b (BitVec.ofNat 32 v) l, RegWrite.uni (b.val + 1) (BitVec.ofNat 32 (v / 2 ^ 32)) l])) ∧
    (wf (.tlbinv p kind a b) = true →
      let i := Instr.tlbinv p kind a b
      let all : Kinds := ⟨true, true, true, true⟩
      (privileged s c.g = false → c.w.intrap = false → TrapsAt i c.pc privOp 0 s c) ∧
      (privileged s c.g = true → c.w.phase = 0 → fenceCond s c.ref all .sys false = true → WaitsIn i 0 (.kinds all .sys false) s c) ∧
      (privileged s c.g = true → c.w.phase = 0 → fenceCond s c.ref all .sys false = false → ∃ t w', exec i s = .next t ∧
        t.wave? c.ref = some w' ∧ SameRegs c.w w' ∧ SameCtx c.w w' ∧ SameEntries c.w w' ∧ OtherWaves c s t ∧ SameMemory s t ∧
        (Advances p 1 c s w' ∨ ((∃ n, w'.status = .waiting (.tlb n) i) ∧ w'.phase = 1 ∧ w'.pcs = c.w.pcs)) ∧
        (∀ e ∈ t.cores, ∀ x ∈ e.2.utlb, s.timed x.owner = false →
          invTlb kind (c.w.pair a) (match kind with | .owner => (sval c.w b).toNat % 8 | .all => 0 | _ => (sval c.w b).toNat % 2 ^ 20) x = false) ∧
        (∀ x ∈ t.mem.qtlb, s.timed x.2.owner = false →
          invTlb kind (c.w.pair a) (match kind with | .owner => (sval c.w b).toNat % 8 | .all => 0 | _ => (sval c.w b).toNat % 2 ^ 20) x.2 = false)))

/-- R28, R31. At a slot's first cycle the live code decides who uses it: the owner's oldest eligible request, SYS work, or, by
round-robin, an ELASTIC owner, past whom the pointer then moves; without a candidate the slot stays idle. An admitted request completes
its padded service after exactly the class's time and goes on to its next leg or, behind the last, to the step that it was for. R34, R35.
ROTA_TBL writes change the staged copy alone; COMMIT captures it, unless a check refuses the commit, with the first check's ERRCODE. That
an accepted commit leaves ERR and ERRCODE as they are is the model's choice (LOG 33). -/
def Obligations.SlotsCommits : Prop :=
  ((∀ (cls : RotaClass) (inst : RotaInst) (s : State) (q : RotaQ), s.rota.insts.find? (·.inst = inst) = some q → q.cls = cls →
     q.next = some s.now →
     let i := Instr.slotStart cls inst
     let code := slotCode s cls s.now
     let waiting := if instOpen s inst then q.queue.filterMap s.req? else []
     let own := fun (o : Nat) => oldest s.now (fun r => r.owner == o && !r.sys) waiting
     let work := oldest s.now (·.sys) waiting
     let held := ∃ x, s.owner? code = some x ∧ x.st ≠ .retired
     let order := elasticOrder s q.ptr
     let serves := fun (r : Req) (ptr : Nat) => ∃ u q', exec i s = .next (onAdmit r u) ∧ u.req? r.id = some { r with adm := some s.now } ∧
       (s.now + service cls, .paddedServiceComplete r.id) ∈ u.agenda ∧
       u.rota.insts.find? (·.inst = inst) = some q' ∧ q'.ptr = ptr ∧ q'.queue = q.queue.filter (· != r.id)
     let idle := ∃ t q', exec i s = .next t ∧ t.rota.reqs = s.rota.reqs ∧
       t.rota.insts.find? (·.inst = inst) = some q' ∧ q'.ptr = q.ptr ∧ q'.queue = q.queue
     (code < 8 → held → ∀ r, own code = some r → serves r q.ptr) ∧
     (code = 9 → ∀ r, work = some r → serves r q.ptr) ∧
     ((code < 8 → held → own code = none ∧ stressed s inst code = false) → (code = 9 → work = none) →
       (∀ o ∈ order, stressed s inst o = false) →
       ((∀ o ∈ order, own o = none) → idle) ∧
       ∀ (k o : Nat) (r : Req), order[k]? = some o → own o = some r → (∀ j x : Nat, j < k → order[j]? = some x → own x = none) → serves r ((o + 1) % 8))) ∧
   (∀ (req : Nat) (s : State) (r : Req), s.req? req = some r →
     (∀ c i rest, r.legs = .rota c i :: rest → ∃ a, r.adm = some a ∧ a + service c = s.now) → r.legs ≠ [] →
     ∃ t, exec (.paddedServiceComplete req) s = .next t ∧
       (r.legs.length = 1 → t.req? req = none ∧ ∀ j, purposeStep s r.purpose = some j → (s.now, j) ∈ t.agenda) ∧
       (∀ l n rest, r.legs = l :: .hold n :: rest → t.req? req = some { r with legs := .hold n :: rest, inp := inputAfter r.legs } ∧
         (s.now + n, .paddedServiceComplete req) ∈ t.agenda) ∧
       (∀ l c i rest, r.legs = l :: .rota c i :: rest →
         t.req? req = some { r with legs := .rota c i :: rest, inp := inputAfter r.legs, entered := s.now, adm := none } ∧
         ∃ q', t.rota.insts.find? (·.inst = i) = some q' ∧ req ∈ q'.queue ∧ q'.next.isSome = true) ∧
       (∀ l c i rest, r.legs = l :: .turn :: .rota c i :: rest → t.req? req =
         some { r with legs := .rota c i :: rest, inp := inputAfter r.legs, resp := true, entered := s.now, adm := none })) ∧
   (∀ (r : WaveRef) (e : Nat) (s : State) (w : Wave) (p : Pend), s.wave? r = some w → (∀ f ∈ s.mem.fabs, f.id ≠ e) → p ∈ w.pend → p.id = e →
     p.left ≠ 0 → ∃ t, exec (.resultReturn r e) s = .next t ∧
       t.wave? r = some { w with pend := amend (·.id == e) (fun p => { p with left := p.left - 1 }) w.pend })) ∧
  ((∀ (cls : RotaClass) (v : BitVec 64) (s : State), ∃ t, exec (.rotaTblWrite cls v) s = .next t ∧
     t.rota.staged.getD cls.code rotaReset = v ∧
     (∀ c : RotaClass, c ≠ cls → t.rota.staged.getD c.code rotaReset = s.rota.staged.getD c.code rotaReset) ∧
     t.rota.live = s.rota.live ∧ t.rota.pend = s.rota.pend) ∧
   ∀ (repair : Bool) (s : State), ∃ t, exec (.commit repair) s = .next t ∧ t.rota.live = s.rota.live ∧ t.rota.staged = s.rota.staged ∧
     t.rota.repair = repair ∧
     let reserved := ∃ x ∈ s.rota.staged, ∃ k : Nat, k < 16 ∧ 10 ≤ tableEntry x k
     let sys := ∃ k : Nat, k < 16 ∧ tableEntry (s.rota.staged.getD RotaClass.hbm.code 0) k = 9
     let fixed := repair = false ∧ ∃ o ∈ s.owners, o.timed = true ∧ (o.st = .running ∨ o.st = .switching) ∧
       slotsChanged s.rota.live s.rota.staged o.id = true
     let refuses := fun (n : Nat) => t.rota.err = true ∧ t.rota.errcode = n ∧ t.rota.pend = s.rota.pend
     (s.rota.pend ≠ none → refuses 4) ∧
     (s.rota.pend = none → reserved → refuses 1) ∧
     (s.rota.pend = none → ¬reserved → ¬sys → refuses 2) ∧
     (s.rota.pend = none → ¬reserved → sys → fixed → refuses 3) ∧
     (s.rota.pend = none → ¬reserved → sys → ¬fixed → t.rota.pend = some ⟨s.rota.staged, repair, none⟩ ∧ t.rota.err = s.rota.err ∧
       t.rota.errcode = s.rota.errcode))

/-- The steps of a super-frame boundary (R27, R35, R38, R40, R44, R315, R425): the ends of switches and what is owed for them, the pending
commit, the hub's own, repairs, the clock step, compactions and switches, in this order; the next boundary is 256 cycles on. A pending
commit that no switch holds up makes the captured tables live at the boundary, and creates its owner; a clock step changes the clock
there. By the model's choice a clock step that is not valid is ignored (LOG 24). R45, R424, R425. The life of an owner: CREATE waits for
its commit and changes nothing when a check refuses it; the mode of a CREATED owner alone may change; a switch's end makes the owner
RUNNING; RETIRE clears what the owner held and is refused with kernels resident or queued. That RETIRE drops the lines of its L1s and
constant caches is the model's choice (LOG 26). -/
def Obligations.BoundariesOwners : Prop :=
  ((∀ s : State, s.now = s.clk.boundary →
     let s1 := takeOwed (endElastic (countSecond (s.setClk { s.clk with boundary := s.clk.boundary + 256 })))
     let s3 := hubCommit (takeCommit s1)
     let s5 := takeMoves (takeRepairs s3)
     let s7 := hubCompact (takeStep s5)
     let held := fun (o : Nat) => s.owners.any fun y => y.id == o && switchHeld (s.setClk { s.clk with boundary := s.clk.boundary + 256 }) o
     let switch := fun (u : State) (x : Owner) => if held x.id then holdBack x.id u else if wantsSwitch u x then beginSwitch x.id u else u
     ∃ t, exec .superframeBoundary s = .next t ∧ t = s7.owners.foldl switch s7 ∧
       (∀ c, s.rota.pend = some c → commitHeld s c = false → s.rota.retired = [] → t.rota.live = c.tables ∧ t.rota.pend = none) ∧
       (s.rota.pend = none → s.rota.retired = [] → t.rota.live = s.rota.live ∧ t.rota.pend = none) ∧
       (s.clk.trip = false → ∀ mhz, s.clk.step = some mhz → t.clk.mhz = mhz ∧ t.clk.step = none) ∧
       (s.clk.trip = false → s.clk.step = none → t.clk.mhz = s.clk.mhz)) ∧
   (∀ (s : State) (o : Nat) (x : Owner), (s.owners.map (·.id)).Nodup → s.owner? o = some x → x.st ≠ .switching → ∃ y, (takeOwed s).owner? o = some y ∧ y.owed = 0 ∧
     (x.owed = 0 → y.repepoch = x.repepoch) ∧
     (x.owed ≠ 0 → x.st ≠ .retired → (x.repAt ≠ some s.now → y.repepoch = x.repepoch + 1) ∧
       ∃ e, (takeOwed s).rel.events.head? = some e ∧ e.kind = 6 ∧ e.cycle = s.now)) ∧
   (∀ (s : State) (c : Captured), s.rota.pend = some c →
     (commitHeld s c = true → takeCommit s = s) ∧
     (commitHeld s c = false → (takeCommit s).rota.live = c.tables ∧ (takeCommit s).rota.pend = none ∧
       (c.repair = true → ∃ e, (takeCommit s).rel.events.head? = some e ∧ e.kind = 7 ∧ e.cycle = s.now) ∧
       ∀ o, c.create = some o → ∃ x, (takeCommit s).owner? o.id = some x ∧ x.st = .created ∧ x.spec = o ∧ x.repepoch = 0)) ∧
   (∀ (mhz : Nat) (s : State), ∃ t, exec (.clockStep mhz) s = .next t ∧ t.clk.mhz = s.clk.mhz ∧
     (clockStepOk mhz = true → t.clk.step = some mhz) ∧ (clockStepOk mhz = false → t.clk = s.clk)) ∧
   ∀ (s : State) (mhz : Nat), s.clk.trip = false → s.clk.step = some mhz → (s.owners.map (·.id)).Nodup →
     (takeStep s).clk.mhz = mhz ∧ (takeStep s).clk.step = none ∧
     ∀ o x, s.owner? o = some x → x.repAt ≠ some s.now → ∃ y, (takeStep s).owner? o = some y ∧
       (x.st = .created ∨ x.st = .running → y.repepoch = x.repepoch + 1) ∧
       (x.st = .switching → y.repepoch = x.repepoch ∧ y.owed = x.owed + 1)) ∧
  ((∀ (o : OwnerSpec) (s : State), ∃ t, exec (.create o) s = .next t ∧ t.owners = s.owners ∧ t.rota.live = s.rota.live ∧
     let free := (∀ x ∈ s.owners, x.st ≠ .retired → x.id ≠ o.id.val ∧ specClash o x.spec = false) ∧
       ∀ m ∈ s.rel.moves, (∀ e ∈ o.slices, e ∉ moveSlices m) ∧ o.mscWays &&& moveWays m = 0
     let dies := (∀ c ∈ o.cores, ∃ sl ∈ o.slices, sl.1 = dieOf c) ∧ ∀ r ∈ o.seed, r.2.1 + r.2.2 ≤ 16384
     (free → dies → commitErr s s.rota.repair = 0 → t.rota.pend = some ⟨s.rota.staged, s.rota.repair, some o⟩ ∧ t.hub.status = s.hub.status) ∧
     (¬free ∨ ¬dies ∨ commitErr s s.rota.repair ≠ 0 → t.rota.pend = s.rota.pend ∧ t.hub.status = "CREATE" :: s.hub.status)) ∧
   (∀ (o : Fin 8) (m : Mode) (s : State), ∃ t, exec (.ownerModeChange o m) s = .next t ∧
     (∀ x, s.owner? o = some x → x.st = .created → ∃ y, t.owner? o = some y ∧ y = { x with timed := decide (m = .timed), stress := x.stress && decide (m ≠ .timed) }) ∧
     (∀ x, s.owner? o = some x → x.st ≠ .created → t.owners = s.owners ∧ t.hub.status = "MODE" :: s.hub.status) ∧
     (s.owner? o = none → t.owners = s.owners)) ∧
   (∀ (o : Fin 8) (s : State) (x : Owner), s.owner? o = some x → x.st = .switching → x.switchAt = some s.now →
     ∃ t y, exec (.switchEnd o) s = .next t ∧ t.owner? o = some y ∧ y.st = .running ∧ y.switchAt = none ∧ y.owed = x.owed ∧ y.repepoch = x.repepoch) ∧
   ∀ (o : Fin 8) (s : State), ∃ t, exec (.retire o) s = .next t ∧
     ∀ x, s.owner? o = some x →
       ((x.st = .created ∨ x.st = .running) → ownerBusyKernels s o = false → t.rota.retired = s.rota.retired ++ [o.val] ∧
         (∃ y, t.owner? o = some y ∧ y.st = .retired ∧ y.clcount = 0) ∧
         (∀ y ∈ t.mem.l2, (y.die, y.slice) ∉ x.spec.slices) ∧ (∀ e ∈ t.mem.msc, e.own ≠ o.val) ∧ (∀ e ∈ t.mem.pwc, e.2.1 ≠ o.val) ∧
         (∀ r ∈ t.rota.reqs, r.owner ≠ o.val) ∧ (∀ m ∈ t.rel.moves, m.1 ≠ o.val) ∧
         ∀ e ∈ t.cores, e.1 ∈ x.spec.cores → e.2.l1 = [] ∧ e.2.cc = []) ∧
       (¬(x.st = .created ∨ x.st = .running) ∨ ownerBusyKernels s o = true → t.owners = s.owners ∧ t.rota = s.rota ∧
         t.hub.status = "RETIRE" :: s.hub.status))

/-- R426, R220, R397, R401. A store leaves its core once and is complete when every line of it has been acknowledged. A reply completes
its request: the tag is free, nothing is sent again, PATHCNT goes down; before the round-trip bound of a TIMED owner it waits, and a reply
that no request takes is counted in STALE. R219, R222, R394, R402. At its home a packet is performed once: one that came before is not
applied again, one that must follow lower packets of its delivery context waits; a store's bytes are written, the highest lane's last; an
atomic reads, operates and writes its word; an engine's counter add of 8 bytes adds 1; a load gives its lanes the home's bytes, under
those that its wave has sent and that are not there yet, and its reply those of the line. No other byte changes. Where PEER and POD
accesses are performed is the model's choice (LOG 7), and so are what an incoming atomic leaves (LOG 16) and whether the host answers a
load with poison, which fails it with ECC_UNCORR (LOG 20). -/
def Obligations.StoresHomes : Prop :=
  ((∀ (n : Nat) (s : State) (x : Store), s.mem.stores.find? (·.id == n) = some x → x.started = false →
     ∃ t, exec (.storeWriteThrough n) s = .next t ∧ t.mem.stores.find? (·.id == n) = some { x with started := true } ∧
       SameMemory s t ∧ t.groups = s.groups) ∧
   (∀ (n : Nat) (s : State) (x : Store), s.mem.stores.find? (·.id == n) = some x → x.started = true →
     ∃ t, exec (.writeThroughAck n) s = .next t ∧ SameMemory s t ∧ t.groups = s.groups ∧
       (x.left ≤ 1 → ∀ y ∈ t.mem.stores, y.id ≠ n) ∧
       (1 < x.left → t.mem.stores.find? (·.id == n) = some { x with left := x.left - 1 })) ∧
   (∀ (i : Instr) (n : Nat) (s : State) (f : FabReq), s.fab? n = some f → (∀ x ∈ s.mem.stores, x.id ≠ n) →
     ((i = .writeThroughAck n ∧ f.typ = .host) ∨ (i = .remoteStoreAck n ∧ f.acc.kind = .store ∧ f.typ ≠ .host) ∨ i = .resultReturn f.w n) →
     ∃ t, exec i s = .next t ∧ SameMemory s t ∧
       (f.gone = true → (f.back = false → t.mem.fabs = s.mem.fabs) ∧
         ∀ o, s.owner? f.owner = some o → ∃ y, t.owner? f.owner = some y ∧ y.stale = min 0xFFFF (o.stale + 1)) ∧
       (f.gone = false → f.bound = some false → t.fab? n = some { f with back := true } ∧ t.groups = s.groups ∧ t.cores = s.cores) ∧
       (f.gone = false → f.bound ≠ some false → (∀ y ∈ (t.core f.core).tags, y.tag = f.tag → y.req ≠ some n) ∧
         (∀ y ∈ t.link.sent, y.id ≠ n) ∧ (strays s n = false → ∀ y ∈ t.mem.fabs, y.id ≠ n) ∧
         ((∀ g ∈ s.mem.fabs, g.src = .wave → g.tag ≠ maxTags) → ∀ w, s.wave? f.w = some w → ∃ w', t.wave? f.w = some w' ∧
           w'.pathcnt = (if f.counted ∧ f.src = .wave then w.pathcnt.modify f.path (· - 1) else w.pathcnt) ∧
           let posted := f.acc.kind = .store ∨ (f.src ≠ .wave ∧ f.reads = false)
           (posted ∨ f.job ≠ .idle → w'.pend = w.pend) ∧
           let bad := f.typ = .host ∧ Config.hostPoison s.mem.reads f.line = true
           let e : Fail := ⟨eccUncorr, (f.acc.lanes.head?.map (·.va)).getD 0 % 2 ^ 56, f.acc.al, false, false⟩
           (¬posted → f.job = .idle → w'.pend = amend (·.id == f.pend) (fun p => { p with left := p.left - 1 })
             (if bad then amend (·.id == f.pend) (fun p => { p with fail := p.fail <|> some e }) w.pend else w.pend))))) ∧
   ∀ (n : Nat) (s : State) (f : FabReq), s.fab? n = some f → f.gone = false → f.bound = some false →
     ∃ t, exec (.roundTripBound n) s = .next t ∧ SameMemory s t ∧ (f.back = false → t.fab? n = some { f with bound := some true }) ∧
       (f.back = true → (∀ y ∈ (t.core f.core).tags, y.tag = f.tag → y.req ≠ some n) ∧ (strays s n = false → ∀ y ∈ t.mem.fabs, y.id ≠ n))) ∧
  (∀ (n : Nat) (s : State) (f : FabReq), s.fab? n = some f → f.typ = .peer ∨ f.typ = .pod →
     ∃ t, exec (.homeStoreApply n) s = .next t ∧
       (∀ a, readByte .loc t a = readByte .loc s a) ∧ (∀ a, readByte .host t a = readByte .host s a) ∧
       (f.applied = true ∨ mustWait s f = true → SameMemory s t ∧ t.groups = s.groups) ∧
       (f.applied = false → mustWait s f = true → t.fab? n = some { f with atHome := true }) ∧
       (f.applied = false → mustWait s f = false →
         (∃ b d, t.fab? n = some { f with atHome := true, applied := true, fill := b, data := d }) ∧
         (f.acc.kind = .store → t.groups = s.groups ∧ ∀ a, readByte .peer t a = (f.byteAt a).getD (readByte .peer s a)) ∧
         (f.acc.kind = .atomic → f.acc.n = 8 → t.groups = s.groups ∧
           let pa := f.pas.headD 0
           cellVal t.mem.remote pa 8 = (cellVal s.mem.remote pa 8 + 1) % 2 ^ 64 ∧
             ∀ a, a < pa ∨ pa + 8 ≤ a → readByte .peer t a = readByte .peer s a) ∧
         (f.acc.kind = .atomic → f.acc.n ≠ 8 →
           let pa := f.pas.headD 0
           let r := f.acc.op.at (BitVec.ofNat 32 (cellVal s.mem.remote pa 4)) f.acc.lanes
           cellVal t.mem.remote pa 4 = r.1.toNat ∧ (∀ a, a < pa ∨ pa + 4 ≤ a → readByte .peer t a = readByte .peer s a) ∧
           ∀ w, s.wave? f.w = some w → t.wave? f.w =
             some { w with pend := amend (·.id == f.pend) (fun p => r.2.foldl (fun p e => p.fill e.1 e.2.toNat) p) w.pend }) ∧
         (f.acc.kind = .load ∨ f.acc.kind = .const → SameMemory s t ∧
           t.fab? n = some { f with atHome := true, applied := true, fill := some (homeBytes s.mem f.typ f.line), data := f.found s } ∧
           let val := fun (pa : Nat) => leVal (((f.found s).drop (pa - f.line)).take f.acc.n)
           let got := fun (p : Pend) => (f.acc.lanes.zip f.pas).foldl (fun p e => p.fill e.1.lane (val e.2)) p
           (f.job ≠ .idle → t.groups = s.groups) ∧
           (f.job = .idle → ∀ w, s.wave? f.w = some w → t.wave? f.w = some { w with pend := amend (·.id == f.pend) got w.pend }) ∧
           ((∀ g ∈ s.mem.fabs, g.id < f.id → g.acc.kind ≠ .store ∨ g.applied = true) → f.own = [] →
             f.found s = homeBytes s.mem f.typ f.line))))

/-- R395, R397, R398. A request that times out fails, unknown for an atomic that may have been performed; its tag is held, a generation
on, until 65,536 µs after its issue, and then free, for a post that waits for one. A packet that is not acknowledged for 20 µs is sent
again, unless it still waits at the sender for its slot. R223, R404, R405. The host takes a line: the device's copies of it go, and it
holds what the host wrote, but for bytes that an atomic of the bridge still overwrites. The bridge reads and writes the LOCAL memory that
firmware exposes, its traffic in SYS slots; an access to any other does nothing, by the model's choice (LOG 39). That host accesses are
performed in one step (LOG 7), and when the two halves of a bridge atomic are (LOG 36), is the model's choice. -/
def Obligations.TimeoutsHost : Prop :=
  ((∀ (n : Nat) (s : State) (f : FabReq), s.fab? n = some f → f.gone = false →
     f.src = .wave ∨ f.src = .group →
     ∃ t, exec (.fabricTimeout n) s = .next t ∧ SameMemory s t ∧ t.fab? n = some { f with gone := true, counted := false } ∧
       look 0 f.tag (t.core f.core).gens = (f.gen + 1) % 16 ∧ (∀ y ∈ t.link.sent, y.id ≠ n) ∧
       (wallDue s f.issued 65536, Instr.tagHoldExpire f.core f.tag) ∈ t.agenda ∧
       let bad : Fail := ⟨fabTimeout, (f.acc.lanes.head?.map (·.va)).getD 0 % 2 ^ 56, f.acc.al, decide (f.acc.kind ≠ .atomic),
         decide (f.acc.kind = .atomic)⟩
       ∀ w, s.wave? f.w = some w → ∃ w', t.wave? f.w = some w' ∧
         (f.acc.kind = .store → ∃ p, w'.pend = insertPend p w.pend ∧ p.id = n ∧ p.pc = f.pc ∧ p.entry = false ∧ p.left = 0 ∧ p.fail = some bad) ∧
         (f.reads = true → f.job ≠ .idle → w'.pend = w.pend) ∧
         (f.acc.kind ≠ .store → f.reads = false ∨ f.job = .idle → w'.pend = amend (·.id == f.pend) (fun p => { p with left := p.left - 1 })
           (amend (·.id == f.pend) (fun p => { p with fail := p.fail <|> some bad }) w.pend))) ∧
   (∀ (core tag : Nat) (s : State) (u : TagUse), u ∈ (s.core core).tags → u.tag = tag → u.req = none → u.till ≤ s.wall →
     ∃ t, exec (.tagHoldExpire core tag) s = .next t ∧ SameMemory s t ∧ (∀ y ∈ (t.core core).tags, y.tag = tag → y.req ≠ none) ∧
       ((∀ g ∈ s.mem.fabs, g.tag ≠ maxTags) → (t.core core).tags = (s.core core).tags.filter (·.tag != tag) ∧ t.groups = s.groups)) ∧
   ∀ (n : Nat) (s : State) (x : Sent) (f : FabReq), x ∈ s.link.sent → x.id = n → x.last + 20 * usTicks ≤ s.wall → s.fab? n = some f →
     ∃ t, exec (.retransmit n) s = .next t ∧ SameMemory s t ∧ (wallDue s s.wall 20, Instr.retransmit n) ∈ t.agenda ∧
       ((∀ p, pathPort s f.key.dstpkg p = none) → t.link = s.link ∧ t.rota = s.rota) ∧
       (atSender s n = true → t.link = s.link ∧ t.rota = s.rota) ∧
       (atSender s n = false → (pathPort s f.key.dstpkg f.path).isSome = true → (∀ y ∈ t.link.sent, y.id = n → y.last = s.wall) ∧
         ∃ r ∈ t.rota.reqs, r.purpose = .remote n ∧ r.id = s.rota.nextReq)) ∧
  ((∀ (line : Nat) (data : List (Nat × Byte)) (s : State), ∃ t, exec (.hostSnoop line data) s = .next t ∧
     (∀ a, readByte .host t a = if bridgeOwes s a then readByte .host s a
       else ((data.reverse.find? (·.1 == a)).map (·.2)).getD (readByte .host s a)) ∧
     (∀ a, readByte .loc t a = readByte .loc s a ∧ readByte .peer t a = readByte .peer s a) ∧
     (∀ y ∈ t.mem.l2, ¬(y.line.pa = line / 64 * 64 ∧ y.line.typ = .host)) ∧
     (∀ e ∈ t.cores, ∀ y ∈ e.2.l1, ¬(y.pa = line / 64 * 64 ∧ y.typ = .host)) ∧ t.groups = s.groups) ∧
   ∀ (pa n : Nat) (s : State), let seen := ∀ k, k < n → ∃ e ∈ s.link.hdm, e.2.1 ≤ pa + k ∧ pa + k < e.2.1 + e.2.2
     (∃ t, exec (.hostAccess pa n none) s = .next t ∧ SameMemory s t ∧ t.groups = s.groups) ∧
     (¬seen → ∀ w, exec (.hostAccess pa n w) s = .next s) ∧
     ∀ bs : List Byte, seen → ∃ t, exec (.hostAccess pa n (some bs)) s = .next t ∧ t.groups = s.groups ∧
       (∀ a, readByte .loc t a = if pa ≤ a ∧ a < pa + min n bs.length then bs.getD (a - pa) 0 else readByte .loc s a) ∧
       (∀ a, readByte .host t a = readByte .host s a ∧ readByte .peer t a = readByte .peer s a))

/-- R245, R247. A walk's end gives its translation to its core's micro-TLB; a poisoned frame's leaves become POISONED in every owner's
tables, and a record of kind 8 says so. R217. A timestamp reset that is due waits until the owner's groups and accesses are at rest, which
it asks for, the first groups of a TIMED owner's launch apart, whose padded dispatch it lies in; then every lease clock of its cores,
every timestamp of its lines and every MTS of its slices is 0. That the clean lines of its L1 go with them is the model's choice (LOG 26).
-/
def Obligations.WalksTimestamps : Prop :=
  ((∀ (n : Nat) (s : State) (x : Walk), s.mem.walks.find? (·.id == n) = some x →
     ∃ t, exec (.pageWalkComplete n) s = .next t ∧ (∀ y ∈ t.mem.walks, y.id ≠ n) ∧ (∀ e, x.tlb = some e → e ∈ (t.core x.core).utlb) ∧
       SameMemory s t ∧ t.groups = s.groups) ∧
   ∀ (frame : Nat) (s : State),
     let leaves := s.owners.flatMap fun o => leavesOf s.mem.cells (4096 * frame) walkLevels o.spec.s2root
     ∃ t, exec (.framePoisoned frame) s = .next t ∧
       (∀ a ∈ leaves, (readByte .loc t a).toNat / 4 % 8 = 3 ∧ ∀ k < 8, k < 2 ∨ 5 ≤ k → (readByte .loc t a).getLsbD k = (readByte .loc s a).getLsbD k) ∧
       (∀ a, a ∉ leaves → readByte .loc t a = readByte .loc s a) ∧ t.rel.frames = s.rel.frames ++ [frame] ∧
       ∃ e, t.rel.events.head? = some e ∧ e.kind = 8 ∧ e.unit = frame ∧ e.cycle = s.now / 256 * 256) ∧
  (∀ (o : Fin 8) (s : State) (x : Owner), s.owner? o = some x → x.resetReq = true →
     let blocks := fun (g : Group) => g.owner = o.val ∧ g.resident = true ∧
       ¬(x.timed = true ∧ ∃ k, s.kernel? g.kernel = some k ∧ (k.st = .preloading ∨ k.st = .dispatching))
     let busy := (∃ g ∈ s.groups, blocks g) ∨ ownerBusy s o = true
     ∃ t, exec (.timestampReset o) s = .next t ∧
       (busy → t.owner? o = some { x with reset := true } ∧
         t.groups.length = s.groups.length ∧ ∀ (j : Nat) (g : Group), s.groups[j]? = some g →
           (blocks g → t.groups[j]? = some { g with stop := true }) ∧ (¬blocks g → t.groups[j]? = some g)) ∧
       (¬busy → t.owner? o = some { x with resetReq := false, reset := false } ∧ t.groups = s.groups ∧ SameMemory s t ∧
         (∀ e ∈ t.cores, e.1 ∈ x.spec.cores → e.2.lclk = 0 ∧ e.2.l1 = []) ∧ (∀ e ∈ t.cores, e.1 = hubClock o → e.2.lclk = 0) ∧
         (∀ y ∈ t.mem.stamps, y.own = o.val → y.wts = 0 ∧ y.rts = 0) ∧ (∀ e ∈ t.mem.mts, e.1 ≠ o.val) ∧
         ∀ y ∈ t.mem.l2, (y.die, y.slice) ∈ x.spec.slices → y.line.typ = .loc → y.line.wts = 0 ∧ y.line.rts = 0))

/-- R252, R254, R416. A gate command runs while none does; INSTALL reports its first failing check, else it writes the body, clears the
counts and fills every owner's bucket; REMOVE makes the policy invalid; buckets fill at multiples of 2^20; a key that no bound context's
tenant uses may change, all its 1,312 bytes, and with it go the policies that name the tenant. R254, R308, R365. The end of a RELEASE, an
LNCH or a TSET at its device: the wave's record of it has returned, with the failure that the device found, and only a failed one may be
sent again (R272); a TSET's new entry stands in every copy of the table, and an LNCH whose ring write is performed has advanced its queue
first. -/
def Obligations.GateDevice : Prop :=
  ((∀ (pol : Fin 64) (s : State),
     (s.gate.busy = true → exec (.install pol) s = .next s ∧ exec (.remove pol) s = .next s) ∧
     (s.gate.busy = false → ∃ t u c, exec (.install pol) s = .next t ∧ exec (.remove pol) s = .next u ∧
       t.gate = { s.gate with op := 1, pol := pol.val, busy := true, done := false, err := 0 } ∧
       u.gate = { s.gate with op := 2, pol := pol.val, busy := true, done := false, err := 0 } ∧
       (c, Instr.gateCommandDone) ∈ t.agenda ∧ (c, Instr.gateCommandDone) ∈ u.agenda)) ∧
   (∀ s : State, s.gate.busy = true →
     let n := s.gate.pol
     let new : Policy := { Policy.none with body := s.gate.body }
     let ts := (List.range 16).filter new.labelSet.getLsbD
     let unsigned := ∃ k ∈ ts, Config.mldsaVerify ((tenKey s k).getD []) (Config.sha3 s.gate.body) (look [] k s.gate.sigs) = false
     let sized := new.result ≠ 0 ∧ 8 ≤ new.byteLim ∧ new.byteLim ≤ 4096
     ∃ t, exec .gateCommandDone s = .next t ∧ t.gate.busy = false ∧ t.gate.done = true ∧
       let fails := fun (e : Nat) => t.gate.err = e ∧ t.gate.pols = s.gate.pols
       (s.gate.op = 1 → (policy s n).valid = true → fails 3) ∧
       (s.gate.op = 1 → (policy s n).valid = false →
         (new.labelSet = 0 → fails 2) ∧
         (new.labelSet ≠ 0 → ¬sized → fails 4) ∧
         (new.labelSet ≠ 0 → sized → (∃ k ∈ ts, tenKey s k = none) → fails 5) ∧
         (new.labelSet ≠ 0 → sized → (∀ k ∈ ts, tenKey s k ≠ none) → unsigned → fails 1) ∧
         (new.labelSet ≠ 0 → sized → (∀ k ∈ ts, tenKey s k ≠ none) → ¬unsigned → t.gate.err = 0 ∧
           policy t n = { new with valid := true, bucket := List.replicate 8 new.rate } ∧ ∀ m, m ≠ n → policy t m = policy s m)) ∧
       (s.gate.op = 2 → t.gate.err = 0 ∧ policy t n = { policy s n with valid := false } ∧ ∀ m, m ≠ n → policy t m = policy s m)) ∧
   (∀ s : State, s.now % 2 ^ 20 = 0 → ∃ t, exec .bucketRefill s = .next t ∧ t.gate.busy = s.gate.busy ∧
     t.gate.pols = s.gate.pols.map fun e => (e.1, { e.2 with bucket := List.replicate 8 e.2.rate })) ∧
   ∀ (k : Fin 16) (key : List Byte) (s : State), ∃ t, exec (.tenkeyWrite k key) s = .next t ∧
     (tenantBound s k = true → t = s) ∧
     (tenantBound s k = false → look [] k.val t.gate.tenkeys = (List.range 1312).map (fun j => key.getD j 0) ∧
       t.gate.pols = s.gate.pols.map fun e => (e.1, { e.2 with valid := e.2.valid && !e.2.labelSet.getLsbD k.val }))) ∧
  (let ret := fun (s t : State) (r : WaveRef) (n : Nat) (f : Option Fail) => ∀ w, s.wave? r = some w → ∃ w', t.wave? r = some w' ∧
     w'.pend = amend (·.id == n) (fun p => { p with
       left := p.left - 1, fail := p.fail <|> f, job := if (p.fail <|> f).isNone then .none else p.job }) w.pend ∧ SameRegs w w' ∧ w'.pcs = w.pcs ∧
     w'.status = w.status
   (∀ (n : Nat) (s : State) (r : Release), s.gate.rels.find? (·.id == n) = some r →
     ∃ t, exec (.releaseComplete n) s = .next t ∧ (∀ y ∈ t.gate.rels, y.id ≠ n) ∧ ret s t r.w r.pend r.fail) ∧
   (∀ (n : Nat) (s : State) (j : TsetJob), s.eng.tsets.find? (fun j => j.id == n && j.got.there) = some j →
     ∃ t, exec (.tsetDescriptorDone n) s = .next t ∧ (∀ y ∈ t.eng.tsets, y.id ≠ n) ∧
       (∀ m, m ≠ j.tid → look Tid.reset m (t.ctx j.ctx).tids = look Tid.reset m (s.ctx j.ctx).tids) ∧
       (∀ cause va, j.got = .bad cause va → look Tid.reset j.tid (t.ctx j.ctx).tids = { Tid.reset with st := .invalid 1 } ∧
         ∃ al, ret s t j.w j.pend (some ⟨cause, va, al, decide (cause = pageFault ∨ cause = fabTimeout), false⟩)) ∧
       (∀ v, j.got = .val v → look Tid.reset j.tid (t.ctx j.ctx).tids = tidOf v j.lab ∧ ret s t j.w j.pend none)) ∧
   (∀ (r : WaveRef) (s : State) (w : Wave) (i : Instr), s.wave? r = some w → w.phase = 1 → w.status = .waiting .cwait i →
     ∃ t, exec (.cwaitReadReturn r) s = .next t ∧ t.wave? r = some { w with phase := 2 }) ∧
   ∀ (n : Nat) (s : State) (j : LnchJob), s.gate.lnchs.find? (·.id == n) = some j →
     (∀ cause va, j.pkt = .bad cause va → ∃ t, exec (.lnchComplete n) s = .next t ∧ (∀ y ∈ t.gate.lnchs, y.id ≠ n) ∧
       ret s t j.w j.pend (some ⟨cause, va % 2 ^ 56, j.absorb, decide (cause = pageFault ∨ cause = fabTimeout), false⟩)) ∧
     ((∀ cause va, j.pkt ≠ .bad cause va) → ∀ d, j.due = some d → d ≤ s.now →
       (j.ring = none → (∀ x ∈ s.hub.slots, .lnch n ∉ x.line) → ∃ t, exec (.lnchComplete n) s = .next t ∧ (∀ y ∈ t.gate.lnchs, y.id ≠ n) ∧
         ret s t j.w j.pend none) ∧
       (∀ at_, j.ring = some at_ → hubOut s (.lnch n) = false → ∃ t, exec (.lnchComplete n) s = .next t ∧ (∀ y ∈ t.gate.lnchs, y.id ≠ n) ∧
         ∀ m, mappedSlot s j.aqi j.q = some m → m.known = true → slotOf s m.n = m → m.line = [] → tailCase m (at_ + 1) = .accept →
           (slotOf t m.n).tail = (at_ + 1) % 2 ^ 32)))

/-- R283, R284. A notify is refused with an error record, in this order of checks: the context is revoked (1), it is not the interface's
(2), the offset names no queue (3), the width is not 32 bits (4); of a mapped queue its tail is accepted, ignored or refused (5), or waits
there behind an append of LNCH (R307); of any other it becomes pending. R286 to R288. MAP gives a FREE slot a queue of its interface;
UNMAP frees a slot, at the end of its dispatch if it has one, and packets left become a pending tail; RESTART lets a STALLED slot go on;
the hub maps a queue that has waited its limit when its owner has an idle slot. -/
def Obligations.QueueSlots : Prop :=
  (∀ (aqi : Fin 64) (offset width : Nat) (v : BitVec 32) (pasid : BitVec 20) (s : State), ∃ t, exec (.notify aqi offset width v pasid) s = .next t ∧
     let i := aqi.val
     let q := offset / 8
     let refused := fun (code : Nat) => ∃ r, t.hub.errRecs = (i, r) :: s.hub.errRecs ∧ r.toNat / 2 ^ 58 % 8 = code ∧ r.toNat / 2 ^ 96 = v.toNat ∧
       r.toNat / 2 ^ 76 % 2 ^ 20 = pasid.toNat ∧ t.hub.slots = s.hub.slots
     let gone := ∃ c ∈ s.ctxs, c.st = .revoked ∧ c.latched.pasid = pasid.toNat
     (gone → refused 1) ∧
     (¬gone → aqiCtx s i = none → refused 2) ∧
     ∀ c, aqiCtx s i = some c → ¬gone →
       (c.st = .revoked → refused 1) ∧
       (c.st ≠ .revoked → c.latched.pasid ≠ pasid.toNat → refused 2) ∧
       (c.st ≠ .revoked → c.latched.pasid = pasid.toNat → offset % 8 ≠ 0 ∨ (aqiOf s i).qcount ≤ q → refused 3) ∧
       (c.st ≠ .revoked → c.latched.pasid = pasid.toNat → offset % 8 = 0 → q < (aqiOf s i).qcount →
         (width ≠ 32 → refused 4) ∧
         (width = 32 →
           ((∀ x, mappedSlot s i q = some x → x.known = false) → ∃ e ∈ (aqiOf t i).pend, e.1 = q ∧ e.2.1 = v.toNat) ∧
           ∀ x, mappedSlot s i q = some x → x.known = true → slotOf s x.n = x →
             (appending s x = true → slotOf t x.n = { x with line := x.line ++ [.notify v.toNat pasid.toNat] }) ∧ (appending s x = false →
             let room := 2 ^ x.ringlog - (x.tail + 2 ^ 32 - x.headc % 2 ^ 32) % 2 ^ 32
             let step := (v.toNat + 2 ^ 32 - x.tail % 2 ^ 32) % 2 ^ 32
             let back := (v.toNat + 2 ^ 32 - x.headc % 2 ^ 32) % 2 ^ 32 < (x.tail + 2 ^ 32 - x.headc % 2 ^ 32) % 2 ^ 32
             (step ≤ room → (slotOf t x.n).tail = v.toNat ∧
               (x.st = .idle → v.toNat ≠ x.headc → (slotOf t x.n).st = .ready ∧ (slotOf t x.n).readyAt = s.wall) ∧
               (x.st ≠ .idle → (slotOf t x.n).st = x.st)) ∧
             (room < step → back → t = s) ∧
             (room < step → ¬back → ∃ r, t.hub.errRecs = (x.aqi, r) :: s.hub.errRecs ∧ r.toNat / 2 ^ 58 % 8 = 5))))) ∧
  ((∀ (n : Fin 256) (s : State),
     let x := slotOf s n
     (aqiCtx s x.asel = none → exec (.map n) s = .next s) ∧
     ∀ c, aqiCtx s x.asel = some c →
       (x.st ≠ .free ∨ (mappedSlot s x.asel x.qsel).isSome = true ∨ (aqiOf s x.asel).qcount ≤ x.qsel ∨ c.st = .revoked → exec (.map n) s = .next s) ∧
       (x.st = .free → mappedSlot s x.asel x.qsel = none → x.qsel < (aqiOf s x.asel).qcount → c.st ≠ .revoked → ∃ t, exec (.map n) s = .next t ∧
         (slotOf t n).st ≠ .free ∧ (slotOf t n).aqi = x.asel ∧ (slotOf t n).q = x.qsel ∧ (slotOf t n).ctx = c.id)) ∧
   (∀ (n : Fin 256) (s : State),
     let x := slotOf s n
     (x.st = .free ∨ x.st = .halted → exec (.unmap n) s = .next s) ∧
     (x.st = .dispatching → ∃ t, exec (.unmap n) s = .next t ∧ slotOf t n = { x with unmap := true }) ∧
     (x.st = .idle ∨ x.st = .ready ∨ x.st = .blocked ∨ x.st = .stalled → ∃ u, exec (.unmap n) s = .next (retryPending u) ∧
       (slotOf u n).st = .free ∧ (x.known = true → x.tail ≠ x.headc → x.line = [] → ∃ e ∈ (aqiOf u x.aqi).pend, e.1 = x.q ∧ e.2.1 = x.tail))) ∧
   (∀ (n : Fin 256) (s : State),
     let x := slotOf s n
     (x.st ≠ .stalled → exec (.restart n) s = .next s) ∧
     (x.st = .stalled → x.cur ≠ none → ∃ t, exec (.restart n) s = .next t ∧ slotOf t n = { x with st := .dispatching }) ∧
     (x.st = .stalled → x.cur = none → x.known = false → ∃ t, exec (.restart n) s = .next t ∧ t = readDescriptor n s) ∧
     (x.st = .stalled → x.cur = none → x.known = true → ∃ t, exec (.restart n) s = .next t ∧
       (x.tail = x.headc → (slotOf t n).st = .idle) ∧
       (x.tail ≠ x.headc → (slotOf t n).st = .ready ∧ (slotOf t n).pkt = [] ∧
         (s.now + Config.packetRead, Instr.packetReadDone (Fin.ofNat 256 n.val)) ∈ t.agenda))) ∧
   ∀ (aqi : Fin 64) (q : Nat) (s : State) (e : Nat × Nat × Nat), e ∈ (aqiOf s aqi).pend → e.1 = q → ∃ u, exec (.pendLimitExpire aqi q) s =
       .next (if (mappedSlot u aqi q).isSome then retryPending u else u) ∧
     (aqiCtx s aqi = none → u = s) ∧ ∀ c, aqiCtx s aqi = some c →
       let may := c.st ≠ .revoked ∧ mappedSlot s aqi q = none ∧ q < (aqiOf s aqi).qcount
       (¬may ∨ longestIdle s c.latched.owner = none → u = s) ∧
       (may → ∀ x, longestIdle s c.latched.owner = some x → u = mapSlot x.n aqi q (unmapNow x.n s)))

/-- R288, R289, R291. The head packet of a slot is read, as its descriptor is first where the queue was mapped without it; while it waits
for a counter the slot is BLOCKED and the counter is read again 4,096 cycles after its last read; a read that fails stalls the slot, with
an error record. R290 to R292, R305. The hub dispatches for an owner the first slot, in the order of R292, whose packet can be: a NOP,
WAIT or SIGNAL advances its queue at once, a LAUNCH that a check refuses completes with that check's reason, another becomes the slot's
kernel, or waits for its segments' read; a timestamp reset that the owner awaits comes before a launch, or within its dispatch (R217).
TIMED owners' choices fall on boundaries. R233, R294, R295, R305. A kernel's end: its log is applied, it drains, its packet completes with
status, cause and reason in the completion record's fields. The completion writes the record, CTAIL, the counter and the interrupt in this
order, each once the write before it is performed; a write that fails or times out ends it, and stalls the queue. -/
def Obligations.PacketsKernels : Prop :=
  ((∀ (n : Fin 256) (s : State),
     let x := slotOf s n
     let r := hubRead (.packetReadDone n) (.packet n.val x.tok) x.ctx (x.ringbase + 64 * (x.headc % 2 ^ x.ringlog)) 64 s
     (x.st ≠ .free → x.known = false → (∃ y ∈ s.hub.reads, y.step = .packetReadDone n) →
       exec (.packetReadDone n) s = .next (readDescriptor n.val s)) ∧
     (x.known = true → (x.st = .ready ∨ x.st = .blocked) → x.pkt = [] → ∃ t, exec (.packetReadDone n) s = .next t ∧
       (r.1 = none → t = r.2) ∧
       (∀ e, r.1 = some (.error e) → (slotOf t n).st = .stalled ∧ ∃ z, t.hub.errRecs = (x.aqi, z) :: s.hub.errRecs ∧ z.toNat / 2 ^ 58 % 8 = 6) ∧
       ∀ b, r.1 = some (.ok b) → (slotOf t n).pkt = b ∧ (slotOf t n).st = x.st ∧
         (Pkt.waits b = true → (slotOf t n).reread = some s.now) ∧
         (Pkt.waits b = false → ∃ c, (c, Instr.dispatch (Fin.ofNat 8 (slotOwner s x))) ∈ t.agenda))) ∧
   (∀ (n : Fin 256) (s : State), (slotOf s n).st = .blocked → ∃ t r, exec (.dependenceReread n) s = .next t ∧
     slotOf t n = { slotOf s n with reread := some s.now } ∧ r ∈ t.rota.reqs ∧ r.purpose = .depRead n.val (slotOf s n).tok ∧ r.id = s.rota.nextReq) ∧
   ∀ (n : Fin 256) (s : State) (at_ : Nat),
     let x := slotOf s n
     let r := hubRead (.packetReadDone n) (.depRead n.val x.tok) x.ctx (Pkt.depva x.pkt) 8 s
     x.reread = some at_ → (x.st = .ready ∨ x.st = .blocked) → ∃ t, exec (.dependenceReadDone n) s = .next t ∧
       (r.1 = none → t = r.2) ∧
       (∀ e, r.1 = some (.error e) → (slotOf t n).st = .stalled) ∧
       ∀ b, r.1 = some (.ok b) →
         (Pkt.depval x.pkt ≤ leVal b → (slotOf t n).st = .ready ∧ (slotOf t n).reread = none ∧
           ∃ c, (c, Instr.dispatch (Fin.ofNat 8 (slotOwner s x))) ∈ t.agenda) ∧
         (leVal b < Pkt.depval x.pkt → (slotOf t n).st = .blocked ∧
           ((if x.st = .ready then s.now + 4096 else max s.now (at_ + 4096)), Instr.dependenceReread n) ∈ t.agenda)) ∧
  ((∀ (o : Fin 8) (s : State) (y : Owner), s.owner? o = some y → y.st ≠ .retired → ∃ t, exec (.dispatch o) s = .next t ∧
     (y.reset = true → t = s) ∧
     (y.reset = false → y.timed = true → s.now % 256 ≠ 0 → ∃ c, (c, Instr.dispatch o) ∈ t.agenda ∧ t.hub = s.hub) ∧
     (y.reset = false → (y.timed = true → s.now % 256 = 0) →
       let order := slotOrder s o
       (∀ u, order.findSome? (fun x => tryDispatch o x s) = some u → t = u) ∧
       (order.findSome? (fun x => tryDispatch o x s) = none → t.hub.kernels = s.hub.kernels ∧ t.hub.packets = s.hub.packets ∧
         ∀ n, (slotOf t n).st = (slotOf s n).st ∧ (slotOf t n).headc = (slotOf s n).headc ∧ (slotOf t n).pkt = (slotOf s n).pkt))) ∧
   (∀ (o : Nat) (s : State) (x : QSlot), slotOf s x.n = x → x.unmap = false →
     let b := x.pkt
     let ends := fun (status cause reason : Nat) => ∃ t p, tryDispatch o x s = some t ∧ p ∈ t.hub.packets ∧ p.index = x.headc ∧ p.status = status ∧
       p.cause = cause ∧ p.reason = reason ∧ p.tag = bytesVal b 58 6 ∧ (slotOf t x.n).headc = (x.headc + 1) % 2 ^ 32
     (Pkt.kind b ≠ 1 → Pkt.reservedOk b = true → ends 0 0 0) ∧
     (Pkt.kind b ≠ 1 → Pkt.reservedOk b = false → ends 1 launchRefused 1) ∧
     (Pkt.kind b = 1 → packetReason b ≠ 0 → ends 1 launchRefused (packetReason b)) ∧
     (Pkt.kind b = 1 → packetReason b = 0 →
       let f := s.fresh
       let r := launchReason (kernelOf f.1 x f.2) (Pkt.segtab b) f.2
       let runs := fun (u : State) => ∃ t, tryDispatch o x s = some t ∧ (slotOf t x.n).st = .dispatching ∧ (slotOf t x.n).cur = some r.2.1.id ∧
         t.hub.kernels = u.hub.kernels
       let held := r.2.2.updOwner o fun y => { y with reset := true }
       let bare := r.2.2.timed o = true ∧ ∀ g ∈ r.2.2.groups, g.owner = o → g.resident = false
       (r.1 = none → tryDispatch o x s = some r.2.2) ∧
       (∀ n, r.1 = some n → n ≠ 0 → ends 1 launchRefused n) ∧
       (r.1 = some 0 → (∀ z, r.2.2.owner? o = some z → z.resetReq = false) →
         (startLaunch x r.2.1 r.2.2 = none → tryDispatch o x s = none) ∧ ∀ u, startLaunch x r.2.1 r.2.2 = some u → runs u) ∧
       (r.1 = some 0 → (∃ z, r.2.2.owner? o = some z ∧ z.resetReq = true) →
         (bare → ∀ u, startLaunch x r.2.1 held = some u → runs u) ∧
         (¬bare → tryDispatch o x s = some (held.scheduleOnce r.2.2.now (.timestampReset (Fin.ofNat 8 o))))))) ∧
   ∀ (k : Nat) (s : State) (kn : Kernel), s.kernel? k = some kn → kn.st = .dispatching →
     ∃ t k', exec (.dispatchEnd k) s = .next t ∧ t.kernel? k = some k' ∧ k'.st = .running ∧ k'.start = s.now) ∧
  ((∀ (k : Nat) (s : State) (kn : Kernel), s.kernel? k = some kn → kn.det = true → kn.st = .draining → kn.applied = false →
     ∃ t k', exec (.detLogApply k) s = .next t ∧ t.kernel? k = some k' ∧ k'.applied = true ∧ k'.detLog = [] ∧
       (s.now, Instr.kernelDrainComplete k) ∈ t.agenda) ∧
   (∀ (k : Nat) (s : State) (kn : Kernel), s.kernel? k = some kn → kn.barred = false →
     let ends := fun (st : KState) (status cause : Nat) => ∃ t k' p, exec (.kernelDrainComplete k) s = .next t ∧ t.kernel? k = some k' ∧ k'.st = st ∧
       p ∈ t.hub.packets ∧ p.id = kn.id ∧ p.status = status ∧ p.cause = cause ∧ p.index = kn.index ∧ p.reason = kn.reason ∧ p.mixed = (kn.det && kn.mixed) ∧
       (∀ x ∈ t.claims.slots, x.kernel ≠ kn.id) ∧ (s.now, Instr.packetCompletion kn.id) ∈ t.agenda
     (kn.st = .draining → (kn.det = true → kn.applied = true) → kernelWrites s k = false →
       ends .complete 0 (if kn.det = true ∧ kn.mixed = true then detMixed else 0)) ∧
     (kn.st = .faulted → ends .faulted 2 kn.cause) ∧
     (kn.st = .refused → ends .refused 1 launchRefused)) ∧
   (∀ (n : Nat) (s : State) (p : Packet), s.hub.packets.find? (fun p => p.id == n && p.ready) = some p →
     s.hub.packets.find? (·.id == n) = some p →
     let job := packetJob n
     let other := ∃ q ∈ s.hub.packets, q.id ≠ n ∧ q.aqi = p.aqi ∧ q.q = p.q ∧ q.ring ≠ none
     let r := ringOf p s
     let u := r.2
     ∃ t, exec (.packetCompletion n) s = .next t ∧
       let gone := (∀ x ∈ t.hub.packets, x.id ≠ n) ∧ (∀ x ∈ t.hub.kernels, x.id ≠ n)
       let stalls := gone ∧ ∀ x, mappedSlot s p.aqi p.q = some x → slotOf s x.n = x → (slotOf t x.n).st = .stalled
       ((s.ctx p.ctx).st = .free → gone) ∧
       ((s.ctx p.ctx).st ≠ .free → other ∨ hubOut s job = true → t = s) ∧
       ((s.ctx p.ctx).st ≠ .free → ¬other → hubOut s job = false →
         (p.bad = true → stalls) ∧
         (p.bad = false → 4 ≤ p.stage → gone) ∧
         (p.bad = false → p.stage < 4 →
           (r.1 = none → t = u) ∧ (∀ c, r.1 = some (.error c) → stalls) ∧
           ∀ base log tail, r.1 = some (.ok (base, log, tail)) →
             let write : Except Nat State :=
               if p.stage = 0 then hubWrite job p.ctx (base + 32 * (tail % 2 ^ log)) (leBytes 32 (completionRecord u p tail)) 0 u
               else if p.stage = 1 then (hubWrite job p.ctx (descVa u p.aqi p.q + 28) (leBytes 4 (tail + 1)) 0 u).map (nextTail p tail)
               else if p.stage = 2 then (if p.done = 0 then .ok u else hubAdd job p.ctx p.done u)
               else .ok (match (if p.irq then msixOf u p else none) with
                 | some m => u.setHub { u.hub with msix := (u.now, m) :: u.hub.msix }
                 | none => u)
             (∀ c, write = .error c → stalls) ∧
             ∀ v, write = .ok v →
               let v' := v.setHub { v.hub with packets := amend (·.id == n) (fun p => { p with stage := p.stage + 1, ring := some (base, log, tail) }) v.hub.packets }
               (hubOut v job = true → t = v') ∧ (hubOut v job = false → exec (.packetCompletion n) v' = .next t)))) ∧
   ∀ (s : State) (p : Packet) (ctail : Nat),
     let r := completionRecord s p ctail
     r % 2 ^ 32 = ctail % 2 ^ 32 ∧ r / 2 ^ 138 % 256 = p.reason % 256 ∧ r / 2 ^ 146 % 256 = p.cause % 256 ∧ r / 2 ^ 154 % 4 = p.status % 4 ∧
     (r / 2 ^ 156 % 2 = 1 ↔ p.mixed = true) ∧ r / 2 ^ 161 % 64 = p.aqi % 64 ∧ r / 2 ^ 167 % 512 = p.q % 512 ∧
     r / 2 ^ 176 % 2 ^ 32 = p.index % 2 ^ 32 ∧ r / 2 ^ 208 = p.tag % 2 ^ 48)

/-- R311, R313, R314, R321, R37, R197. GROUP_PLACE gives an owner's groups places, on boundaries for a TIMED owner: saved groups come
first, in the order of their save (those of a compaction by their register base), then the running kernels' next clusters, then a
dispatch; a group takes the lowest core that it fits on. A restored group is RESTORING, a placed cluster of a kernel STARTING. A group
that nothing holds back starts: its OCYC counts from its kernel's start, its waves may issue, and its core's constant cache is empty. R278
to R280, R37, R264. A save holds a frame, freezes OCYC and, complete, keeps the registers that are live where its lanes stand; a restored
group counts on and its waves run. A save or restore whose frame cannot be accessed ends the kernel FAULTED, its groups with it, writes a
fault record, suspends the context, stops its other groups and halts its queues. That the frame is looked up page by page before anything
of it is written or read is the model's choice (LOG 26). R188, R306, R315, R316, R319. A group that has ended leaves its core, and its
kernel drains behind the last; the write-back of a split change ends once no store is left in the core, and on a TIMED owner's core with
its fixed interval; patience that runs out sets FRAG for the lowest fragmented core; COMPACT stops the groups of a core and the others of
their clusters. That the write-back looks again 8 cycles later is the model's choice (LOG 33). -/
def Obligations.GroupLife : Prop :=
  ((∀ (o : Fin 8) (s : State) (x : Owner), s.owner? o = some x → x.st ≠ .retired → ∃ t, exec (.groupPlace o) s = .next t ∧
     (x.reset = true → t = s) ∧
     (x.reset = false → x.timed = true → s.now % 256 ≠ 0 → t.groups = s.groups ∧ ∃ c, (c, Instr.groupPlace o) ∈ t.agenda) ∧
     (x.reset = false → (x.timed = true → s.now % 256 = 0) → t = placeOne o s)) ∧
   (∀ (o : Fin 8) (s : State), (s.groups.map (·.gid)).Nodup →
     let t := placeOne o s
     let again := ∃ c, (c, Instr.groupPlace o) ∈ t.agenda
     let room := ((s.owner? o).bind (·.switchAt)).all fun e => decide (s.now + 65536 ≤ e)
     let held := switchHeld s o || ((s.owner? o).bind (·.heldAt)) == some s.now
     let switch := !s.timed o || (if isSwitching s o then room else !held)
     let saved := if switch then (savedOrder s o).findSome? (savedFit s) else none
     let next := (waitingKernels s o).findSome? fun k => (firstFit s k.ask k.c).map fun ps => (k, ps)
     (∀ l, saved = some l → again ∧ ∀ e ∈ l, ∃ g ∈ t.groups, g.gid = e.1.gid ∧ g.st = .restoring ∧ g.place = some e.2) ∧
     (saved = none → compacting s o = true → t = s) ∧
     (saved = none → compacting s o = false → ∀ k ps, next = some (k, ps) → again ∧ t.groups = (placeNext k ps s).groups) ∧
     (saved = none → compacting s o = false → next = none → t.groups = s.groups ∧ ∃ c, (c, Instr.dispatch o) ∈ t.agenda)) ∧
   (∀ (o : Nat) (s : State),
     let base := fun (g : Group) => (g.former.map (·.base)).getD 0
     let back := fun (g : Group) => g ∈ s.groups ∧ g.owner = o ∧ mayRestore s g = true
     (∀ g ∈ savedOrder s o, back g) ∧ (∀ g ∈ savedOrder s o, ∀ h ∈ savedOrder s o, g.compact = h.compact) ∧
     (savedOrder s o).Pairwise (fun g h => if g.compact = true then base g ≤ base h else g.savedAt ≤ h.savedAt) ∧
     ((∀ g ∈ s.groups, g.owner = o → g.compact = false) → ∀ g, back g → g ∈ savedOrder s o)) ∧
   (∀ (a : Ask) (s : State),
     (firstFit s a 1 = none ↔ ∀ n ∈ ownerCores s a.owner, fit s n a = none) ∧
     ∀ ps, firstFit s a 1 = some ps → ∃ before n behind p, ownerCores s a.owner = before ++ n :: behind ∧ fit s n a = some p ∧ ps = [p] ∧
       ∀ m ∈ before, fit s m a = none) ∧
   (∀ (k : Kernel) (ps : List Place) (s : State), s.kernel? k.id = some k → ∃ k', (placeNext k ps s).kernel? k.id = some k' ∧
     k'.next = k.next + ps.length ∧ ∀ (j : Nat) (p : Place), ps[j]? = some p → ∃ g ∈ (placeNext k ps s).groups, g.kernel = k.id ∧
       g.lin = k.next + j ∧ g.st = .starting ∧ g.place = some p ∧ g.waves.length = k.waves ∧
       ∀ w ∈ g.waves, (w.sreg 2).val.toNat = k.args % 2 ^ 32 ∧ (w.sreg 3).val.toNat = k.args / 2 ^ 32 % 2 ^ 32 ∧ (∀ l, l < 64 → w.pcAt l = k.entry) ∧
         w.ctxlbl = tenantBit (s.ctx k.ctx).latched.tenant ∧ w.intrap = false) ∧
   ∀ (n : Nat) (s : State) (g : Group) (k : Kernel), s.group? n = some g → s.kernel? g.kernel = some k → startReady s g = true →
     (s.timed g.owner = true → s.now % 256 ≠ 0 → ∃ t, exec (.groupStart n) s = .next t ∧ t.groups = s.groups ∧ ∃ c, (c, Instr.groupStart n) ∈ t.agenda) ∧
     ((s.timed g.owner = true → s.now % 256 = 0) → ∃ t g', exec (.groupStart n) s = .next t ∧ t.group? n = some g' ∧ g'.st = .running ∧
       g'.ocyc = s.now - k.start ∧ g'.counting = some s.now ∧ (∀ w ∈ g'.waves, w.ready = s.now) ∧ g'.waves.length = g.waves.length ∧
       ∀ p, g.place = some p → (t.core p.core).cc = [])) ∧
  ((∀ (n : Nat) (s : State) (g : Group), s.group? n = some g → saveNow s g = true → ∃ t g', exec (.groupSave n) s = .next t ∧
     t.group? n = some g' ∧ g'.st = .saving ∧ g'.frame = true ∧ g'.ocyc = g.ocycAt s.now ∧ g'.counting = none ∧ g'.waves = g.waves) ∧
   (∀ (n : Nat) (s : State) (g : Group) (p : Place), s.group? n = some g → g.st = .saving → saveReady s g = true → g.place = some p →
     let part := fun (m : Mma) => if m.gid == n then { m with st := .saved, adata := [], asked := false } else m
     let c := checkFrame (savedAs s g) .store (quietRows n (s.setEng { s.eng with mmas := s.eng.mmas.map part }))
     (∀ f, c.1 = some f → exec (.groupSaveComplete n) s = .next (frameFault g f c.2)) ∧
     (c.1 = none → c.2.groups = s.groups → ∃ t g', exec (.groupSaveComplete n) s = .next t ∧ t.group? n = some g' ∧ g'.st = .saved ∧
       g'.stop = false ∧ g'.place = none ∧ g'.former = some p ∧ ∀ (j : Nat) (w : Wave), g.waves[j]? = some w → ∃ w', g'.waves[j]? = some w' ∧
         SameS w w' ∧ SameM w w' ∧ SameX w w' ∧ SameTrap w w' ∧ w'.pcs = w.pcs ∧
         ∀ r, w'.vreg r = if (liveRegs s g w).getLsbD r then w.vreg r else VReg.zero)) ∧
   (∀ (g : Group) (f : Nat × Nat) (s : State) (k : Kernel), s.kernel? g.kernel = some k → (s.hub.slots.map (·.n)).Nodup →
     let t := frameFault g f s
     (∃ k', t.kernel? g.kernel = some k' ∧ k'.st = .faulted ∧ k'.cause = f.1) ∧ (∀ h ∈ t.groups, h.kernel ≠ g.kernel) ∧
     (s.now, Instr.kernelDrainComplete g.kernel) ∈ t.agenda ∧ (t.ctx g.ctx).st = .suspended ∧
     (∃ r ∈ ((logFault g 0 0 f.1 f.2 false false 0 0 s).ctx g.ctx).flog, r.seq = (s.ctx g.ctx).flogSeq + 1 ∧ r.cause = f.1 ∧
       r.addr = f.2 % 2 ^ 56 ∧ r.group = g.lin) ∧ (t.ctx g.ctx).flog = ((logFault g 0 0 f.1 f.2 false false 0 0 s).ctx g.ctx).flog ∧
     (∀ q ∈ t.hub.slots, q.ctx = g.ctx → q.st ≠ .free → q.st = .halted) ∧
     ∀ h ∈ t.groups, h.ctx = g.ctx → h.resident = true → h.stop = true) ∧
   ∀ (n : Nat) (s : State) (g : Group) (p : Place), s.group? n = some g → g.place = some p → restoreReady s g = true →
     let c := checkFrame g .load s
     let off := s.timed g.owner = true ∧ s.now % 256 ≠ 0
     (off → ∃ t, exec (.groupRestoreComplete n) s = .next t ∧ t.groups = s.groups ∧ ∃ c, (c, Instr.groupRestoreComplete n) ∈ t.agenda) ∧
     (¬off → ∀ f, c.1 = some f → exec (.groupRestoreComplete n) s = .next (frameFault g f c.2)) ∧
     (¬off → c.1 = none → c.2.groups = s.groups → (∀ m ∈ c.2.eng.mmas, m.gid ≠ n) → (∀ w ∈ g.waves, w.held = []) →
       ∃ t g', exec (.groupRestoreComplete n) s = .next t ∧ t.group? n = some g' ∧ g'.st = .running ∧ g'.counting = some s.now ∧ g'.ocyc = g.ocyc ∧
         g'.frame = false ∧ g'.replay = false ∧ ∀ (j : Nat) (w : Wave), g.waves[j]? = some w → ∃ w', g'.waves[j]? = some w' ∧
           w' = (if w.status = .stopped then { w with status := .running, ready := s.now, held := [] } else w))) ∧
  ((∀ (n : Nat) (s : State) (g : Group) (k : Kernel), s.group? n = some g → s.kernel? g.kernel = some k → endReady s g = true →
     g.st = .running ∨ g.st = .ending → ∃ t k', exec (.groupEnd n) s = .next t ∧ (∀ h ∈ t.groups, h.gid ≠ n) ∧
       t.kernel? g.kernel = some k' ∧ k'.left = k.left - 1 ∧
       (k.left ≤ 1 → k.st = .running → k'.st = .draining ∧
         (s.now, if k.det then Instr.detLogApply g.kernel else Instr.kernelDrainComplete g.kernel) ∈ t.agenda)) ∧
   (∀ (core : Nat) (s : State), (s.core core).wback = true → ∃ t, exec (.splitWritebackDone core) s = .next t ∧ t.groups = s.groups ∧
     (storesOut s core = false ∨ timedCore s core = true → (t.core core).wback = false) ∧
     (storesOut s core = true → timedCore s core = false → (t.core core).wback = true ∧
       (s.now + 8, Instr.splitWritebackDone core) ∈ t.agenda)) ∧
   (∀ (n : Nat) (s : State) (o : Nat) (a : Ask), ((s.owners.map (·.id)).findSome? fun o => (allWaiters s o).findSome? fun w =>
       if w.1 = n then some (o, w.2) else none) = some (o, a) → ∃ t, exec (.patienceExpire n) s = .next t ∧
     (fragCore s a = none → t = s) ∧
     ∀ c x, fragCore s a = some c → s.owner? o = some x → t.owner? o = some
       (if x.frag then x else { x with frag := true, fragcore := c, fragId := n, fragNew := true })) ∧
   ∀ (o : Fin 8) (core : Nat) (s : State) (x : Owner), s.owner? o = some x → ∃ t, exec (.compact o core) s = .next t ∧
     (x.cbusy = true ∨ core ∉ x.spec.cores → t = s) ∧
     (x.cbusy = false → core ∈ x.spec.cores → t.owner? o = some { x with cbusy := true, gcore := core, ccore := core } ∧
       (∀ g ∈ s.groups, g.owner = o.val → (g.place.map (·.core)) = some core → g ∈ clusterOf s g →
         ∃ g' ∈ t.groups, g'.gid = g.gid ∧ g'.stop = true ∧ g'.compact = true) ∧
       ∀ g ∈ s.groups, g.owner = o.val → g.resident = true → (g.place.map (·.core)) ≠ some core →
         (∃ h ∈ clusterOf s g, (h.place.map (·.core)) = some core) → ∃ g' ∈ t.groups, g'.gid = g.gid ∧ g'.stop = true ∧ g'.compact = false))

/-- R300, R305. A preload's end frees its kernel's groups on the core to start, unless a segment failed: then a launch that has not been
dispatched is refused with REASON 10, and any other kernel ends FAULTED with the segment's cause; a TIMED owner's preload ends at its
deadline. R156. SLOT_LOAD_COMPLETE ends the load of a slot: the slot holds what the load found, unless another load of it began since.
R379, R381, R382, R367. COPY_CHUNK_COMPLETE reads up to 256 bytes of a copy, waits for the reads off the package among them, and then
writes each element, an exact zero where the source ends, where the destination's tensor places it: in LOCAL and HOST memory, in scratch,
or by a posted store off the package; its position advances, or the copy is gone at its end, once a release's writes off the package are
performed (R231). A failed read or a failed check ends the copy with an engine error of kind 2, before anything of the chunk is written.
That bytes of LOCAL and HOST memory are written with the chunk is the model's choice (LOG 7). -/
def Obligations.Transfers : Prop :=
  ((∀ (core k : Nat) (s : State) (f : Fetch),
     s.eng.fetch.find? (fun f => f.core == core && f.kernel == some k && f.moving && f.imgs.isEmpty) = some f → ∃ t, exec (.preloadComplete core k) s = .next t ∧
       (∀ x ∈ t.eng.fetch, x.id ≠ f.id) ∧
       let failed := fun (p : Nat → Bool) => (f.slots.find? fun e => p e.1 && decide (e.2.st = .failed)).map fun e => (e.2.cause, e.2.addr)
       let part := fun (l : Preload) => if l.fetch = f.id then { l with left := 0, fail := l.fail <|> failed fun _ => true }
         else if l.also = some f.id then { l with also := none, fail := l.fail <|> failed (· == 15) } else l
       let ended := fun (l : Preload) => l.due = none ∧ l.left = 0 ∧ l.also = none
       ∀ (n : Nat) (kn : Kernel), s.kernel? n = some kn → (∃ l ∈ kn.loads, l.fetch = f.id ∨ l.also = some f.id) →
         ∃ k', t.kernel? n = some k' ∧ (∀ x ∈ k'.loads, x ∈ kn.loads.map part ∧ ¬ended x) ∧ (∀ l ∈ kn.loads, ¬ended (part l) → part l ∈ k'.loads) ∧
           let fails := ((kn.loads.map part).filter fun l => decide (ended l)).filterMap (·.fail)
           (fails = [] → k'.st = kn.st) ∧
           ∀ e tl, fails = e :: tl →
             (kn.st = .preloading → k'.st = .refused ∧ k'.reason = 10 ∧ k'.cause = launchRefused ∧ ∀ g ∈ t.groups, g.kernel ≠ n) ∧
             (kn.st ≠ .preloading → kn.st ≠ .refused → kn.st ≠ .faulted → k'.st = .faulted ∧ k'.cause = e.1)) ∧
   ∀ (core k : Nat) (s : State) (kn : Kernel), s.kernel? k = some kn →
     let out := kn.loads.filter fun l => l.core == core && l.due.any fun d => decide (d ≤ s.now)
     out ≠ [] → ∃ t k', exec (.preloadDeadline core k) s = .next t ∧ t.kernel? k = some k' ∧ (∀ l, l ∈ k'.loads ↔ l ∈ kn.loads ∧ l ∉ out) ∧
       let cause := fun (l : Preload) => if l.left = 0 ∧ l.also = none then l.fail.map (·.1) else some ((l.fail.map (·.1)).getD codeAbsent)
       (out.filterMap cause = [] → k'.st = kn.st) ∧
       ∀ e tl, out.filterMap cause = e :: tl →
         (kn.st = .preloading → k'.st = .refused ∧ k'.reason = 10 ∧ k'.cause = launchRefused) ∧
         (kn.st ≠ .preloading → kn.st ≠ .refused → kn.st ≠ .faulted → k'.st = .faulted ∧ k'.cause = e)) ∧
  (∀ (core : Nat) (slot : Fin 16) (s : State) (f : Fetch) (n : Nat) (x : Slot),
     s.eng.fetch.find? (fun f => f.core == core && f.kernel.isNone && f.moving && f.imgs.isEmpty && f.slots.any (·.1 == slot.val)) = some f →
     f.slots = [(n, x)] → n < (s.core core).slots.length → ∃ t, exec (.slotLoadComplete core slot) s = .next t ∧
       (∀ y ∈ t.eng.fetch, y.id ≠ f.id) ∧ t.groups = s.groups ∧
       (t.core core).slot n = (if ((s.core core).slot n).st = .loading ∧ ((s.core core).slot n).load = f.id then x else (s.core core).slot n)) ∧
  (∀ (copy : Nat) (s : State) (c : Copy), s.eng.copies.find? (fun c => c.id == copy && c.moving && c.vals.all (·.all EngVal.there)) = some c →
     let x := c.who s
     let n := min (256 / c.dst.size) (c.dst.total - c.pos)
     let es := (List.range n).map fun k => c.dst.coords (c.pos + k)
     let q : List EngVal × Label × State := match c.vals with
       | some v => (v, c.vlab, s)
       | none =>
         let r := chunkReads x c es s
         (r.1.vals.reverse, r.1.lab, sendBatch x .idle r.1 r.2)
     let w := chunkChecks x c (c.lab ||| q.2.1) es q.2.2
     let fail := fun (f : Nat × Nat) => firstBad q.1 = some f ∨ firstBad q.1 = none ∧ w.1 = .error f
     ∃ t, exec (.copyChunkComplete copy) s = .next t ∧
     (¬q.1.all EngVal.there → SameMemory s t ∧ ∃ c' ∈ t.eng.copies, c'.id = copy ∧ c'.pos = c.pos ∧ c'.vals = some q.1 ∧ c'.vlab = q.2.1) ∧
     (q.1.all EngVal.there →
       (∀ f, fail f → SameMemory s t ∧ (∀ y ∈ t.eng.copies, y.id ≠ copy) ∧
         ∀ g, s.group? c.gid = some g → ∃ g', t.group? c.gid = some g' ∧ g'.eseq = g.eseq + 1 ∧ g'.ekind = 2 ∧ g'.ecause = f.1 ∧
           g'.eaddr = f.2 % 2 ^ 56 ∧ g'.win = g.win) ∧
       ∀ places, firstBad q.1 = none → w.1 = .ok places →
         let puts := places.zip (chunkVals c es q.1)
         (c.pos + n < c.dst.total → ∃ c' ∈ t.eng.copies, c'.id = copy ∧ c'.pos = c.pos + n ∧ c'.lab = c.lab ||| q.2.1 ∧ c'.vals = none) ∧
         (c.dst.total ≤ c.pos + n → (∀ y ∈ t.eng.copies, y.id ≠ copy) ∨
           c.rel = true ∧ postsOut t copy c.scope = true ∧ ∃ c' ∈ t.eng.copies, c'.id = copy ∧ c'.pos = c.pos + n) ∧
         (c.pos + n < c.dst.total ∨ c.q = 0 →
           (c.dst.scratch = true → SameMemory s t ∧ ∀ g, s.group? c.gid = some g → ∃ g', t.group? c.gid = some g' ∧
             g'.win = (puts.foldl (fun g e => scratchPut e.1.2.1 c.dst.size e.2 0 g) g).win) ∧
           (c.dst.scratch = false →
             (∀ g, s.group? c.gid = some g → ∃ g', t.group? c.gid = some g' ∧ g'.win = g.win) ∧
             (∀ k, k = .loc ∨ k = .host → ∀ a, readByte k t a =
               readByte k (puts.foldl (fun m e => if e.1.1 = k then putBytes k e.1.2.1 (leBytes c.dst.size e.2) m else m) s) a) ∧
             ∀ e ∈ puts, e.1.1 = .peer ∨ e.1.1 = .pod → ∃ f ∈ t.mem.fabs, f.src = .engine 2 copy ∧ f.acc.kind = .store ∧ f.typ = e.1.1 ∧
               f.line = lineOf e.1.2.1 ∧ e.1.2.1 ∈ f.pas))))

/-- R262 to R264. BIND latches the descriptor of a FREE context, or reports the first check that fails; UNBIND, REVOKE, RESUME and PREEMPT
act in the states that the state machine names, and report ERR 1 in any other; a revoked context's queue slots are FREE; pre-emption needs
a frame for each group and stops them. That UNBIND frees the context's slots (LOG 25), and that a command is done at once, that PREEMPT
reports ERR 1 of a FREE or REVOKED context and that RESUME leaves a context with groups PREEMPTED (LOG 26), are the model's choices. R270,
R272, R276. REPLAY and DELIVER settle the groups of a context that wait for firmware, with a fault-log record of KIND 3 or 0 for each of
their waves that holds requests, its oldest request's; of a FREE context they report ERR 1. That it is one record for a wave, and that
these commands are done at once, is the model's choice (LOG 26). -/
def Obligations.ContextCommands : Prop :=
  (let ends := fun (i : Instr) (s : State) (op c err : Nat) (p : State → Prop) => ∃ t, exec i s = .next t ∧ t.hub.cmdCtx = c ∧
     t.hub.cmdOp = op ∧ t.hub.cmdErr = err ∧
     t.hub.cmdDone = true ∧ p t
   ∀ (c : Fin 1024) (s : State),
     let x := s.ctx c
     let d := x.desc
     let same := fun (t : State) => t.ctxs = s.ctxs
     let owner := ∃ o, s.owner? d.owner = some o ∧ (o.st = .created ∨ o.st = .running)
     let taken := ∃ y ∈ s.ctxs, y.id ≠ c.val ∧ y.st ≠ .free ∧ (y.latched.pasid = d.pasid ∨ y.latched.aqimask &&& d.aqimask ≠ 0)
     let shaped := 1 ≤ d.hndwords ∧ d.hndwords ≤ 2048 ∧ d.hndimg % 64 = 0 ∧ d.saveva % 2 ^ 20 = 0
     (x.st ≠ .free → ends (.bind c) s 1 c 1 same) ∧
     (x.st = .free → ¬owner → ends (.bind c) s 1 c 2 same) ∧
     (x.st = .free → owner → taken → ends (.bind c) s 1 c 3 same) ∧
     (x.st = .free → owner → ¬taken → ¬shaped → ends (.bind c) s 1 c 4 same) ∧
     (x.st = .free → owner → ¬taken → shaped → ends (.bind c) s 1 c 0 fun t => (t.ctx c).st = .bound ∧ (t.ctx c).latched = d ∧ (t.ctx c).tids = []) ∧
     (¬(x.st = .bound ∨ x.st = .revoked) → ends (.unbind c) s 2 c 1 same) ∧
     (x.st = .bound ∨ x.st = .revoked → ends (.unbind c) s 2 c 0 fun t => (t.ctx c).st = .free ∧ ∀ q ∈ t.hub.slots, q.st ≠ .free → q.ctx ≠ c.val) ∧
     (x.st = .free ∨ x.st = .revoked → ends (.revoke c) s 3 c 1 same) ∧
     (x.st ≠ .free → x.st ≠ .revoked → ends (.revoke c) s 3 c 0 fun t => (t.ctx c).st = .revoked ∧ ∀ q ∈ t.hub.slots, q.st ≠ .free → q.ctx ≠ c.val) ∧
     (x.st ≠ .suspended → ends (.resume c) s 4 c 1 same) ∧
     (x.st = .suspended → ends (.resume c) s 4 c 0 fun t =>
       (t.ctx c).st = if ∃ g ∈ s.groups, g.ctx = c.val then .preempted else .bound) ∧
     (x.st = .free ∨ x.st = .revoked → ends (.preempt c) s 5 c 1 same) ∧
     (x.st ≠ .free → x.st ≠ .revoked →
       let need := (s.groups.filter fun g => g.ctx == c.val && g.resident && !g.frame).length
       (freeFrames s c < need → ends (.preempt c) s 5 c 5 fun t => t.groups = s.groups) ∧
       (need ≤ freeFrames s c → ends (.preempt c) s 5 c 0 fun t =>
         t.groups = s.groups.map fun g => if g.ctx == c.val && g.resident then { g with stop := true } else g))) ∧
  (∀ (c : Fin 1024) (s : State),
     ((s.ctx c).st = .free → (∃ t, exec (.replay c) s = .next t ∧ t.hub.cmdErr = 1 ∧ t.hub.cmdDone = true ∧ t.groups = s.groups) ∧
       ∃ t, exec (.deliver c) s = .next t ∧ t.hub.cmdErr = 1 ∧ t.hub.cmdDone = true ∧ t.groups = s.groups) ∧
     let records := fun (kind : Nat) (pick : Group → Bool) =>
       let waves := ((s.groups.filter fun g => g.ctx == c.val && pick g).map fun g => g.waves.zipIdx.filterMap fun e =>
         e.1.held.head?.map fun p => (g.lin, e.2, e.1.held.length, p.pc, p.fail.getD ⟨0, 0, 0, false, false⟩)).flatten
       waves.zipIdx.map fun e => (⟨(s.ctx c).flogSeq + e.2 + 1, e.1.2.2.2.2.addr % 2 ^ 56, e.1.2.2.2.2.cause, e.1.1, e.1.2.1, e.1.2.2.2.1,
         e.1.2.2.2.2.cause != bkptTrap, e.1.2.2.2.2.unknown, kind, min e.1.2.2.1 32⟩ : FaultRec)
     let waits := fun (g : Group) => g.replay && g.mode == 0
     let logged := fun (t : State) (l : List FaultRec) => (t.ctx c).flog = (l.reverse ++ (s.ctx c).flog).take 256
     ((s.ctx c).st ≠ .free → (s.groups.map (·.gid)).Nodup → (s.ctx c).flog.length ≤ 256 →
       (∃ t, exec (.replay c) s = .next t ∧ t.hub.cmdErr = 0 ∧ t.hub.cmdDone = true ∧ (t.groups = s.groups.map fun g =>
         if g.ctx == c.val && waits g then { g with mode := 1 } else g) ∧ logged t (records 3 waits)) ∧
       ∃ t, exec (.deliver c) s = .next t ∧ t.hub.cmdErr = 0 ∧ t.hub.cmdDone = true ∧ (t.groups = s.groups.map fun g =>
         if g.ctx == c.val && (waits g || g.debug) then { g with mode := 2, debug := false } else g) ∧ logged t (records 0 fun g => waits g || g.debug)))

/-- R328 to R331, R333, R335, R337. A barrier's release waits while a deterministic group's merge goes on; it opens the next phase, broken
when a break came meanwhile, releases the waves that wait for the phase, and passes on the latest lease clock of those that arrived; a
cluster's exchange banks swap where an arrival asked for it, and a new phase of the back bank begins. BARCMD breaks the instances of the
levels that it names, for a group that waits for firmware, and reports ERR for any other. R338 to R340. A contribution opens the instance
of its pod job or kernel, joins it or, with another operation or count, gets its own value back with status 0xFF; an instance that is
complete, or whose timer runs out, returns the fold in the order of packages, groups and waves to every contributor of this package after
a fixed time. That other packages' contributions enter is how LOG 38 has it. -/
def Obligations.BarriersReductionsEnd : Prop :=
  ((∀ (b : BarRef) (s : State), (barAt s b).done = true → ∃ t, exec (.barrierRelease b) s = .next t ∧
     let x := barAt s b
     let waits := b.level = .grp ∧ merging s b.holder = true
     (waits → t.bars = s.bars ∧ t.groups = s.groups ∧ (s.now + 1, Instr.barrierRelease b) ∈ t.agenda) ∧
     (¬waits → barAt t b = { x with
         phase := x.phase + 1, arr := [], far := [], done := false, swap := false, broken := x.brk, brk := false, rel := x.clk } ∧
       SameMemory s t ∧ t.groups = s.groups.map fun g =>
         if barMember s b g = false then g else
           let y := if b.level ≠ .quad ∨ g.xchg = false then g else if x.swap = true then
             { g with front := g.back, flab := g.blab, back := [], blab := 0, backSrc := [] } else { g with backSrc := [] }
           { y with waves := g.waves.map fun w => if waitsFor s g b x.phase.toNat w = true then { w with phase := 2 } else w })) ∧
   ∀ (c : Fin 1024) (group : Nat) (levels : BitVec 5) (s : State), ∃ t, exec (.breakBarriers c group levels) s = .next t ∧ t.hub.barDone = true ∧
     t.hub.barCtx = c.val ∧ t.hub.barGroup = group ∧ t.groups = s.groups ∧
     ((∀ g ∈ s.groups, ¬(g.ctx = c.val ∧ g.lin = group ∧ g.st = .saved ∧ g.replay = true)) → t.hub.barErr = true ∧ t.bars = s.bars) ∧
     ∀ g, s.groups.find? (fun g => g.ctx == c.val && g.lin == group && decide (g.st = .saved) && g.replay) = some g → t.hub.barErr = false ∧
       ∀ (lvl : BarLevel) (n : Nat), n < (match lvl with | .grp => 16 | .quad => 8 | .die => 4 | .pkg => 4 | .pod => 2) →
         let b := barRef s g lvl n
         (levels.getLsbD (lvl.code - 1) = true → hasLevel s g.kernel lvl = true →
           ((barAt s b).done = true → (barAt t b).brk = true ∧ (barAt t b).arr = (barAt s b).arr) ∧
           ((barAt s b).done = false → (barAt t b).broken = true ∧ (barAt t b).arr = [])) ∧
         (levels.getLsbD (lvl.code - 1) = false → barAt t b = barAt s b)) ∧
  (let returns := fun (cs : List NredC) (fn : RedOp) (code : Nat) (s t : State) =>
     ∃ l : List NredC, l.Perm cs ∧ l.Pairwise (fun a b => a.pkg < b.pkg ∨ a.pkg = b.pkg ∧ (a.grp < b.grp ∨ a.grp = b.grp ∧ a.w.wave ≤ b.w.wave)) ∧
       let r := match l with
         | [] => redIdentity fn
         | c :: m => m.foldl (fun v c => (redStep fn v c.x).1) c.x
       ∀ c ∈ cs, c.pkg = s.link.pkgId → (s.now + nredReturn c.job, Instr.resultReturn c.w c.pend) ∈ t.agenda ∧
         ∀ w, s.wave? c.w = some w → ∃ w', t.wave? c.w = some w' ∧ ∀ p ∈ w'.pend, p.id = c.pend → ∀ i z, p.ws[i]? = some z →
           z.vals = [if i = 0 then r else BitVec.ofNat 32 (code * 2 ^ 24 + cs.length % 2 ^ 16)]
   (∀ (n : Nat) (s : State) (x : NredC), s.ncs.find? (·.id == n) = some x → ∃ t, exec (.nredContributionArrive n) s = .next t ∧
     (∀ y ∈ t.ncs, y.id ≠ n) ∧
     let mine := fun (c : NredC) => c.pkg = s.link.pkgId
     let back := fun (v : Word) (code : Nat) => mine x → (s.now + nredReturn x.job, Instr.resultReturn x.w x.pend) ∈ t.agenda ∧
       ∀ w, s.wave? x.w = some w → ∃ w', t.wave? x.w = some w' ∧ w'.pend = amend (·.id == x.pend) (fun p =>
         { p with ws := p.ws.mapIdx fun i z => { z with vals := [if i = 0 then v else BitVec.ofNat 32 (code * 2 ^ 24 + 1)], lab := x.lab } }) w.pend
     (nredInst? s x = none →
       (x.n = 1 → back x.x 0) ∧
       (x.n ≠ 1 → ∃ k c, t.nreds = s.nreds ++ [k] ∧ k.kernel = x.kernel ∧ k.job = x.job ∧ k.fn = x.fn ∧ k.n = x.n ∧ k.cs = [x] ∧
         (c, Instr.nredTimerExpire x.kernel k.inst) ∈ t.agenda)) ∧
     ∀ k, nredInst? s x = some k → k.job = x.job ∧ (x.job = none → k.kernel = x.kernel) ∧
       (k.fn ≠ x.fn ∨ k.n ≠ x.n → back x.x 0xFF ∧ t.nreds = s.nreds) ∧
       (k.fn = x.fn → k.n = x.n → k.cs.length + 1 < k.n →
         t.nreds = s.nreds.map fun y => if y.inst == k.inst then { k with cs := k.cs ++ [x] } else y) ∧
       (k.fn = x.fn → k.n = x.n → k.n ≤ k.cs.length + 1 → (∀ y ∈ t.nreds, y.inst ≠ k.inst) ∧
         returns (k.cs ++ [x]) k.fn 0 s t)) ∧
   ∀ (kernel inst : Nat) (s : State) (k : NredInst), s.nreds.find? (fun k => k.kernel == kernel && k.inst == inst) = some k →
     ∃ t, exec (.nredTimerExpire kernel inst) s = .next t ∧ (∀ y ∈ t.nreds, y.inst ≠ inst) ∧ returns k.cs k.fn 1 s t)

/-- R347 to R353. At its home a proposal joins its slot's open set or, behind the end of the window or a full set, is LOST; an objection
marks a pending proposal, is late for a settled one and counts in VOID else; at the window's close the earliest proposal is COMMITTED,
unless it was objected to, and every proposal of the set is settled. A message waits for the closes of its cycle and for messages of lower
rank in it. R349, R353, R355, R356. A query is answered with its proposal's outcome, now or once it is settled; a read returns its slot's
value, state and ticket; a verdict returns the objection, failed as CLAIM_LATE when it came late. -/
def Obligations.ClaimMessages : Prop :=
  ((∀ (m : Nat) (s : State) (k slot ticket : Nat) (v : Word) (lab : Label) (pkg core pos at_ : Nat) (kn : Kernel) (x : ClaimSlot),
     s.claims.msgs.find? (·.1 == m) = some (m, k, .propose slot ticket v lab pkg core pos at_) → s.kernel? k = some kn →
     claimSlotAt s (kn.clbase.getD 0 + slot) = some x →
     (earlierClaims s 0 = true → exec (.proposalArrive m) s = .next (s.schedule s.now (.proposalArrive m))) ∧
     (earlierClaims s 0 = false → ∃ t, exec (.proposalArrive m) s = .next t ∧
       (at_ < x.fin ∨ 8 ≤ x.set.length → t.claims.outs.head? = some ⟨k, ticket, 3, lab⟩ ∧ t.claims.slots = s.claims.slots) ∧
       (x.fin ≤ at_ → x.set.length < 8 → t.claims.outs.head? = some ⟨k, ticket, 0, 0⟩ ∧
         claimSlotAt t x.n = some { x with set := x.set ++ [⟨ticket, v, lab, at_, pkg, core, pos, false, 0⟩] } ∧
         (x.set.foldl (fun n p => min n p.t) at_ + (s.ctx kn.ctx).clwin, Instr.claimClose x.n) ∈ t.agenda))) ∧
   (∀ (m : Nat) (s : State) (k ticket : Nat) (lab : Label) (w : WaveRef) (pend : Nat) (kn : Kernel) (x : ClaimSlot),
     s.claims.msgs.find? (·.1 == m) = some (m, k, .object ticket lab w pend) → s.kernel? k = some kn →
     claimSlotAt s (kn.clbase.getD 0 + ticket / 2 ^ 24) = some x → ∃ t, exec (.objectionArrive m) s = .next t ∧
       (earlierClaims s 1 = true → t.claims = s.claims ∧ (s.now, Instr.objectionArrive m) ∈ t.agenda) ∧
       (earlierClaims s 1 = false →
         let answers := fun (late : Bool) => pend ≠ 0 → t.claims.msgs.getLast?.map (·.2) = some (k, ClaimMsg.verdict late ticket w pend)
         let open_ := ∃ p ∈ x.set, p.ticket = ticket
         let known := ∃ o ∈ s.claims.outs, o.kernel = k ∧ o.ticket = ticket
         (open_ → answers false ∧ claimSlotAt t x.n = some { x with set := x.set.map fun p =>
           if p.ticket == ticket then { p with objected := true, objlab := p.objlab ||| lab } else p }) ∧
         (¬open_ → known → answers true ∧ t.claims.slots = s.claims.slots) ∧
         (¬open_ → ¬known → answers false ∧ t.claims.slots = s.claims.slots ∧
           ∀ o, s.owner? kn.owner = some o → t.owner? kn.owner = some { o with void := min 0xFFFF_FFFF (o.void + 1) }))) ∧
   ∀ (n : Nat) (s : State) (x : ClaimSlot) (win : Proposal), claimSlotAt s n = some x → firstClaim x.set = some win →
     ∃ t, exec (.claimClose n) s = .next t ∧
       claimSlotAt t n = some { x with set := [], fin := s.now, com := if win.objected then x.com else some (win.val, win.ticket, win.lab) } ∧
       (∀ p ∈ x.set, claimBefore p win = false) ∧
       t.claims.outs = s.claims.outs.map fun o => if o.kernel = x.kernel ∧ o.code = 0 ∧ ∃ p ∈ x.set, p.ticket = o.ticket then
         { o with code := if o.ticket = win.ticket then (if win.objected then 2 else 1) else 3
                  lab := x.set.foldl (fun l p => l ||| p.lab ||| p.objlab) 0 } else o) ∧
  ((∀ (m : Nat) (s : State) (k ticket : Nat) (r : WaveRef) (pend : Nat) (g : Group),
     s.claims.msgs.find? (·.1 == m) = some (m, k, .query ticket r pend) → s.group? r.gid = some g → earlierClaims s 2 = false →
     let own := ticketWho (ticketOf 0 (claimMember s g) r.wave 0)
     let last := (s.claims.outs.filter fun o => o.kernel == k && ticketWho o.ticket == own).take 16
     ∃ t, exec (.clwaitQueryArrive m) s = .next t ∧
       let answers := fun (code : Nat) (lab : Label) => ∀ w, s.wave? r = some w → ∃ w', t.wave? r = some w' ∧ w'.pend = amend (·.id == pend)
         (fun p => { p with ws := p.ws.map fun z => { z with vals := [BitVec.ofNat 32 code], lab := z.lab ||| lab } }) w.pend
       (ticketWho ticket ≠ own ∨ last.find? (·.ticket == ticket) = none → answers 0 0) ∧
       ∀ o, ticketWho ticket = own → last.find? (·.ticket == ticket) = some o →
         (o.code = 0 → t.claims.held = s.claims.held ++ [(k, ticket, r, pend)] ∧ t.groups = s.groups) ∧
         (o.code ≠ 0 → answers o.code o.lab)) ∧
   (∀ (m : Nat) (s : State) (k slot : Nat) (r : WaveRef) (pend : Nat) (kn : Kernel) (x : ClaimSlot) (w : Wave),
     s.claims.msgs.find? (·.1 == m) = some (m, k, .read slot r pend) → s.kernel? k = some kn → earlierClaims s 2 = false →
     claimSlotAt s (kn.clbase.getD 0 + slot) = some x → s.wave? r = some w →
     let code := if x.com.isSome then (if x.set = [] then 1 else 3) else if x.set = [] then 0 else 2
     let ticket := ((firstClaim x.set).map (·.ticket)).getD ((x.com.map (·.2.1)).getD 0)
     let lab := x.set.foldl (fun l p => l ||| p.lab) ((x.com.map (·.2.2)).getD 0)
     ∃ t w', exec (.clrdReadArrive m) s = .next t ∧ t.wave? r = some w' ∧ t.claims.slots = s.claims.slots ∧
       w'.pend = amend (·.id == pend) (fun p => { p with ws := p.ws.mapIdx fun i z => { z with
         vals := [if i = 0 then (x.com.map (·.1)).getD 0 else BitVec.ofNat 32 (code * 2 ^ 30 + ticket % 2 ^ 24)], lab := z.lab ||| lab } }) w.pend) ∧
   ∀ (m : Nat) (s : State) (k : Nat) (late : Bool) (ticket : Nat) (r : WaveRef) (pend : Nat) (w : Wave),
     s.claims.msgs.find? (·.1 == m) = some (m, k, .verdict late ticket r pend) → s.wave? r = some w →
     ∃ t w', exec (.objectVerdictArrive m) s = .next t ∧ t.wave? r = some w' ∧ w'.pend = amend (·.id == pend) (fun p =>
       { p with left := p.left - 1, fail := if late then p.fail <|> some ⟨claimLate, ticket, 0, false, false⟩ else p.fail }) w.pend)

/-- R386, R390, R391, R414. A port's state machine: enabled it trains, and three failed attempts leave it FAILED; trained, its working set
is the lowest 16 lanes that passed, the rest spares; a working lane's failure degrades it. Retrained, it waits for the boundary at which
the lowest spare takes a failed lane's place, or the port goes on narrower, and is UP behind the last of them; with no lane left it is
FAILED. Disabled it is DOWN and returns the flits that it holds. That a retrained port waits for its boundary is how the spec is read in
LOG 18. R389, R392, R394, R396, R397, R403. A hop's checks: three CRC errors are replayed and a fourth degrades the port; a header error
drops the flit, charges the port alone and is told to the sender, whose port counts it; a flit beyond the age limit is dropped and
counted; every flit whose header is read is acknowledged on its hop, and its buffer given back. A write that is the next of its delivery
context is performed and acknowledged, one that was performed before is only acknowledged, and an OF or DEP packet ahead of its turn is
held. Idle contexts are torn down. That the sender's owner stands in the payload is the model's choice (LOG 16). -/
def Obligations.Fabric : Prop :=
  (∀ (p : Fin 18) (s : State), p.val < s.link.ports.length →
     let x := s.port p
     let spares := (List.range 18).filter fun k => !x.lanes.contains k && !x.failed.contains k
     (∃ t, exec (.portEnable p) s = .next t ∧ t.port p =
       if x.st = .down ∨ x.st = .failed then { x with enable := true, st := .training, tries := 0 } else { x with enable := true }) ∧
     (∃ t, exec (.portDisable p) s = .next t ∧
       t.port p = { x with enable := false, st := .down, bad := [], tries := 0, ready := false, replay := [], used := [], wait := [] } ∧
       ((s.rota.reqs.map (·.id)).Nodup → ∀ q, t.rota.insts.find? (·.inst = .fabPort p) = some q → ∀ r ∈ t.rota.reqs, r.id ∈ q.queue → ∀ f, r.purpose ≠ .remote f)) ∧
     (∀ passed : List (Fin 18), x.st = .training →
       let ok := (List.range 18).filter fun l => passed.any fun y => y.val == l
       ∃ t, exec (.trainingDone p passed) s = .next t ∧
         (ok = [] → (t.port p).st = .failed) ∧
         (ok ≠ [] → (t.port p).st = .up ∧ (t.port p).lanes = ok.take 16 ∧ (t.port p).spares = (ok.drop 16).length)) ∧
     (x.st = .training → ∃ t, exec (.retrainingDone p false) s = .next t ∧ (2 ≤ x.tries → (t.port p).st = .failed) ∧
       (x.tries < 2 → t.port p = { x with tries := x.tries + 1 })) ∧
     (∀ l : Fin 18,
       (x.st = .up ∨ x.st = .degraded → l.val ∈ x.lanes → ∃ t, exec (.laneFailure p l) s = .next t ∧
         t.port p = { x with st := .degraded, ready := false, bad := if l.val ∈ x.bad then x.bad else x.bad ++ [l.val] }) ∧
       (l.val ∉ x.lanes → l.val ∉ x.failed → x.st ≠ .down → ∃ t, exec (.laneFailure p l) s = .next t ∧
         t.port p = { x with failed := x.failed ++ [l.val], spares := x.spares - 1 })) ∧
     (x.st = .degraded → ∀ ok : Bool, ∃ t, exec (.retrainingDone p ok) s = .next t ∧
       let left := (x.lanes.filter fun k => !x.bad.contains k).length + spares.length
       (ok = false ∨ left = 0 ∨ x.bad = [] ∧ x.lanes.length ≤ 1 → (t.port p).st = .failed) ∧
       (ok = true → left ≠ 0 → x.bad = [] → 1 < x.lanes.length → (t.port p).st = .up ∧ (t.port p).lanes = x.lanes) ∧
       (ok = true → left ≠ 0 → x.bad ≠ [] → t.port p = { x with ready := true } ∧ ∀ l ∈ x.bad, (2, laneUnit p l) ∈ t.rel.repairs)) ∧
     ∀ l : Nat, x.st = .degraded → l ∈ x.bad →
       let t := replaceLane p l s
       let rest := x.lanes.filter (· != l)
       (∀ sp more, spares = sp :: more → (∀ k, k ∈ (t.port p).lanes ↔ k < 18 ∧ (k = sp ∨ k ∈ rest)) ∧ (t.port p).spares = x.spares - 1) ∧
       (spares = [] → (t.port p).lanes = rest) ∧ l ∈ (t.port p).failed ∧
       (x.ready = true → (∀ k ∈ x.bad, k = l) → (t.port p).st = .up) ∧ ((∃ k ∈ x.bad, k ≠ l) → (t.port p).st = .degraded)) ∧
  ((∀ (p : Fin 18) (f : Flit) (s : State), p.val < s.link.ports.length → (s.port p).st = .up →
     let x := s.port p
     let told := fun (t : State) (l : List FlitType) => ∃ gs : List Flit, gs.map (·.type) = l ∧ (∀ g ∈ gs, g.dstpkg = f.srcpkg) ∧ t.link.out = gs ++ s.link.out
     (∀ n, n < 3 → ∃ t, exec (.flitReceive p f (.crcError n)) s = .next t ∧ (t.port p).st = .up ∧ SameMemory s t ∧ told t [.hopNack]) ∧
     (∀ n, 3 ≤ n → ∃ t, exec (.flitReceive p f (.crcError n)) s = .next t ∧ t.port p = { x with st := .degraded, bad := [], ready := false }) ∧
     (∃ t, exec (.flitReceive p f .headerError) s = .next t ∧ (t.port p).hdrop = x.hdrop + 1 ∧ t.mem = s.mem ∧ t.owners = s.owners ∧
       told t [.blame, .credit, .hopAck]) ∧
     (f.type = .hopAck → ∃ t, exec (.flitReceive p f .good) s = .next t ∧ t.port p = { x with replay := x.replay.drop 1 } ∧ t.mem = s.mem) ∧
     (f.type = .blame → ∃ t, exec (.flitReceive p f .good) s = .next t ∧ t.port p = { x with txblame := x.txblame + 1 } ∧ t.mem = s.mem) ∧
     (linkOnly f.type = false → 2048 < f.age → ∃ t, exec (.flitReceive p f .good) s = .next t ∧ (t.port p).aged = x.aged + 1 ∧ t.mem = s.mem ∧
       told t [.credit, .hopAck]) ∧
     (linkOnly f.type = false → f.age ≤ 2048 →
       ∃ t u, exec (.flitReceive p f .good) s = .next t ∧ exec (.flitReceive p f .headerCorrected) s = .next u ∧
       (f.dstpkg ≠ s.link.pkgId → t.link.dropped = s.link.dropped + 1 ∧ t.mem = s.mem) ∧
       ∀ d, f.dstpkg = s.link.pkgId → f.pod = none → f.vc = .req → f.type = .write →
         recvDc s ⟨f.srcpkg, f.dstpkg, f.owner, f.tc⟩ = some d →
         let acked := ∃ r, (r ∈ t.link.out ∨ r ∈ (t.port p).wait) ∧ r.type = .ack ∧ r.vc = .rsp ∧ r.tag = f.tag ∧ r.gen = f.gen ∧ r.dstpkg = f.srcpkg
         (d.held = [] → f.seq = d.base → f.seq ∉ d.map →
           (∀ a, readByte .loc t a = ((f.bytes.reverse.find? (·.1 == a)).map (·.2)).getD (readByte .loc s a)) ∧ acked) ∧
         (f.seq ∈ d.map → SameMemory s t ∧ acked) ∧
         (f.of = true ∨ f.dep = true → f.seq ≠ 0 → f.seq ≠ d.base → f.seq ∉ d.map → seqAhead f.seq d.base < seqMod / 2 → (∀ g ∈ d.held, g.seq ≠ f.seq) →
           SameMemory s t ∧ ∃ d', recvDc t ⟨f.srcpkg, f.dstpkg, f.owner, f.tc⟩ = some d' ∧ d'.base = d.base ∧ d'.held = d.held ++ [f]))) ∧
   (∀ (k : DcKey) (s : State) (d : SendDc), d ∈ s.link.send → d.key = k → d.last + 50 * usTicks ≤ s.wall →
     (∀ f ∈ s.mem.fabs, ¬(f.key = k ∧ f.typ ≠ .host ∧ f.gone = false)) → ∃ t, exec (.senderTeardown k) s = .next t ∧ ∀ e ∈ t.link.send, e.key ≠ k) ∧
   ∀ (k : DcKey) (s : State) (d : RecvDc), d ∈ s.link.recv → d.key = k → d.last + 100 * usTicks ≤ s.wall →
     ∃ t, exec (.receiverTeardown k) s = .next t ∧ ∀ e ∈ t.link.recv, e.key ≠ k)

/-- R410, R411, R278, R193. Errors past a threshold ask for a spare, while one is left: of a core, whose groups are pre-empted with their
clusters; of a row, a channel, an L2 way. An uncorrectable failure of a core ends its groups' kernels FAULTED. R415, R417, R418, R419. An
image runs on its hub controller when its signature and its version pass; a quote signs the digest of the machine's public state; a
thermal trip takes the lowest clock step at the next boundary, a shutdown stops the clock; a reset verifies the images, gives the reset
state back, and keeps the lifetime record and what stands outside the package. -/
def Obligations.Reliability : Prop :=
  ((∀ (core : Nat) (s : State), ∃ t, exec (.coreErrorThreshold core) s = .next t ∧
     (spareCore core s = true → (1, core) ∉ s.rel.repairs → t.rel.repairs = s.rel.repairs ++ [(1, core)] ∧
       t.groups = s.groups.map fun g =>
         if g.resident && (clusterOf s g).any fun h => (h.place.map (·.core)) == some core then { g with stop := true } else g) ∧
     (spareCore core s = false ∨ (1, core) ∈ s.rel.repairs → t.rel.repairs = s.rel.repairs ∧ t.groups = s.groups)) ∧
   (∀ (core : Nat) (s : State), ∃ t, exec (.coreUncorrectableFailure core) s = .next t ∧
     (∀ g ∈ t.groups, (g.place.map (·.core)) ≠ some core) ∧ (spareCore core s = true → (1, core) ∈ t.rel.repairs) ∧
     ((s.groups.map (·.gid)).Nodup → ∀ g ∈ s.groups, (g.place.map (·.core)) = some core → ∀ k, s.kernel? g.kernel = some k →
       ∃ k', t.kernel? g.kernel = some k' ∧ k'.st = .faulted ∧ k'.cause = eccUncorr)) ∧
   (∀ (stack chan bank row : Nat) (s : State), ∃ t, exec (.hbmRowRemap stack chan bank row) s = .next t ∧
     let same := fun u => u % (1024 * 65536) == rowUnit stack chan bank 0
     (sparesUsed s 3 same < 64 → (3, rowUnit stack chan bank row) ∈ t.rel.repairs) ∧ (64 ≤ sparesUsed s 3 same → t.rel.repairs = s.rel.repairs)) ∧
   (∀ (stack chan : Nat) (s : State), ∃ t, exec (.hbmChannelSpare stack chan) s = .next t ∧
     (sparesUsed s 4 (fun u => u / 32 == stack) = 0 → (4, chanUnit stack chan) ∈ t.rel.repairs) ∧
     (sparesUsed s 4 (fun u => u / 32 == stack) ≠ 0 → t.rel.repairs = s.rel.repairs)) ∧
   ∀ (die sl way : Nat) (s : State), ∃ t, exec (.l2WayDisable die sl way) s = .next t ∧
     ((die, sl, way) ∉ s.mem.l2ways → (5, wayUnit die sl way) ∈ t.rel.repairs) ∧
     ((die, sl, way) ∈ s.mem.l2ways → t.rel.repairs = s.rel.repairs)) ∧
  ((∀ (img : FirmwareImage) (s : State), ∃ t, exec (.firmwareImageLoad img) s = .next t ∧
     let ok := Config.mldsaVerify s.rel.wilroth (Config.sha3 img.bytes ++ leBytes 4 img.version.toNat) img.sig = true ∧
       s.rel.rollback.toNat ≤ img.version.toNat
     (ok → t.rel = { s.rel with images := img :: s.rel.images.filter (·.ctl != img.ctl) }) ∧ (¬ok → t = s)) ∧
   (∀ (nonce : List Byte) (s : State), nonce.length = 32 → ∃ t, exec (.attestationQuote nonce) s = .next t ∧
     t.rel = { s.rel with quote := Config.mldsaSign s.rel.idkey (Config.sha3 (quoteBytes s nonce)) }) ∧
   (∀ (die : Nat) (s : State), (∃ t, exec (.thermalTrip die) s = .next t ∧ t.clk = { s.clk with trip := true }) ∧
     ∃ t, exec (.thermalShutdown die) s = .next t ∧ t.clk = { s.clk with stopped := true } ∧ t.rel.shutdowns = s.rel.shutdowns ++ [s.now]) ∧
   (∀ s : State, s.clk.trip = true → (takeStep s).clk.mhz = 2400 ∧ (takeStep s).clk.trip = false) ∧
   ∀ s : State, ∃ t, exec .reset s = .next t ∧ t.clk = State.reset.clk ∧ t.rota = State.reset.rota ∧ t.owners = State.reset.owners ∧
     t.ctxs = State.reset.ctxs ∧ t.hub = State.reset.hub ∧ t.cores = State.reset.cores ∧ t.groups = State.reset.groups ∧
     t.gate = State.reset.gate ∧ (∀ a, readByte .loc t a = 0) ∧ (∀ a, readByte .host t a = readByte .host s a) ∧
     t.rel.events = [] ∧ t.rel.spares = s.rel.spares ∧ t.rel.errors = s.rel.errors ∧ t.rel.images = s.rel.images.filter fun img =>
       Config.mldsaVerify s.rel.wilroth (Config.sha3 img.bytes ++ leBytes 4 img.version.toNat) img.sig &&
         decide (s.rel.rollback.toNat ≤ img.version.toNat))

/-- R4, R34, R216, R293, R296, R315, R333, R340, R403. What a write of a hub register does: reserved fields are ignored, and so is a value
outside a field's range, or a change outside the conditions of its register. The layouts of the pod job register (LOG 38) and of the
host's windows (LOG 39) are the model's choices. R71, R207 to R209, R341, R385, R407 to R409. The host's tools: lxas changes nothing on
the device; what lxdb only shows or watches changes nothing but its own records; a flush takes an idle owner's lines out of the caches and
leaves memory as it is; a stress pattern is an ELASTIC owner's. -/
def Obligations.RegistersTools : Prop :=
  ((∀ (r : HubReg) (v : Nat) (s : State), ∃ t, exec (.registerWrite r v) s = .next t) ∧
   (∀ (o : Fin 8) (v : Nat) (s : State) (x : Owner), s.owner? o = some x →
     (∃ t, exec (.registerWrite (.leasectl o) v) s = .next t ∧ t.owner? o =
       some (if v % 2 ^ 16 ≠ 0 ∧ x.st = .created then { x with lease := v % 2 ^ 16 } else x)) ∧
     (∃ t, exec (.registerWrite (.swcap o) v) s = .next t ∧ t.owner? o = some { x with swcap := v % 2 ^ 16 }) ∧
     (∃ t, exec (.registerWrite (.nredctl o) v) s = .next t ∧ t.owner? o =
       some (if 1024 ≤ v % 2 ^ 32 then { x with nredtimer := v % 2 ^ 32 } else x)) ∧
     (∃ t, exec (.registerWrite (.bardiag o) v) s = .next t ∧ t.owner? o = some { x with bardiag := v % 2 ^ 32 }) ∧
     (v / 2 ^ 48 % 2 = 0 → ∃ t y, exec (.registerWrite (.grpctl o) v) s = .next t ∧ t.owner? o = some y ∧
       y.patience = (if 1 ≤ v % 2 ^ 16 ∧ v % 2 ^ 16 ≤ 1000 then v % 2 ^ 16 else x.patience) ∧
       y.frag = (x.frag && decide (v / 2 ^ 32 % 2 = 0)) ∧ y.auto = (if x.timed then x.auto else decide (v / 2 ^ 33 % 2 = 1))) ∧
     (∃ t y, exec (.registerWrite (.fabctl o) v) s = .next t ∧ t.owner? o = some y ∧
       y.timeout = (if 10 ≤ v % 2 ^ 16 ∧ v % 2 ^ 16 ≤ 60000 then v % 2 ^ 16 else x.timeout) ∧
       y.dcquota = (if v / 2 ^ 16 % 2 ^ 14 ≤ 8192 then v / 2 ^ 16 % 2 ^ 14 else x.dcquota) ∧
       y.dom = (if x.st = .created then v / 2 ^ 30 % 8 else x.dom) ∧ y.tlost = v / 2 ^ 33 % 2 ^ 15 ∧ y.stale = v / 2 ^ 48 % 2 ^ 16)) ∧
   (∀ (c : Fin 1024) (v : Nat) (s : State),
     (∃ t, exec (.registerWrite (.ctxdesc c) v) s = .next t ∧ ((s.ctx c).st ≠ .free → t = s) ∧
       ((s.ctx c).st = .free → (t.ctx c).desc.pasid = v % 2 ^ 20 ∧ (t.ctx c).desc.owner = v / 2 ^ 20 % 8 ∧ (t.ctx c).desc.tenant = v / 2 ^ 23 % 16 ∧
         (t.ctx c).desc.system = decide (v / 2 ^ 27 % 2 = 1) ∧ (t.ctx c).desc.debug = decide (v / 2 ^ 32 % 2 = 1) ∧
         (t.ctx c).desc.s1root = v / 2 ^ 64 % 2 ^ 64 ∧ (t.ctx c).latched = (s.ctx c).latched)) ∧
     (∃ t, exec (.registerWrite (.segbase c) v) s = .next t ∧ ((s.ctx c).st = .active → t = s) ∧
       ((s.ctx c).st ≠ .active → (t.ctx c).segbase = v / 128 % 2 ^ 49 * 128))) ∧
   (∀ (v : Nat) (s : State), ∃ t, exec (.registerWrite .qsched v) s = .next t ∧
     t.hub.ageStep = (if 1 ≤ v % 2 ^ 16 ∧ v % 2 ^ 16 ≤ 1000 then v % 2 ^ 16 else s.hub.ageStep) ∧
     t.hub.starve = (if 10 ≤ v / 2 ^ 16 % 2 ^ 16 ∧ v / 2 ^ 16 % 2 ^ 16 ≤ 1000 then v / 2 ^ 16 % 2 ^ 16 else s.hub.starve) ∧
     t.hub.pendLim = (if 1 ≤ v / 2 ^ 32 % 2 ^ 16 ∧ v / 2 ^ 32 % 2 ^ 16 ≤ 1000 then v / 2 ^ 32 % 2 ^ 16 else s.hub.pendLim)) ∧
   (∀ (e : Fin 4096) (v : Nat) (s : State), ∃ t, exec (.registerWrite (.irt e) v) s = .next t ∧
     (look 0 e.val t.hub.irt).toNat = v / 2 ^ 22 % 1024 * 2 ^ 22 + v % 2 ^ 11) ∧
   (∀ (c : Fin 1024) (v : Nat) (s : State), ∃ t, exec (.registerWrite (.podjob c) v) s = .next t ∧
     (t.ctx c).podjob = if v / 2 ^ 6 % 2 = 1 then some (v / 2 ^ 16 % 2 ^ 16, v % 2 ^ 6) else none) ∧
   (∀ (n : Fin 8) (v : Nat) (s : State), ∃ t, exec (.registerWrite (.hdm n) v) s = .next t ∧
     (n.val, v % 2 ^ 52, v / 2 ^ 52 % 2 ^ 52) ∈ t.link.hdm) ∧
   (∀ (v : Nat) (s : State), v % 2 = 0 → ∃ t, exec (.registerWrite .barcmd v) s = .next t ∧ t.hub.barCtx = v / 2 ^ 54 % 1024 ∧
     t.hub.barGroup = v / 2 ^ 22 % 2 ^ 32 ∧ t.hub.barLevels = v / 2 ^ 17 % 32 ∧ t.bars = s.bars) ∧
   ∀ (v : Nat) (s : State), v % 2 = 0 → ∃ t, exec (.registerWrite .rotaCtl v) s = .next t ∧ t.rota.repair = decide (v / 2 % 2 = 1) ∧
     t.rota.err = (s.rota.err && decide (v / 8 % 2 = 0)) ∧ t.rota.pend = s.rota.pend ∧ t.rota.live = s.rota.live) ∧
  ((∀ (args : List String) (fs : List (String × List String)) (s : State), ∃ t, exec (.lxas args fs) s = .next t ∧ t = s.setLxas t.lxas ∧
     (parseArgs args {} = none → t.lxas.exit = 2 ∧ t.lxas.files = s.lxas.files)) ∧
   (∀ (s : State) (i : Instr), (match i with
       | .lxdbAttach _ _ | .lxdbSelect _ | .lxdbBreak _ | .lxdbRegs _ | .lxdbMask _ | .lxdbLabel _ | .lxdbMem _ _ | .lxdbEngineSave _ | .lxdbClaim _
       | .lxdbWatchFabric _ | .lxdbFabricLog _ | .lxdbSeedbank _ _ | .lxdbGate _ | .lxdbPcv | .lxdbRotaTrace | .lxdbWatchEngine | .lxdbEngineLog
       | .lxdbTrap => True
       | _ => False) → ∃ t, exec i s = .next t ∧ t = s.setDbg t.dbg) ∧
   (∀ (s : State) (pkg : Nat) (on : Option Nat) (c : Fin 1024) (at_ : BitVec 15), (∃ t, exec (.lxdbAttach pkg c) s = .next t ∧ attachedTo t pkg = some c.val) ∧
     (∃ t, exec (.lxdbSelect pkg) s = .next t ∧ t.dbg.sel = pkg) ∧
     ∃ t, exec (.lxdbBreak (on, at_)) s = .next t ∧ (on.getD s.dbg.sel, at_.toNat) ∈ t.dbg.breaks) ∧
   (∀ (s : State) (n : Nat), ∃ t u, exec .lxdbCont s = .next t ∧ exec (.lxdbStep n) s = .next u ∧ SameMemory s t ∧ SameMemory s u ∧
     (s.dbg.sel ≠ s.link.pkgId → t = s ∧ u = s) ∧
     ∀ c, s.dbg.sel = s.link.pkgId → attachedHere s = some c → s.timed (s.ctx c).latched.owner = true →
       t.dbg.cur = min (s.dbg.caps.length - 1) (s.dbg.cur + 1) ∧ t.groups = s.groups ∧ u.groups = s.groups) ∧
   (∀ (l : List LxdbLaunch) (s : State), ∃ t, exec (.lxdbRun l) s = .next t ∧ (attachedHere s = none → t = s)) ∧
   (∀ (o : Fin 8) (s : State), ∃ t, exec (.lxdbFlush o) s = .next t ∧ SameMemory s t ∧
     (s.owner? o = none → t = s.setDbg t.dbg) ∧
     ∀ x, s.owner? o = some x → (x.st = .retired ∨ ownerBusyKernels s o = true → t = s.setDbg t.dbg) ∧
       (x.st ≠ .retired → ownerBusyKernels s o = false → (∀ y ∈ t.mem.l2, (y.die, y.slice) ∉ x.spec.slices) ∧
         (∀ e ∈ t.cores, e.1 ∈ x.spec.cores → e.2.l1 = []) ∧ ∀ e ∈ t.mem.msc, e.own ≠ o.val)) ∧
   ∀ (o : Fin 8) (on : Bool) (s : State), ∃ t, exec (.lxdbStress o on) s = .next t ∧ (s.owner? o = none → t = s.setDbg t.dbg) ∧
     ∀ x, s.owner? o = some x →
       (x.timed = true ∨ x.st = .retired → t = s.setDbg t.dbg) ∧
       (x.timed = false → x.st ≠ .retired → t.owner? o = some { x with stress := on }))

/-- R369, R367. MLDB_LOAD_COMPLETE puts the tile into its macro, and into the MMAs that were held for it; a load that failed leaves the
macro no tag, is recorded as an engine error of kind 0 and ends the MMAs held for it. A macro loaded again meanwhile stays. R373, R374,
R372. MMA_START on an idle engine takes, of the queued MMAs whose next rows are present, the one of highest effective priority and among
these the one of lowest sequence number, and its stages have their first opportunity one serial width later; a row of A arrives with its
label, and a failed one ends its MMA with an engine error of kind 1. R372, R104 to R106, R376. An opportunity carries the row in a stage
through it: its accumulator words take in the block, its flags gather, and behind the last stage the row is written back to scratch;
behind the last row the MMA completes, and its flags, saturation and label join its group's. -/
def Obligations.MatrixEngine : Prop :=
  (∀ (l : Nat) (s : State) (j : MldbJob), s.eng.mldbs.find? (fun j => j.id == l && j.vals.all EngVal.there) = some j →
     let e := elemsOf j.ent (tileCoords j.org) j.vals
     let tl : Tile := ⟨j.mac, j.ent.fmt, e.1, j.ent.se, e.2, j.tlab⟩
     let here := fun (t : State) (f : Macro → Macro) => ∀ (m : Nat) (x : Macro), (s.core j.core).macros[m]? = some x →
       (t.core j.core).macros[m]? = some (if m = j.mac ∧ x.loading = some l then f x else x)
     (firstBad j.vals = none → ∃ t, exec (.mldbLoadComplete l) s = .next t ∧ (∀ x ∈ t.eng.mldbs, x.id ≠ l) ∧ t.groups = s.groups ∧
       here t (fun x => { x with tile := tl, loading := none }) ∧
       (∀ m ∈ s.eng.mmas, l ∈ m.hold → ∃ m' ∈ t.eng.mmas, m'.id = m.id ∧ l ∉ m'.hold ∧ m'.lab = m.lab ||| tl.lab ∧
         ∀ (k : Nat) (y : Tile), m.tiles[k]? = some y → m'.tiles[k]? = some (if y.mac = j.mac then tl else y)) ∧
       ∀ m ∈ s.eng.mmas, l ∉ m.hold → m ∈ t.eng.mmas) ∧
     (∀ f, firstBad j.vals = some f → ∃ t, exec (.mldbLoadComplete l) s = .next t ∧ (∀ x ∈ t.eng.mldbs, x.id ≠ l) ∧
       here t (fun x => { x with tag := none, loading := none }) ∧
       (∀ m ∈ s.eng.mmas, l ∈ m.hold → ∀ x ∈ t.eng.mmas, x.id ≠ m.id) ∧
       ((∀ m ∈ s.eng.mmas, l ∉ m.hold) → t.eng.mmas = s.eng.mmas ∧ ∀ g, s.group? j.gid = some g → ∃ g', t.group? j.gid = some g' ∧
         g'.eseq = g.eseq + 1 ∧ g'.ekind = 0 ∧ g'.ecause = f.1 ∧ g'.eaddr = f.2 % 2 ^ 56 ∧ g'.elbl = g.elbl ||| j.lab))) ∧
  ((∀ (core : Nat) (s : State),
     (∀ m, runningMma s core = some m → exec (.mmaStart core) s = .next s) ∧
     ∀ m, runningMma s core = none → nextMma s core = some m → s.mma? m.id = some m → m.acci = false →
       (∀ x ∈ s.eng.mmas, x.core = core → eligible x = true →
         effPrio s.now x < effPrio s.now m ∨ effPrio s.now x = effPrio s.now m ∧ m.seq ≤ x.seq) ∧
       ∃ t m', exec (.mmaStart core) s = .next t ∧ t.mma? m.id = some m' ∧ m'.st = .running ∧ m'.stopping = false ∧
         m'.next = s.now + m.width ∧ m'.done = m.done ∧ (s.now + m.width, Instr.mmaStageOpportunity core) ∈ t.agenda) ∧
   ∀ (mma row : Nat) (s : State) (m : Mma) (r : ARow), s.mma? mma = some m → m.adata.find? (fun r => r.row == row && !r.here && r.vals.all EngVal.there) = some r →
     (firstBad r.vals = none → ∃ t m', exec (.mmaADataArrive mma row) s = .next t ∧ t.mma? mma = some m' ∧ m'.lab = m.lab ||| r.lab ∧
       (∃ r' ∈ m'.adata, r'.row = row ∧ r'.here = true ∧ (r'.codes, r'.bes) = elemsOf m.ent (rowCoords m row) r.vals) ∧ t.groups = s.groups) ∧
     ∀ f g, firstBad r.vals = some f → s.group? m.gid = some g → ∃ t g', exec (.mmaADataArrive mma row) s = .next t ∧ (∀ x ∈ t.eng.mmas, x.id ≠ mma) ∧
       t.group? m.gid = some g' ∧ g'.eseq = g.eseq + 1 ∧ g'.ekind = 1 ∧ g'.ecause = f.1 ∧ g'.eaddr = f.2 % 2 ^ 56) ∧
  ((∀ (core : Nat) (s : State) (m : Mma), runningMma s core = some m → m.next = s.now →
     (∃ t, exec (.mmaStageOpportunity core) s = .next t) ∧
     ∀ (x : MmaRow) (r : ARow), s.mma? m.id = some m → m.flight = [x] → m.adata.find? (·.row == x.row) = some r → m.stopping = false →
       m.rows ≤ m.rowsDone 0 → ∃ t m', exec (.mmaStageOpportunity core) s = .next t ∧ t.mma? m.id = some m' ∧
         let y := stageRow m r x.stage x.c
         m'.flags = m.flags ||| y.2.1 ∧ m'.sat = (m.sat || y.2.2) ∧ m'.done = m.done.modify x.stage (· + 1) ∧
         (x.stage + 1 < m.nk → m'.flight = [{ x with stage := x.stage + 1, c := y.1 }] ∧ m'.next = s.now + m.width ∧ t.groups = s.groups ∧
           (s.now + m.width, Instr.mmaStageOpportunity core) ∈ t.agenda) ∧
         (m.nk ≤ x.stage + 1 → m'.flight = [] ∧ (s.now, Instr.mmaComplete m.id) ∈ t.agenda ∧ ∀ g, s.group? m.gid = some g →
           ∃ g', t.group? m.gid = some g' ∧ g'.win = (y.1.zipIdx.foldl (fun g e =>
             scratchPut (m.accAt + x.row * m.stride + 4 * e.2) 4 e.1.toNat 0 g) g).win)) ∧
   ∀ (mma : Nat) (s : State) (m : Mma) (g : Group), s.mma? mma = some m → m.st = .running → m.flight = [] → m.rows ≤ m.rowsDone (m.nk - 1) →
     s.group? m.gid = some g → ∃ t, exec (.mmaComplete mma) s = .next t ∧ (∀ x ∈ t.eng.mmas, x.id ≠ mma) ∧
       (m.doneVa = 0 → ∃ g', t.group? m.gid = some g' ∧ g'.mflags = g.mflags ||| m.flags ∧ g'.msat = (g.msat || m.sat) ∧
         g'.mlab = g.mlab ||| m.lab ∧ g'.win = g.win ∧ t.mem = s.mem))

/-- The worked encodings of spec/03_formats.md and of the entries decode to the instructions that they stand for, one or more of each
format; and the words that the spec gives as no instruction are refused by name (R46 to R64). -/
def Obligations.DecodeWords : Prop :=
  (∀ e ∈ ([([0x001461F2], .vadds false 5 6 7 .rev), ([0x121020C8], .vfma false .f32 4 2 3 .bfly1), ([0x0F0C0FFF], .vli false 3 0xFFF),
      ([0x89000000, 0x00012345, 0x08145000], .lit false .vaddi 5 5 0x12345), ([0x1B404142], .vcmpf false .lt 2 4 5 .none),
      ([0x68204260], .vld true 8 4 9 .w .global false), ([0x291020E2], .vst false 4 2 3 .w .global true false),
      ([0x2C144260], .vatom false .add .pkg 5 4 9), ([0x80240000], .sadd false 9 0 0), ([0x8D280000], .srd false 10 .ocycl),
      ([0x901FFFFA], .br false 7 (-6)), ([0xA0184402], .sld false 6 4 .w .global 2), ([0xA128463E], .sst false 10 4 .d .global false (-2)),
      ([0xA2184800], .satom false (.arith .add) .pkg 6 4), ([0xA30009E0], .fence false .pkg ⟨true, true, true, true⟩),
      ([0x9A30E002], .cfetch false 12 14 2), ([0xBB312000], .hbind false 3 1 2), ([0xAE300000], .mma false 12)] : List (List Nat × Instr)),
    decodeWords e.1 = .ok (e.2, e.1.length)) ∧
  ∀ e ∈ ([(0x11000001, .illegalOp), (0x15000007, .illegalOp), (0x80000012, .illegalOp), (0x15006000, .reservedEnc),
      (0x1A2420C2, .reservedEnc), (0x92100002, .reservedEnc)] : List (Nat × DecErr)), decodeWords [e.1] = .error e.2

/-- R46 to R64, every entry's encoding. Decoding and encoding agree: every well-formed instruction word decodes to its instruction, and
words that decode are the encoding of what they decode to; the device's other steps are no words. -/
def Obligations.EncodingExact : Prop :=
  (∀ i, wf i = true → encode i ≠ [] → decodeWords (encode i) = .ok (i, (encode i).length)) ∧
  ∀ (ws : List Nat) (i : Instr) (n : Nat), (∀ w ∈ ws, w < 2 ^ 32) → decodeWords ws = .ok (i, n) →
    wf i = true ∧ n = (encode i).length ∧ encode i = ws.take n

/-- A step runs the decoded instruction: when the words at the issue address of the wave whose turn it is decode to i, the step is exec of
i and what follows every instruction, and stops when exec stops; words that are no instruction take the trap that their checks name, and a
slot that holds none the trap of its load (R64, R156). A wave that goes on runs the instruction that it waits in. The order of the steps
within a cycle is the model's choice (LOG 1). -/
def Obligations.StepRunsDecoded : Prop :=
  ∀ (s : State) (c : Cur), s.clk.stopped = false →
    (IssuesX s c → marked s c = false →
      let sl := (s.core c.core).slot (c.pc / 2048)
      let ws := sl.words.drop (c.pc % 2048)
      (sl.st = .present ∨ sl.st = .held →
        (∀ i n, decodeWords ws = .ok (i, n) →
          (∀ t, exec i s = .next t → step s = .next (afterInstr i c s (afterIssue c s t))) ∧
          (∀ f, exec i s = .fault f → step s = .fault f) ∧ (∀ r, exec i s = .refused r → step s = .refused r)) ∧
        ∀ e, decodeWords ws = .error e → step s = .next (settle (fetchTrap c (badWord (privileged s c.g) c.pc (ws.headD 0) e, 0) s))) ∧
      (sl.st = .failed → step s = .next (settle (fetchTrap c (sl.cause, sl.addr) s))) ∧
      (sl.st = .empty ∨ sl.st = .loading → step s = .next (settle (fetchTrap c (codeAbsent, 0) s)))) ∧
    ∀ i t, Resumes s c i → exec i s = .next t → step s = .next (afterInstr i c s t)

/-- R64, R63, R265. The checks of an issued word, in their order, and the precise trap that the first to fail takes: a word that is no
instruction, a privileged one in a wave that is not privileged, a register beyond the kernel's declaration. That TRAPADDR is 0 for these
traps is the model's choice (LOG 33). -/
def Obligations.IssueChecks : Prop :=
  (∀ (c : Cur) (f : Nat × Nat) (s : State), IssuesX s c → c.w.intrap = false →
    ∃ w', fetchTrap c f s = s.updWave c.ref (fun _ => w') ∧ w'.status = .parked (.trap f.1 c.pc f.2 0) ∧ SameRegs c.w w' ∧
      SameCtx c.w w' ∧ w'.pcs = c.w.pcs ∧ w'.pend = c.w.pend) ∧
  ∀ (p : Bool) (d a b : Reg) (r : Route) (h k l : Fin 16) (x : Fin 4) (tk : TlbKind) (s : State) (c : Cur), Issues s c 1 →
    c.w.intrap = false →
    (¬InV c [d, a, b] → TrapsAt (.vadd p d a b r) c.pc regBound 0 s c ∧ TrapsAt (.vmad p d a b r) c.pc regBound 0 s c ∧
      TrapsAt (.vfma p .f32 d a b r) c.pc regBound 0 s c ∧ TrapsAt (.vperm p d a b r) c.pc regBound 0 s c) ∧
    (¬InH c [h, k, l] → TrapsAt (.hbind p h k l) c.pc regBound 0 s c) ∧
    (¬InA c [x] → TrapsAt (.hclr p x) c.pc regBound 0 s c) ∧
    (privileged s c.g = false → TrapsAt (.tlbinv p tk d a) c.pc privOp 0 s c ∧ (Room c → TrapsAt (.probe p true d a) c.pc privOp 0 s c))

/-- R39, R161, R320. Waves issue in their positions only: every step leads to a state in which this holds, whatever the step began in.
What the turn is and that the device's steps of a cycle precede its issues is the model's choice (LOG 1). -/
def Obligations.IssuePositions : Prop := ∀ s t, step s = .next t → IssueInv t

/-- R419, R34. Right after reset: every rota slot is SYS, no owner exists, every context and queue slot is FREE, no group runs, every port
is DOWN, memory lists nothing in canonical form, and the invariant of the turn holds. That memory lists nothing and that the turn is the
agenda's are the model's choices (LOG 5, LOG 1). -/
def Obligations.ResetState : Prop :=
  let s := State.reset
  (∀ k, k < 9 → s.rota.live[k]? = some 0x9999999999999999) ∧ s.owners = [] ∧ (∀ n, (s.ctx n).st = .free) ∧ (∀ q ∈ s.hub.slots, q.st = .free) ∧
    s.groups = [] ∧ (∀ p ∈ s.link.ports, p.st = .down) ∧ MemOk s ∧ (∀ k a, readByte k s a = 0) ∧ IssueInv s ∧
    ∀ n m, ((s.core n).slot m).st = .empty

/-- Every step answers a next state while the package clock runs: a wave that issues or goes on, whatever stands at its issue address, and
a step of the agenda, also one that has no occasion any more; behind a shutdown only a reset does (R418). That a step without occasion is
dropped is the model's choice (LOG 8). -/
def Obligations.StepAnswers : Prop :=
  ∀ s : State,
    (s.clk.stopped = false → (∀ e ∈ s.agenda, encode e.2 = []) →
      (∀ r w k i, s.turn = .resume r → s.wave? r = some w → w.status = .waiting k i → encode i ≠ []) → Safe (step s)) ∧
    (s.clk.stopped = true → ((∃ e ∈ s.agenda, e.2 = .reset) → Safe (step s)) ∧
      ((∀ e ∈ s.agenda, e.2 ≠ .reset) → step s = .fault .clockStopped))

/-- R3, R4. Memory as cells: bytes stored read as they were stored and every other byte as before, in LOCAL, host and remote memory alike,
and the canonical form stays; equal memories are equal data. The form of the cells is the model's choice (LOG 5). -/
def Obligations.MemoryCells : Prop :=
  (∀ (m : List Host.Cell) (a : Nat) (bs : List Byte), (cellsWf m = true → cellsWf (cellPuts m a bs) = true) ∧
    ∀ x, cellGet x (cellPuts m a bs) = if a ≤ x ∧ x < a + bs.length then bs.getD (x - a) 0 else cellGet x m) ∧
  (∀ (k : MemType) (a : Nat) (bs : List Byte) (s : State), MemOk s → MemOk (putBytes k a bs s)) ∧
  ∀ m n : List Host.Cell, cellsWf m = true → cellsWf n = true → (∀ x, cellGet x m = cellGet x n) → m = n
end

