-- ==== Sys2Proof/Laws/State.lean ====
section
/-! SUPPORT. What each setter of State changes and what it leaves alone: one lemma per field per setter. -/

namespace Sys2Proof.Machine.State

/-! `setClk` -/

@[simp] theorem setClk_clk (s : State) (x) : (s.setClk x).clk = x := rfl
@[simp] theorem setClk_agenda (s : State) (x) : (s.setClk x).agenda = s.agenda := rfl
@[simp] theorem setClk_turn (s : State) (x) : (s.setClk x).turn = s.turn := rfl
@[simp] theorem setClk_free (s : State) (x) : (s.setClk x).free = s.free := rfl
@[simp] theorem setClk_rota (s : State) (x) : (s.setClk x).rota = s.rota := rfl
@[simp] theorem setClk_owners (s : State) (x) : (s.setClk x).owners = s.owners := rfl
@[simp] theorem setClk_ctxs (s : State) (x) : (s.setClk x).ctxs = s.ctxs := rfl
@[simp] theorem setClk_hub (s : State) (x) : (s.setClk x).hub = s.hub := rfl
@[simp] theorem setClk_groups (s : State) (x) : (s.setClk x).groups = s.groups := rfl
@[simp] theorem setClk_cores (s : State) (x) : (s.setClk x).cores = s.cores := rfl
@[simp] theorem setClk_mem (s : State) (x) : (s.setClk x).mem = s.mem := rfl
@[simp] theorem setClk_bars (s : State) (x) : (s.setClk x).bars = s.bars := rfl
@[simp] theorem setClk_xsts (s : State) (x) : (s.setClk x).xsts = s.xsts := rfl
@[simp] theorem setClk_nreds (s : State) (x) : (s.setClk x).nreds = s.nreds := rfl
@[simp] theorem setClk_ncs (s : State) (x) : (s.setClk x).ncs = s.ncs := rfl
@[simp] theorem setClk_claims (s : State) (x) : (s.setClk x).claims = s.claims := rfl
@[simp] theorem setClk_eng (s : State) (x) : (s.setClk x).eng = s.eng := rfl
@[simp] theorem setClk_gate (s : State) (x) : (s.setClk x).gate = s.gate := rfl
@[simp] theorem setClk_link (s : State) (x) : (s.setClk x).link = s.link := rfl
@[simp] theorem setClk_rel (s : State) (x) : (s.setClk x).rel = s.rel := rfl
@[simp] theorem setClk_dbg (s : State) (x) : (s.setClk x).dbg = s.dbg := rfl
@[simp] theorem setClk_lxas (s : State) (x) : (s.setClk x).lxas = s.lxas := rfl

/-! `setAgenda` -/

@[simp] theorem setAgenda_clk (s : State) (x) : (s.setAgenda x).clk = s.clk := rfl
@[simp] theorem setAgenda_agenda (s : State) (x) : (s.setAgenda x).agenda = x := rfl
@[simp] theorem setAgenda_turn (s : State) (x) : (s.setAgenda x).turn = s.turn := rfl
@[simp] theorem setAgenda_free (s : State) (x) : (s.setAgenda x).free = s.free := rfl
@[simp] theorem setAgenda_rota (s : State) (x) : (s.setAgenda x).rota = s.rota := rfl
@[simp] theorem setAgenda_owners (s : State) (x) : (s.setAgenda x).owners = s.owners := rfl
@[simp] theorem setAgenda_ctxs (s : State) (x) : (s.setAgenda x).ctxs = s.ctxs := rfl
@[simp] theorem setAgenda_hub (s : State) (x) : (s.setAgenda x).hub = s.hub := rfl
@[simp] theorem setAgenda_groups (s : State) (x) : (s.setAgenda x).groups = s.groups := rfl
@[simp] theorem setAgenda_cores (s : State) (x) : (s.setAgenda x).cores = s.cores := rfl
@[simp] theorem setAgenda_mem (s : State) (x) : (s.setAgenda x).mem = s.mem := rfl
@[simp] theorem setAgenda_bars (s : State) (x) : (s.setAgenda x).bars = s.bars := rfl
@[simp] theorem setAgenda_xsts (s : State) (x) : (s.setAgenda x).xsts = s.xsts := rfl
@[simp] theorem setAgenda_nreds (s : State) (x) : (s.setAgenda x).nreds = s.nreds := rfl
@[simp] theorem setAgenda_ncs (s : State) (x) : (s.setAgenda x).ncs = s.ncs := rfl
@[simp] theorem setAgenda_claims (s : State) (x) : (s.setAgenda x).claims = s.claims := rfl
@[simp] theorem setAgenda_eng (s : State) (x) : (s.setAgenda x).eng = s.eng := rfl
@[simp] theorem setAgenda_gate (s : State) (x) : (s.setAgenda x).gate = s.gate := rfl
@[simp] theorem setAgenda_link (s : State) (x) : (s.setAgenda x).link = s.link := rfl
@[simp] theorem setAgenda_rel (s : State) (x) : (s.setAgenda x).rel = s.rel := rfl
@[simp] theorem setAgenda_dbg (s : State) (x) : (s.setAgenda x).dbg = s.dbg := rfl
@[simp] theorem setAgenda_lxas (s : State) (x) : (s.setAgenda x).lxas = s.lxas := rfl

/-! `setTurn` -/

@[simp] theorem setTurn_clk (s : State) (x) : (s.setTurn x).clk = s.clk := rfl
@[simp] theorem setTurn_agenda (s : State) (x) : (s.setTurn x).agenda = s.agenda := rfl
@[simp] theorem setTurn_turn (s : State) (x) : (s.setTurn x).turn = x := rfl
@[simp] theorem setTurn_free (s : State) (x) : (s.setTurn x).free = s.free := rfl
@[simp] theorem setTurn_rota (s : State) (x) : (s.setTurn x).rota = s.rota := rfl
@[simp] theorem setTurn_owners (s : State) (x) : (s.setTurn x).owners = s.owners := rfl
@[simp] theorem setTurn_ctxs (s : State) (x) : (s.setTurn x).ctxs = s.ctxs := rfl
@[simp] theorem setTurn_hub (s : State) (x) : (s.setTurn x).hub = s.hub := rfl
@[simp] theorem setTurn_groups (s : State) (x) : (s.setTurn x).groups = s.groups := rfl
@[simp] theorem setTurn_cores (s : State) (x) : (s.setTurn x).cores = s.cores := rfl
@[simp] theorem setTurn_mem (s : State) (x) : (s.setTurn x).mem = s.mem := rfl
@[simp] theorem setTurn_bars (s : State) (x) : (s.setTurn x).bars = s.bars := rfl
@[simp] theorem setTurn_xsts (s : State) (x) : (s.setTurn x).xsts = s.xsts := rfl
@[simp] theorem setTurn_nreds (s : State) (x) : (s.setTurn x).nreds = s.nreds := rfl
@[simp] theorem setTurn_ncs (s : State) (x) : (s.setTurn x).ncs = s.ncs := rfl
@[simp] theorem setTurn_claims (s : State) (x) : (s.setTurn x).claims = s.claims := rfl
@[simp] theorem setTurn_eng (s : State) (x) : (s.setTurn x).eng = s.eng := rfl
@[simp] theorem setTurn_gate (s : State) (x) : (s.setTurn x).gate = s.gate := rfl
@[simp] theorem setTurn_link (s : State) (x) : (s.setTurn x).link = s.link := rfl
@[simp] theorem setTurn_rel (s : State) (x) : (s.setTurn x).rel = s.rel := rfl
@[simp] theorem setTurn_dbg (s : State) (x) : (s.setTurn x).dbg = s.dbg := rfl
@[simp] theorem setTurn_lxas (s : State) (x) : (s.setTurn x).lxas = s.lxas := rfl

/-! `setFree` -/

@[simp] theorem setFree_clk (s : State) (x) : (s.setFree x).clk = s.clk := rfl
@[simp] theorem setFree_agenda (s : State) (x) : (s.setFree x).agenda = s.agenda := rfl
@[simp] theorem setFree_turn (s : State) (x) : (s.setFree x).turn = s.turn := rfl
@[simp] theorem setFree_free (s : State) (x) : (s.setFree x).free = x := rfl
@[simp] theorem setFree_rota (s : State) (x) : (s.setFree x).rota = s.rota := rfl
@[simp] theorem setFree_owners (s : State) (x) : (s.setFree x).owners = s.owners := rfl
@[simp] theorem setFree_ctxs (s : State) (x) : (s.setFree x).ctxs = s.ctxs := rfl
@[simp] theorem setFree_hub (s : State) (x) : (s.setFree x).hub = s.hub := rfl
@[simp] theorem setFree_groups (s : State) (x) : (s.setFree x).groups = s.groups := rfl
@[simp] theorem setFree_cores (s : State) (x) : (s.setFree x).cores = s.cores := rfl
@[simp] theorem setFree_mem (s : State) (x) : (s.setFree x).mem = s.mem := rfl
@[simp] theorem setFree_bars (s : State) (x) : (s.setFree x).bars = s.bars := rfl
@[simp] theorem setFree_xsts (s : State) (x) : (s.setFree x).xsts = s.xsts := rfl
@[simp] theorem setFree_nreds (s : State) (x) : (s.setFree x).nreds = s.nreds := rfl
@[simp] theorem setFree_ncs (s : State) (x) : (s.setFree x).ncs = s.ncs := rfl
@[simp] theorem setFree_claims (s : State) (x) : (s.setFree x).claims = s.claims := rfl
@[simp] theorem setFree_eng (s : State) (x) : (s.setFree x).eng = s.eng := rfl
@[simp] theorem setFree_gate (s : State) (x) : (s.setFree x).gate = s.gate := rfl
@[simp] theorem setFree_link (s : State) (x) : (s.setFree x).link = s.link := rfl
@[simp] theorem setFree_rel (s : State) (x) : (s.setFree x).rel = s.rel := rfl
@[simp] theorem setFree_dbg (s : State) (x) : (s.setFree x).dbg = s.dbg := rfl
@[simp] theorem setFree_lxas (s : State) (x) : (s.setFree x).lxas = s.lxas := rfl

/-! `setRota` -/

@[simp] theorem setRota_clk (s : State) (x) : (s.setRota x).clk = s.clk := rfl
@[simp] theorem setRota_agenda (s : State) (x) : (s.setRota x).agenda = s.agenda := rfl
@[simp] theorem setRota_turn (s : State) (x) : (s.setRota x).turn = s.turn := rfl
@[simp] theorem setRota_free (s : State) (x) : (s.setRota x).free = s.free := rfl
@[simp] theorem setRota_rota (s : State) (x) : (s.setRota x).rota = x := rfl
@[simp] theorem setRota_owners (s : State) (x) : (s.setRota x).owners = s.owners := rfl
@[simp] theorem setRota_ctxs (s : State) (x) : (s.setRota x).ctxs = s.ctxs := rfl
@[simp] theorem setRota_hub (s : State) (x) : (s.setRota x).hub = s.hub := rfl
@[simp] theorem setRota_groups (s : State) (x) : (s.setRota x).groups = s.groups := rfl
@[simp] theorem setRota_cores (s : State) (x) : (s.setRota x).cores = s.cores := rfl
@[simp] theorem setRota_mem (s : State) (x) : (s.setRota x).mem = s.mem := rfl
@[simp] theorem setRota_bars (s : State) (x) : (s.setRota x).bars = s.bars := rfl
@[simp] theorem setRota_xsts (s : State) (x) : (s.setRota x).xsts = s.xsts := rfl
@[simp] theorem setRota_nreds (s : State) (x) : (s.setRota x).nreds = s.nreds := rfl
@[simp] theorem setRota_ncs (s : State) (x) : (s.setRota x).ncs = s.ncs := rfl
@[simp] theorem setRota_claims (s : State) (x) : (s.setRota x).claims = s.claims := rfl
@[simp] theorem setRota_eng (s : State) (x) : (s.setRota x).eng = s.eng := rfl
@[simp] theorem setRota_gate (s : State) (x) : (s.setRota x).gate = s.gate := rfl
@[simp] theorem setRota_link (s : State) (x) : (s.setRota x).link = s.link := rfl
@[simp] theorem setRota_rel (s : State) (x) : (s.setRota x).rel = s.rel := rfl
@[simp] theorem setRota_dbg (s : State) (x) : (s.setRota x).dbg = s.dbg := rfl
@[simp] theorem setRota_lxas (s : State) (x) : (s.setRota x).lxas = s.lxas := rfl

/-! `setOwners` -/

@[simp] theorem setOwners_clk (s : State) (x) : (s.setOwners x).clk = s.clk := rfl
@[simp] theorem setOwners_agenda (s : State) (x) : (s.setOwners x).agenda = s.agenda := rfl
@[simp] theorem setOwners_turn (s : State) (x) : (s.setOwners x).turn = s.turn := rfl
@[simp] theorem setOwners_free (s : State) (x) : (s.setOwners x).free = s.free := rfl
@[simp] theorem setOwners_rota (s : State) (x) : (s.setOwners x).rota = s.rota := rfl
@[simp] theorem setOwners_owners (s : State) (x) : (s.setOwners x).owners = x := rfl
@[simp] theorem setOwners_ctxs (s : State) (x) : (s.setOwners x).ctxs = s.ctxs := rfl
@[simp] theorem setOwners_hub (s : State) (x) : (s.setOwners x).hub = s.hub := rfl
@[simp] theorem setOwners_groups (s : State) (x) : (s.setOwners x).groups = s.groups := rfl
@[simp] theorem setOwners_cores (s : State) (x) : (s.setOwners x).cores = s.cores := rfl
@[simp] theorem setOwners_mem (s : State) (x) : (s.setOwners x).mem = s.mem := rfl
@[simp] theorem setOwners_bars (s : State) (x) : (s.setOwners x).bars = s.bars := rfl
@[simp] theorem setOwners_xsts (s : State) (x) : (s.setOwners x).xsts = s.xsts := rfl
@[simp] theorem setOwners_nreds (s : State) (x) : (s.setOwners x).nreds = s.nreds := rfl
@[simp] theorem setOwners_ncs (s : State) (x) : (s.setOwners x).ncs = s.ncs := rfl
@[simp] theorem setOwners_claims (s : State) (x) : (s.setOwners x).claims = s.claims := rfl
@[simp] theorem setOwners_eng (s : State) (x) : (s.setOwners x).eng = s.eng := rfl
@[simp] theorem setOwners_gate (s : State) (x) : (s.setOwners x).gate = s.gate := rfl
@[simp] theorem setOwners_link (s : State) (x) : (s.setOwners x).link = s.link := rfl
@[simp] theorem setOwners_rel (s : State) (x) : (s.setOwners x).rel = s.rel := rfl
@[simp] theorem setOwners_dbg (s : State) (x) : (s.setOwners x).dbg = s.dbg := rfl
@[simp] theorem setOwners_lxas (s : State) (x) : (s.setOwners x).lxas = s.lxas := rfl

/-! `setCtxs` -/

@[simp] theorem setCtxs_clk (s : State) (x) : (s.setCtxs x).clk = s.clk := rfl
@[simp] theorem setCtxs_agenda (s : State) (x) : (s.setCtxs x).agenda = s.agenda := rfl
@[simp] theorem setCtxs_turn (s : State) (x) : (s.setCtxs x).turn = s.turn := rfl
@[simp] theorem setCtxs_free (s : State) (x) : (s.setCtxs x).free = s.free := rfl
@[simp] theorem setCtxs_rota (s : State) (x) : (s.setCtxs x).rota = s.rota := rfl
@[simp] theorem setCtxs_owners (s : State) (x) : (s.setCtxs x).owners = s.owners := rfl
@[simp] theorem setCtxs_ctxs (s : State) (x) : (s.setCtxs x).ctxs = x := rfl
@[simp] theorem setCtxs_hub (s : State) (x) : (s.setCtxs x).hub = s.hub := rfl
@[simp] theorem setCtxs_groups (s : State) (x) : (s.setCtxs x).groups = s.groups := rfl
@[simp] theorem setCtxs_cores (s : State) (x) : (s.setCtxs x).cores = s.cores := rfl
@[simp] theorem setCtxs_mem (s : State) (x) : (s.setCtxs x).mem = s.mem := rfl
@[simp] theorem setCtxs_bars (s : State) (x) : (s.setCtxs x).bars = s.bars := rfl
@[simp] theorem setCtxs_xsts (s : State) (x) : (s.setCtxs x).xsts = s.xsts := rfl
@[simp] theorem setCtxs_nreds (s : State) (x) : (s.setCtxs x).nreds = s.nreds := rfl
@[simp] theorem setCtxs_ncs (s : State) (x) : (s.setCtxs x).ncs = s.ncs := rfl
@[simp] theorem setCtxs_claims (s : State) (x) : (s.setCtxs x).claims = s.claims := rfl
@[simp] theorem setCtxs_eng (s : State) (x) : (s.setCtxs x).eng = s.eng := rfl
@[simp] theorem setCtxs_gate (s : State) (x) : (s.setCtxs x).gate = s.gate := rfl
@[simp] theorem setCtxs_link (s : State) (x) : (s.setCtxs x).link = s.link := rfl
@[simp] theorem setCtxs_rel (s : State) (x) : (s.setCtxs x).rel = s.rel := rfl
@[simp] theorem setCtxs_dbg (s : State) (x) : (s.setCtxs x).dbg = s.dbg := rfl
@[simp] theorem setCtxs_lxas (s : State) (x) : (s.setCtxs x).lxas = s.lxas := rfl

/-! `setHub` -/

@[simp] theorem setHub_clk (s : State) (x) : (s.setHub x).clk = s.clk := rfl
@[simp] theorem setHub_agenda (s : State) (x) : (s.setHub x).agenda = s.agenda := rfl
@[simp] theorem setHub_turn (s : State) (x) : (s.setHub x).turn = s.turn := rfl
@[simp] theorem setHub_free (s : State) (x) : (s.setHub x).free = s.free := rfl
@[simp] theorem setHub_rota (s : State) (x) : (s.setHub x).rota = s.rota := rfl
@[simp] theorem setHub_owners (s : State) (x) : (s.setHub x).owners = s.owners := rfl
@[simp] theorem setHub_ctxs (s : State) (x) : (s.setHub x).ctxs = s.ctxs := rfl
@[simp] theorem setHub_hub (s : State) (x) : (s.setHub x).hub = x := rfl
@[simp] theorem setHub_groups (s : State) (x) : (s.setHub x).groups = s.groups := rfl
@[simp] theorem setHub_cores (s : State) (x) : (s.setHub x).cores = s.cores := rfl
@[simp] theorem setHub_mem (s : State) (x) : (s.setHub x).mem = s.mem := rfl
@[simp] theorem setHub_bars (s : State) (x) : (s.setHub x).bars = s.bars := rfl
@[simp] theorem setHub_xsts (s : State) (x) : (s.setHub x).xsts = s.xsts := rfl
@[simp] theorem setHub_nreds (s : State) (x) : (s.setHub x).nreds = s.nreds := rfl
@[simp] theorem setHub_ncs (s : State) (x) : (s.setHub x).ncs = s.ncs := rfl
@[simp] theorem setHub_claims (s : State) (x) : (s.setHub x).claims = s.claims := rfl
@[simp] theorem setHub_eng (s : State) (x) : (s.setHub x).eng = s.eng := rfl
@[simp] theorem setHub_gate (s : State) (x) : (s.setHub x).gate = s.gate := rfl
@[simp] theorem setHub_link (s : State) (x) : (s.setHub x).link = s.link := rfl
@[simp] theorem setHub_rel (s : State) (x) : (s.setHub x).rel = s.rel := rfl
@[simp] theorem setHub_dbg (s : State) (x) : (s.setHub x).dbg = s.dbg := rfl
@[simp] theorem setHub_lxas (s : State) (x) : (s.setHub x).lxas = s.lxas := rfl

/-! `setGroups` -/

@[simp] theorem setGroups_clk (s : State) (x) : (s.setGroups x).clk = s.clk := rfl
@[simp] theorem setGroups_agenda (s : State) (x) : (s.setGroups x).agenda = s.agenda := rfl
@[simp] theorem setGroups_turn (s : State) (x) : (s.setGroups x).turn = s.turn := rfl
@[simp] theorem setGroups_free (s : State) (x) : (s.setGroups x).free = s.free := rfl
@[simp] theorem setGroups_rota (s : State) (x) : (s.setGroups x).rota = s.rota := rfl
@[simp] theorem setGroups_owners (s : State) (x) : (s.setGroups x).owners = s.owners := rfl
@[simp] theorem setGroups_ctxs (s : State) (x) : (s.setGroups x).ctxs = s.ctxs := rfl
@[simp] theorem setGroups_hub (s : State) (x) : (s.setGroups x).hub = s.hub := rfl
@[simp] theorem setGroups_groups (s : State) (x) : (s.setGroups x).groups = x := rfl
@[simp] theorem setGroups_cores (s : State) (x) : (s.setGroups x).cores = s.cores := rfl
@[simp] theorem setGroups_mem (s : State) (x) : (s.setGroups x).mem = s.mem := rfl
@[simp] theorem setGroups_bars (s : State) (x) : (s.setGroups x).bars = s.bars := rfl
@[simp] theorem setGroups_xsts (s : State) (x) : (s.setGroups x).xsts = s.xsts := rfl
@[simp] theorem setGroups_nreds (s : State) (x) : (s.setGroups x).nreds = s.nreds := rfl
@[simp] theorem setGroups_ncs (s : State) (x) : (s.setGroups x).ncs = s.ncs := rfl
@[simp] theorem setGroups_claims (s : State) (x) : (s.setGroups x).claims = s.claims := rfl
@[simp] theorem setGroups_eng (s : State) (x) : (s.setGroups x).eng = s.eng := rfl
@[simp] theorem setGroups_gate (s : State) (x) : (s.setGroups x).gate = s.gate := rfl
@[simp] theorem setGroups_link (s : State) (x) : (s.setGroups x).link = s.link := rfl
@[simp] theorem setGroups_rel (s : State) (x) : (s.setGroups x).rel = s.rel := rfl
@[simp] theorem setGroups_dbg (s : State) (x) : (s.setGroups x).dbg = s.dbg := rfl
@[simp] theorem setGroups_lxas (s : State) (x) : (s.setGroups x).lxas = s.lxas := rfl

/-! `setCores` -/

@[simp] theorem setCores_clk (s : State) (x) : (s.setCores x).clk = s.clk := rfl
@[simp] theorem setCores_agenda (s : State) (x) : (s.setCores x).agenda = s.agenda := rfl
@[simp] theorem setCores_turn (s : State) (x) : (s.setCores x).turn = s.turn := rfl
@[simp] theorem setCores_free (s : State) (x) : (s.setCores x).free = s.free := rfl
@[simp] theorem setCores_rota (s : State) (x) : (s.setCores x).rota = s.rota := rfl
@[simp] theorem setCores_owners (s : State) (x) : (s.setCores x).owners = s.owners := rfl
@[simp] theorem setCores_ctxs (s : State) (x) : (s.setCores x).ctxs = s.ctxs := rfl
@[simp] theorem setCores_hub (s : State) (x) : (s.setCores x).hub = s.hub := rfl
@[simp] theorem setCores_groups (s : State) (x) : (s.setCores x).groups = s.groups := rfl
@[simp] theorem setCores_cores (s : State) (x) : (s.setCores x).cores = x := rfl
@[simp] theorem setCores_mem (s : State) (x) : (s.setCores x).mem = s.mem := rfl
@[simp] theorem setCores_bars (s : State) (x) : (s.setCores x).bars = s.bars := rfl
@[simp] theorem setCores_xsts (s : State) (x) : (s.setCores x).xsts = s.xsts := rfl
@[simp] theorem setCores_nreds (s : State) (x) : (s.setCores x).nreds = s.nreds := rfl
@[simp] theorem setCores_ncs (s : State) (x) : (s.setCores x).ncs = s.ncs := rfl
@[simp] theorem setCores_claims (s : State) (x) : (s.setCores x).claims = s.claims := rfl
@[simp] theorem setCores_eng (s : State) (x) : (s.setCores x).eng = s.eng := rfl
@[simp] theorem setCores_gate (s : State) (x) : (s.setCores x).gate = s.gate := rfl
@[simp] theorem setCores_link (s : State) (x) : (s.setCores x).link = s.link := rfl
@[simp] theorem setCores_rel (s : State) (x) : (s.setCores x).rel = s.rel := rfl
@[simp] theorem setCores_dbg (s : State) (x) : (s.setCores x).dbg = s.dbg := rfl
@[simp] theorem setCores_lxas (s : State) (x) : (s.setCores x).lxas = s.lxas := rfl

/-! `setMem` -/

@[simp] theorem setMem_clk (s : State) (x) : (s.setMem x).clk = s.clk := rfl
@[simp] theorem setMem_agenda (s : State) (x) : (s.setMem x).agenda = s.agenda := rfl
@[simp] theorem setMem_turn (s : State) (x) : (s.setMem x).turn = s.turn := rfl
@[simp] theorem setMem_free (s : State) (x) : (s.setMem x).free = s.free := rfl
@[simp] theorem setMem_rota (s : State) (x) : (s.setMem x).rota = s.rota := rfl
@[simp] theorem setMem_owners (s : State) (x) : (s.setMem x).owners = s.owners := rfl
@[simp] theorem setMem_ctxs (s : State) (x) : (s.setMem x).ctxs = s.ctxs := rfl
@[simp] theorem setMem_hub (s : State) (x) : (s.setMem x).hub = s.hub := rfl
@[simp] theorem setMem_groups (s : State) (x) : (s.setMem x).groups = s.groups := rfl
@[simp] theorem setMem_cores (s : State) (x) : (s.setMem x).cores = s.cores := rfl
@[simp] theorem setMem_mem (s : State) (x) : (s.setMem x).mem = x := rfl
@[simp] theorem setMem_bars (s : State) (x) : (s.setMem x).bars = s.bars := rfl
@[simp] theorem setMem_xsts (s : State) (x) : (s.setMem x).xsts = s.xsts := rfl
@[simp] theorem setMem_nreds (s : State) (x) : (s.setMem x).nreds = s.nreds := rfl
@[simp] theorem setMem_ncs (s : State) (x) : (s.setMem x).ncs = s.ncs := rfl
@[simp] theorem setMem_claims (s : State) (x) : (s.setMem x).claims = s.claims := rfl
@[simp] theorem setMem_eng (s : State) (x) : (s.setMem x).eng = s.eng := rfl
@[simp] theorem setMem_gate (s : State) (x) : (s.setMem x).gate = s.gate := rfl
@[simp] theorem setMem_link (s : State) (x) : (s.setMem x).link = s.link := rfl
@[simp] theorem setMem_rel (s : State) (x) : (s.setMem x).rel = s.rel := rfl
@[simp] theorem setMem_dbg (s : State) (x) : (s.setMem x).dbg = s.dbg := rfl
@[simp] theorem setMem_lxas (s : State) (x) : (s.setMem x).lxas = s.lxas := rfl

/-! `setBars` -/

@[simp] theorem setBars_clk (s : State) (x) : (s.setBars x).clk = s.clk := rfl
@[simp] theorem setBars_agenda (s : State) (x) : (s.setBars x).agenda = s.agenda := rfl
@[simp] theorem setBars_turn (s : State) (x) : (s.setBars x).turn = s.turn := rfl
@[simp] theorem setBars_free (s : State) (x) : (s.setBars x).free = s.free := rfl
@[simp] theorem setBars_rota (s : State) (x) : (s.setBars x).rota = s.rota := rfl
@[simp] theorem setBars_owners (s : State) (x) : (s.setBars x).owners = s.owners := rfl
@[simp] theorem setBars_ctxs (s : State) (x) : (s.setBars x).ctxs = s.ctxs := rfl
@[simp] theorem setBars_hub (s : State) (x) : (s.setBars x).hub = s.hub := rfl
@[simp] theorem setBars_groups (s : State) (x) : (s.setBars x).groups = s.groups := rfl
@[simp] theorem setBars_cores (s : State) (x) : (s.setBars x).cores = s.cores := rfl
@[simp] theorem setBars_mem (s : State) (x) : (s.setBars x).mem = s.mem := rfl
@[simp] theorem setBars_bars (s : State) (x) : (s.setBars x).bars = x := rfl
@[simp] theorem setBars_xsts (s : State) (x) : (s.setBars x).xsts = s.xsts := rfl
@[simp] theorem setBars_nreds (s : State) (x) : (s.setBars x).nreds = s.nreds := rfl
@[simp] theorem setBars_ncs (s : State) (x) : (s.setBars x).ncs = s.ncs := rfl
@[simp] theorem setBars_claims (s : State) (x) : (s.setBars x).claims = s.claims := rfl
@[simp] theorem setBars_eng (s : State) (x) : (s.setBars x).eng = s.eng := rfl
@[simp] theorem setBars_gate (s : State) (x) : (s.setBars x).gate = s.gate := rfl
@[simp] theorem setBars_link (s : State) (x) : (s.setBars x).link = s.link := rfl
@[simp] theorem setBars_rel (s : State) (x) : (s.setBars x).rel = s.rel := rfl
@[simp] theorem setBars_dbg (s : State) (x) : (s.setBars x).dbg = s.dbg := rfl
@[simp] theorem setBars_lxas (s : State) (x) : (s.setBars x).lxas = s.lxas := rfl

/-! `setXsts` -/

@[simp] theorem setXsts_clk (s : State) (x) : (s.setXsts x).clk = s.clk := rfl
@[simp] theorem setXsts_agenda (s : State) (x) : (s.setXsts x).agenda = s.agenda := rfl
@[simp] theorem setXsts_turn (s : State) (x) : (s.setXsts x).turn = s.turn := rfl
@[simp] theorem setXsts_free (s : State) (x) : (s.setXsts x).free = s.free := rfl
@[simp] theorem setXsts_rota (s : State) (x) : (s.setXsts x).rota = s.rota := rfl
@[simp] theorem setXsts_owners (s : State) (x) : (s.setXsts x).owners = s.owners := rfl
@[simp] theorem setXsts_ctxs (s : State) (x) : (s.setXsts x).ctxs = s.ctxs := rfl
@[simp] theorem setXsts_hub (s : State) (x) : (s.setXsts x).hub = s.hub := rfl
@[simp] theorem setXsts_groups (s : State) (x) : (s.setXsts x).groups = s.groups := rfl
@[simp] theorem setXsts_cores (s : State) (x) : (s.setXsts x).cores = s.cores := rfl
@[simp] theorem setXsts_mem (s : State) (x) : (s.setXsts x).mem = s.mem := rfl
@[simp] theorem setXsts_bars (s : State) (x) : (s.setXsts x).bars = s.bars := rfl
@[simp] theorem setXsts_xsts (s : State) (x) : (s.setXsts x).xsts = x := rfl
@[simp] theorem setXsts_nreds (s : State) (x) : (s.setXsts x).nreds = s.nreds := rfl
@[simp] theorem setXsts_ncs (s : State) (x) : (s.setXsts x).ncs = s.ncs := rfl
@[simp] theorem setXsts_claims (s : State) (x) : (s.setXsts x).claims = s.claims := rfl
@[simp] theorem setXsts_eng (s : State) (x) : (s.setXsts x).eng = s.eng := rfl
@[simp] theorem setXsts_gate (s : State) (x) : (s.setXsts x).gate = s.gate := rfl
@[simp] theorem setXsts_link (s : State) (x) : (s.setXsts x).link = s.link := rfl
@[simp] theorem setXsts_rel (s : State) (x) : (s.setXsts x).rel = s.rel := rfl
@[simp] theorem setXsts_dbg (s : State) (x) : (s.setXsts x).dbg = s.dbg := rfl
@[simp] theorem setXsts_lxas (s : State) (x) : (s.setXsts x).lxas = s.lxas := rfl

/-! `setNreds` -/

@[simp] theorem setNreds_clk (s : State) (x) : (s.setNreds x).clk = s.clk := rfl
@[simp] theorem setNreds_agenda (s : State) (x) : (s.setNreds x).agenda = s.agenda := rfl
@[simp] theorem setNreds_turn (s : State) (x) : (s.setNreds x).turn = s.turn := rfl
@[simp] theorem setNreds_free (s : State) (x) : (s.setNreds x).free = s.free := rfl
@[simp] theorem setNreds_rota (s : State) (x) : (s.setNreds x).rota = s.rota := rfl
@[simp] theorem setNreds_owners (s : State) (x) : (s.setNreds x).owners = s.owners := rfl
@[simp] theorem setNreds_ctxs (s : State) (x) : (s.setNreds x).ctxs = s.ctxs := rfl
@[simp] theorem setNreds_hub (s : State) (x) : (s.setNreds x).hub = s.hub := rfl
@[simp] theorem setNreds_groups (s : State) (x) : (s.setNreds x).groups = s.groups := rfl
@[simp] theorem setNreds_cores (s : State) (x) : (s.setNreds x).cores = s.cores := rfl
@[simp] theorem setNreds_mem (s : State) (x) : (s.setNreds x).mem = s.mem := rfl
@[simp] theorem setNreds_bars (s : State) (x) : (s.setNreds x).bars = s.bars := rfl
@[simp] theorem setNreds_xsts (s : State) (x) : (s.setNreds x).xsts = s.xsts := rfl
@[simp] theorem setNreds_nreds (s : State) (x) : (s.setNreds x).nreds = x := rfl
@[simp] theorem setNreds_ncs (s : State) (x) : (s.setNreds x).ncs = s.ncs := rfl
@[simp] theorem setNreds_claims (s : State) (x) : (s.setNreds x).claims = s.claims := rfl
@[simp] theorem setNreds_eng (s : State) (x) : (s.setNreds x).eng = s.eng := rfl
@[simp] theorem setNreds_gate (s : State) (x) : (s.setNreds x).gate = s.gate := rfl
@[simp] theorem setNreds_link (s : State) (x) : (s.setNreds x).link = s.link := rfl
@[simp] theorem setNreds_rel (s : State) (x) : (s.setNreds x).rel = s.rel := rfl
@[simp] theorem setNreds_dbg (s : State) (x) : (s.setNreds x).dbg = s.dbg := rfl
@[simp] theorem setNreds_lxas (s : State) (x) : (s.setNreds x).lxas = s.lxas := rfl

/-! `setNcs` -/

@[simp] theorem setNcs_clk (s : State) (x) : (s.setNcs x).clk = s.clk := rfl
@[simp] theorem setNcs_agenda (s : State) (x) : (s.setNcs x).agenda = s.agenda := rfl
@[simp] theorem setNcs_turn (s : State) (x) : (s.setNcs x).turn = s.turn := rfl
@[simp] theorem setNcs_free (s : State) (x) : (s.setNcs x).free = s.free := rfl
@[simp] theorem setNcs_rota (s : State) (x) : (s.setNcs x).rota = s.rota := rfl
@[simp] theorem setNcs_owners (s : State) (x) : (s.setNcs x).owners = s.owners := rfl
@[simp] theorem setNcs_ctxs (s : State) (x) : (s.setNcs x).ctxs = s.ctxs := rfl
@[simp] theorem setNcs_hub (s : State) (x) : (s.setNcs x).hub = s.hub := rfl
@[simp] theorem setNcs_groups (s : State) (x) : (s.setNcs x).groups = s.groups := rfl
@[simp] theorem setNcs_cores (s : State) (x) : (s.setNcs x).cores = s.cores := rfl
@[simp] theorem setNcs_mem (s : State) (x) : (s.setNcs x).mem = s.mem := rfl
@[simp] theorem setNcs_bars (s : State) (x) : (s.setNcs x).bars = s.bars := rfl
@[simp] theorem setNcs_xsts (s : State) (x) : (s.setNcs x).xsts = s.xsts := rfl
@[simp] theorem setNcs_nreds (s : State) (x) : (s.setNcs x).nreds = s.nreds := rfl
@[simp] theorem setNcs_ncs (s : State) (x) : (s.setNcs x).ncs = x := rfl
@[simp] theorem setNcs_claims (s : State) (x) : (s.setNcs x).claims = s.claims := rfl
@[simp] theorem setNcs_eng (s : State) (x) : (s.setNcs x).eng = s.eng := rfl
@[simp] theorem setNcs_gate (s : State) (x) : (s.setNcs x).gate = s.gate := rfl
@[simp] theorem setNcs_link (s : State) (x) : (s.setNcs x).link = s.link := rfl
@[simp] theorem setNcs_rel (s : State) (x) : (s.setNcs x).rel = s.rel := rfl
@[simp] theorem setNcs_dbg (s : State) (x) : (s.setNcs x).dbg = s.dbg := rfl
@[simp] theorem setNcs_lxas (s : State) (x) : (s.setNcs x).lxas = s.lxas := rfl

/-! `setClaims` -/

@[simp] theorem setClaims_clk (s : State) (x) : (s.setClaims x).clk = s.clk := rfl
@[simp] theorem setClaims_agenda (s : State) (x) : (s.setClaims x).agenda = s.agenda := rfl
@[simp] theorem setClaims_turn (s : State) (x) : (s.setClaims x).turn = s.turn := rfl
@[simp] theorem setClaims_free (s : State) (x) : (s.setClaims x).free = s.free := rfl
@[simp] theorem setClaims_rota (s : State) (x) : (s.setClaims x).rota = s.rota := rfl
@[simp] theorem setClaims_owners (s : State) (x) : (s.setClaims x).owners = s.owners := rfl
@[simp] theorem setClaims_ctxs (s : State) (x) : (s.setClaims x).ctxs = s.ctxs := rfl
@[simp] theorem setClaims_hub (s : State) (x) : (s.setClaims x).hub = s.hub := rfl
@[simp] theorem setClaims_groups (s : State) (x) : (s.setClaims x).groups = s.groups := rfl
@[simp] theorem setClaims_cores (s : State) (x) : (s.setClaims x).cores = s.cores := rfl
@[simp] theorem setClaims_mem (s : State) (x) : (s.setClaims x).mem = s.mem := rfl
@[simp] theorem setClaims_bars (s : State) (x) : (s.setClaims x).bars = s.bars := rfl
@[simp] theorem setClaims_xsts (s : State) (x) : (s.setClaims x).xsts = s.xsts := rfl
@[simp] theorem setClaims_nreds (s : State) (x) : (s.setClaims x).nreds = s.nreds := rfl
@[simp] theorem setClaims_ncs (s : State) (x) : (s.setClaims x).ncs = s.ncs := rfl
@[simp] theorem setClaims_claims (s : State) (x) : (s.setClaims x).claims = x := rfl
@[simp] theorem setClaims_eng (s : State) (x) : (s.setClaims x).eng = s.eng := rfl
@[simp] theorem setClaims_gate (s : State) (x) : (s.setClaims x).gate = s.gate := rfl
@[simp] theorem setClaims_link (s : State) (x) : (s.setClaims x).link = s.link := rfl
@[simp] theorem setClaims_rel (s : State) (x) : (s.setClaims x).rel = s.rel := rfl
@[simp] theorem setClaims_dbg (s : State) (x) : (s.setClaims x).dbg = s.dbg := rfl
@[simp] theorem setClaims_lxas (s : State) (x) : (s.setClaims x).lxas = s.lxas := rfl

/-! `setEng` -/

@[simp] theorem setEng_clk (s : State) (x) : (s.setEng x).clk = s.clk := rfl
@[simp] theorem setEng_agenda (s : State) (x) : (s.setEng x).agenda = s.agenda := rfl
@[simp] theorem setEng_turn (s : State) (x) : (s.setEng x).turn = s.turn := rfl
@[simp] theorem setEng_free (s : State) (x) : (s.setEng x).free = s.free := rfl
@[simp] theorem setEng_rota (s : State) (x) : (s.setEng x).rota = s.rota := rfl
@[simp] theorem setEng_owners (s : State) (x) : (s.setEng x).owners = s.owners := rfl
@[simp] theorem setEng_ctxs (s : State) (x) : (s.setEng x).ctxs = s.ctxs := rfl
@[simp] theorem setEng_hub (s : State) (x) : (s.setEng x).hub = s.hub := rfl
@[simp] theorem setEng_groups (s : State) (x) : (s.setEng x).groups = s.groups := rfl
@[simp] theorem setEng_cores (s : State) (x) : (s.setEng x).cores = s.cores := rfl
@[simp] theorem setEng_mem (s : State) (x) : (s.setEng x).mem = s.mem := rfl
@[simp] theorem setEng_bars (s : State) (x) : (s.setEng x).bars = s.bars := rfl
@[simp] theorem setEng_xsts (s : State) (x) : (s.setEng x).xsts = s.xsts := rfl
@[simp] theorem setEng_nreds (s : State) (x) : (s.setEng x).nreds = s.nreds := rfl
@[simp] theorem setEng_ncs (s : State) (x) : (s.setEng x).ncs = s.ncs := rfl
@[simp] theorem setEng_claims (s : State) (x) : (s.setEng x).claims = s.claims := rfl
@[simp] theorem setEng_eng (s : State) (x) : (s.setEng x).eng = x := rfl
@[simp] theorem setEng_gate (s : State) (x) : (s.setEng x).gate = s.gate := rfl
@[simp] theorem setEng_link (s : State) (x) : (s.setEng x).link = s.link := rfl
@[simp] theorem setEng_rel (s : State) (x) : (s.setEng x).rel = s.rel := rfl
@[simp] theorem setEng_dbg (s : State) (x) : (s.setEng x).dbg = s.dbg := rfl
@[simp] theorem setEng_lxas (s : State) (x) : (s.setEng x).lxas = s.lxas := rfl

/-! `setGate` -/

@[simp] theorem setGate_clk (s : State) (x) : (s.setGate x).clk = s.clk := rfl
@[simp] theorem setGate_agenda (s : State) (x) : (s.setGate x).agenda = s.agenda := rfl
@[simp] theorem setGate_turn (s : State) (x) : (s.setGate x).turn = s.turn := rfl
@[simp] theorem setGate_free (s : State) (x) : (s.setGate x).free = s.free := rfl
@[simp] theorem setGate_rota (s : State) (x) : (s.setGate x).rota = s.rota := rfl
@[simp] theorem setGate_owners (s : State) (x) : (s.setGate x).owners = s.owners := rfl
@[simp] theorem setGate_ctxs (s : State) (x) : (s.setGate x).ctxs = s.ctxs := rfl
@[simp] theorem setGate_hub (s : State) (x) : (s.setGate x).hub = s.hub := rfl
@[simp] theorem setGate_groups (s : State) (x) : (s.setGate x).groups = s.groups := rfl
@[simp] theorem setGate_cores (s : State) (x) : (s.setGate x).cores = s.cores := rfl
@[simp] theorem setGate_mem (s : State) (x) : (s.setGate x).mem = s.mem := rfl
@[simp] theorem setGate_bars (s : State) (x) : (s.setGate x).bars = s.bars := rfl
@[simp] theorem setGate_xsts (s : State) (x) : (s.setGate x).xsts = s.xsts := rfl
@[simp] theorem setGate_nreds (s : State) (x) : (s.setGate x).nreds = s.nreds := rfl
@[simp] theorem setGate_ncs (s : State) (x) : (s.setGate x).ncs = s.ncs := rfl
@[simp] theorem setGate_claims (s : State) (x) : (s.setGate x).claims = s.claims := rfl
@[simp] theorem setGate_eng (s : State) (x) : (s.setGate x).eng = s.eng := rfl
@[simp] theorem setGate_gate (s : State) (x) : (s.setGate x).gate = x := rfl
@[simp] theorem setGate_link (s : State) (x) : (s.setGate x).link = s.link := rfl
@[simp] theorem setGate_rel (s : State) (x) : (s.setGate x).rel = s.rel := rfl
@[simp] theorem setGate_dbg (s : State) (x) : (s.setGate x).dbg = s.dbg := rfl
@[simp] theorem setGate_lxas (s : State) (x) : (s.setGate x).lxas = s.lxas := rfl

/-! `setLink` -/

@[simp] theorem setLink_clk (s : State) (x) : (s.setLink x).clk = s.clk := rfl
@[simp] theorem setLink_agenda (s : State) (x) : (s.setLink x).agenda = s.agenda := rfl
@[simp] theorem setLink_turn (s : State) (x) : (s.setLink x).turn = s.turn := rfl
@[simp] theorem setLink_free (s : State) (x) : (s.setLink x).free = s.free := rfl
@[simp] theorem setLink_rota (s : State) (x) : (s.setLink x).rota = s.rota := rfl
@[simp] theorem setLink_owners (s : State) (x) : (s.setLink x).owners = s.owners := rfl
@[simp] theorem setLink_ctxs (s : State) (x) : (s.setLink x).ctxs = s.ctxs := rfl
@[simp] theorem setLink_hub (s : State) (x) : (s.setLink x).hub = s.hub := rfl
@[simp] theorem setLink_groups (s : State) (x) : (s.setLink x).groups = s.groups := rfl
@[simp] theorem setLink_cores (s : State) (x) : (s.setLink x).cores = s.cores := rfl
@[simp] theorem setLink_mem (s : State) (x) : (s.setLink x).mem = s.mem := rfl
@[simp] theorem setLink_bars (s : State) (x) : (s.setLink x).bars = s.bars := rfl
@[simp] theorem setLink_xsts (s : State) (x) : (s.setLink x).xsts = s.xsts := rfl
@[simp] theorem setLink_nreds (s : State) (x) : (s.setLink x).nreds = s.nreds := rfl
@[simp] theorem setLink_ncs (s : State) (x) : (s.setLink x).ncs = s.ncs := rfl
@[simp] theorem setLink_claims (s : State) (x) : (s.setLink x).claims = s.claims := rfl
@[simp] theorem setLink_eng (s : State) (x) : (s.setLink x).eng = s.eng := rfl
@[simp] theorem setLink_gate (s : State) (x) : (s.setLink x).gate = s.gate := rfl
@[simp] theorem setLink_link (s : State) (x) : (s.setLink x).link = x := rfl
@[simp] theorem setLink_rel (s : State) (x) : (s.setLink x).rel = s.rel := rfl
@[simp] theorem setLink_dbg (s : State) (x) : (s.setLink x).dbg = s.dbg := rfl
@[simp] theorem setLink_lxas (s : State) (x) : (s.setLink x).lxas = s.lxas := rfl

/-! `setRel` -/

@[simp] theorem setRel_clk (s : State) (x) : (s.setRel x).clk = s.clk := rfl
@[simp] theorem setRel_agenda (s : State) (x) : (s.setRel x).agenda = s.agenda := rfl
@[simp] theorem setRel_turn (s : State) (x) : (s.setRel x).turn = s.turn := rfl
@[simp] theorem setRel_free (s : State) (x) : (s.setRel x).free = s.free := rfl
@[simp] theorem setRel_rota (s : State) (x) : (s.setRel x).rota = s.rota := rfl
@[simp] theorem setRel_owners (s : State) (x) : (s.setRel x).owners = s.owners := rfl
@[simp] theorem setRel_ctxs (s : State) (x) : (s.setRel x).ctxs = s.ctxs := rfl
@[simp] theorem setRel_hub (s : State) (x) : (s.setRel x).hub = s.hub := rfl
@[simp] theorem setRel_groups (s : State) (x) : (s.setRel x).groups = s.groups := rfl
@[simp] theorem setRel_cores (s : State) (x) : (s.setRel x).cores = s.cores := rfl
@[simp] theorem setRel_mem (s : State) (x) : (s.setRel x).mem = s.mem := rfl
@[simp] theorem setRel_bars (s : State) (x) : (s.setRel x).bars = s.bars := rfl
@[simp] theorem setRel_xsts (s : State) (x) : (s.setRel x).xsts = s.xsts := rfl
@[simp] theorem setRel_nreds (s : State) (x) : (s.setRel x).nreds = s.nreds := rfl
@[simp] theorem setRel_ncs (s : State) (x) : (s.setRel x).ncs = s.ncs := rfl
@[simp] theorem setRel_claims (s : State) (x) : (s.setRel x).claims = s.claims := rfl
@[simp] theorem setRel_eng (s : State) (x) : (s.setRel x).eng = s.eng := rfl
@[simp] theorem setRel_gate (s : State) (x) : (s.setRel x).gate = s.gate := rfl
@[simp] theorem setRel_link (s : State) (x) : (s.setRel x).link = s.link := rfl
@[simp] theorem setRel_rel (s : State) (x) : (s.setRel x).rel = x := rfl
@[simp] theorem setRel_dbg (s : State) (x) : (s.setRel x).dbg = s.dbg := rfl
@[simp] theorem setRel_lxas (s : State) (x) : (s.setRel x).lxas = s.lxas := rfl

/-! `setDbg` -/

@[simp] theorem setDbg_clk (s : State) (x) : (s.setDbg x).clk = s.clk := rfl
@[simp] theorem setDbg_agenda (s : State) (x) : (s.setDbg x).agenda = s.agenda := rfl
@[simp] theorem setDbg_turn (s : State) (x) : (s.setDbg x).turn = s.turn := rfl
@[simp] theorem setDbg_free (s : State) (x) : (s.setDbg x).free = s.free := rfl
@[simp] theorem setDbg_rota (s : State) (x) : (s.setDbg x).rota = s.rota := rfl
@[simp] theorem setDbg_owners (s : State) (x) : (s.setDbg x).owners = s.owners := rfl
@[simp] theorem setDbg_ctxs (s : State) (x) : (s.setDbg x).ctxs = s.ctxs := rfl
@[simp] theorem setDbg_hub (s : State) (x) : (s.setDbg x).hub = s.hub := rfl
@[simp] theorem setDbg_groups (s : State) (x) : (s.setDbg x).groups = s.groups := rfl
@[simp] theorem setDbg_cores (s : State) (x) : (s.setDbg x).cores = s.cores := rfl
@[simp] theorem setDbg_mem (s : State) (x) : (s.setDbg x).mem = s.mem := rfl
@[simp] theorem setDbg_bars (s : State) (x) : (s.setDbg x).bars = s.bars := rfl
@[simp] theorem setDbg_xsts (s : State) (x) : (s.setDbg x).xsts = s.xsts := rfl
@[simp] theorem setDbg_nreds (s : State) (x) : (s.setDbg x).nreds = s.nreds := rfl
@[simp] theorem setDbg_ncs (s : State) (x) : (s.setDbg x).ncs = s.ncs := rfl
@[simp] theorem setDbg_claims (s : State) (x) : (s.setDbg x).claims = s.claims := rfl
@[simp] theorem setDbg_eng (s : State) (x) : (s.setDbg x).eng = s.eng := rfl
@[simp] theorem setDbg_gate (s : State) (x) : (s.setDbg x).gate = s.gate := rfl
@[simp] theorem setDbg_link (s : State) (x) : (s.setDbg x).link = s.link := rfl
@[simp] theorem setDbg_rel (s : State) (x) : (s.setDbg x).rel = s.rel := rfl
@[simp] theorem setDbg_dbg (s : State) (x) : (s.setDbg x).dbg = x := rfl
@[simp] theorem setDbg_lxas (s : State) (x) : (s.setDbg x).lxas = s.lxas := rfl

/-! `setLxas` -/

@[simp] theorem setLxas_clk (s : State) (x) : (s.setLxas x).clk = s.clk := rfl
@[simp] theorem setLxas_agenda (s : State) (x) : (s.setLxas x).agenda = s.agenda := rfl
@[simp] theorem setLxas_turn (s : State) (x) : (s.setLxas x).turn = s.turn := rfl
@[simp] theorem setLxas_free (s : State) (x) : (s.setLxas x).free = s.free := rfl
@[simp] theorem setLxas_rota (s : State) (x) : (s.setLxas x).rota = s.rota := rfl
@[simp] theorem setLxas_owners (s : State) (x) : (s.setLxas x).owners = s.owners := rfl
@[simp] theorem setLxas_ctxs (s : State) (x) : (s.setLxas x).ctxs = s.ctxs := rfl
@[simp] theorem setLxas_hub (s : State) (x) : (s.setLxas x).hub = s.hub := rfl
@[simp] theorem setLxas_groups (s : State) (x) : (s.setLxas x).groups = s.groups := rfl
@[simp] theorem setLxas_cores (s : State) (x) : (s.setLxas x).cores = s.cores := rfl
@[simp] theorem setLxas_mem (s : State) (x) : (s.setLxas x).mem = s.mem := rfl
@[simp] theorem setLxas_bars (s : State) (x) : (s.setLxas x).bars = s.bars := rfl
@[simp] theorem setLxas_xsts (s : State) (x) : (s.setLxas x).xsts = s.xsts := rfl
@[simp] theorem setLxas_nreds (s : State) (x) : (s.setLxas x).nreds = s.nreds := rfl
@[simp] theorem setLxas_ncs (s : State) (x) : (s.setLxas x).ncs = s.ncs := rfl
@[simp] theorem setLxas_claims (s : State) (x) : (s.setLxas x).claims = s.claims := rfl
@[simp] theorem setLxas_eng (s : State) (x) : (s.setLxas x).eng = s.eng := rfl
@[simp] theorem setLxas_gate (s : State) (x) : (s.setLxas x).gate = s.gate := rfl
@[simp] theorem setLxas_link (s : State) (x) : (s.setLxas x).link = s.link := rfl
@[simp] theorem setLxas_rel (s : State) (x) : (s.setLxas x).rel = s.rel := rfl
@[simp] theorem setLxas_dbg (s : State) (x) : (s.setLxas x).dbg = s.dbg := rfl
@[simp] theorem setLxas_lxas (s : State) (x) : (s.setLxas x).lxas = x := rfl

end Sys2Proof.Machine.State
end

