-- ==== Sys2Proof/Laws/Waves.lean ====
section
/-! SUPPORT. Registers, groups and waves: what a write changes and what it leaves alone. -/

namespace Sys2Proof.Machine

/-! ### Register files -/

theorem setReg_getD {α : Type} {len n k : Nat} {x d e : α} {l : List α} (hk : k < len) :
    (setReg len n x d l).getD k e = if k = n then x else l.getD k d := by
  simp [setReg, List.getD_eq_getElem?_getD, List.getElem?_map, List.getElem?_range hk]

theorem rangeMap_getD {α : Type} {len k : Nat} {f : Nat → α} {e : α} (hk : k < len) : ((List.range len).map f).getD k e = f k := by
  simp [List.getD_eq_getElem?_getD, List.getElem?_map, List.getElem?_range hk]

namespace Wave

@[simp] theorem cancel_s (t : Target) (w : Wave) : (w.cancel t).s = w.s := rfl
@[simp] theorem cancel_v (t : Target) (w : Wave) : (w.cancel t).v = w.v := rfl

theorem vreg_putV (n : Nat) (r : VReg) (w : Wave) (k : Nat) (hk : k < 64) : (w.putV n r).vreg k = if k = n then r else w.vreg k := by
  simp only [vreg, putV]
  exact setReg_getD hk

theorem sreg_putS (n : Nat) (x : Word) (l : Label) (w : Wave) (k : Nat) (hk : k < 64) :
    (w.putS n x l).sreg k = if k = n ∧ n ≠ 0 then ⟨x, l⟩ else w.sreg k := by
  by_cases hn : n = 0
  · subst hn; simp [putS]
  · by_cases h0 : k = 0
    · subst h0; simp [sreg, Ne.symm hn]
    · simp only [sreg, putS, if_neg hn, if_neg h0]
      rw [setReg_getD hk]
      simp [hn]

theorem mreg_putM (n : Nat) (x : BitVec 64) (l : Label) (w : Wave) (k : Nat) (hk : k < 8) :
    (w.putM n x l).mreg k = if k = n ∧ n ≠ 0 then ⟨x, l⟩ else w.mreg k := by
  by_cases hn : n = 0
  · subst hn; simp [putM]
  · by_cases h0 : k = 0
    · subst h0; simp [mreg, Ne.symm hn]
    · simp only [mreg, putM, if_neg hn, if_neg h0]
      rw [setReg_getD hk]
      simp [hn]

theorem pcAt_setPcs (m : BitVec 64) (f : Nat → Nat) (w : Wave) (l : Nat) (hl : l < 64) :
    (w.setPcs m f).pcAt l = if m.getLsbD l then f l else w.pcAt l := by
  simp only [pcAt, setPcs]
  exact rangeMap_getD hl

theorem mergeV_lane (old : VReg) (m : BitVec 64) (part : Bool) (f : Nat → Word) (lab : Label) (l : Nat) (hl : l < 64) :
    (mergeV old m part f lab).val.getD l 0 = if m.getLsbD l then f l else old.val.getD l 0 := rangeMap_getD hl

theorem mergeV_lab (old : VReg) (m : BitVec 64) (part : Bool) (f : Nat → Word) (lab : Label) :
    (mergeV old m part f lab).lab = if part = true ∨ m ≠ BitVec.allOnes 64 then lab ||| old.lab else lab := by
  simp [mergeV]

theorem laneMask_foldl (p : Nat → Bool) (n : Nat) :
    ∀ l, ((List.range n).foldl (fun n l => if p l then n + 2 ^ l else n) 0).testBit l = (decide (l < n) && p l) ∧
      (List.range n).foldl (fun n l => if p l then n + 2 ^ l else n) 0 < 2 ^ n := by
  induction n with
  | zero => intro l; simp
  | succ n ih =>
    intro l
    rw [List.range_succ, List.foldl_append]
    simp only [List.foldl_cons, List.foldl_nil]
    have hlt := (ih 0).2
    generalize (List.range n).foldl (fun n l => if p l then n + 2 ^ l else n) 0 = x at *
    have hx : x < 2 ^ n := hlt
    split
    · rename_i hp
      constructor
      · rw [Nat.add_comm]
        rcases Nat.lt_trichotomy l n with h | rfl | h
        · rw [Nat.testBit_two_pow_add_gt h]; rw [(ih l).1]; simp [h, Nat.lt_succ_of_lt h]
        · rw [Nat.testBit_two_pow_add_eq]
          have := (ih l).1
          simp at this; simp [this, hp]
        · have : 2 ^ n + x < 2 ^ l := by
            have : 2 ^ (n + 1) ≤ 2 ^ l := Nat.pow_le_pow_right (by decide) h
            rw [Nat.pow_succ] at this; omega
          rw [Nat.testBit_lt_two_pow this]
          have : ¬ l < n + 1 := by omega
          simp [this]
      · rw [Nat.pow_succ]; omega
    · rename_i hp
      constructor
      · rw [(ih l).1]
        by_cases h : l = n
        · subst h; simp [hp]
        · rw [show decide (l < n + 1) = decide (l < n) from decide_eq_decide.2 (by omega)]
      · rw [Nat.pow_succ]; omega

/-- A set of lanes holds the lanes that it is made of. -/
theorem laneMask_bit (p : Nat → Bool) (l : Nat) (hl : l < 64) : (laneMask p).getLsbD l = p l := by
  unfold laneMask
  have h := laneMask_foldl p 64 l
  generalize (List.range 64).foldl (fun n l => if p l then n + 2 ^ l else n) 0 = x at *
  rw [BitVec.getLsbD_ofNat, h.1]
  simp [hl]

end Wave

/-! ### Groups and waves of the state -/

namespace State

theorem amendFirst_amendFirst {α : Type} (p : α → Bool) (f g : α → α) (h : ∀ x, p (f x) = p x) (l : List α) :
    amendFirst p g (amendFirst p f l) = amendFirst p (fun x => g (f x)) l := by
  induction l with
  | nil => rfl
  | cons x l ih => by_cases hp : p x = true <;> simp [amendFirst, hp, h, ih]

theorem find_amendFirst {α : Type} (p : α → Bool) (f : α → α) (h : ∀ x, p (f x) = p x) (l : List α) :
    (amendFirst p f l).find? p = (l.find? p).map f := by
  induction l with
  | nil => rfl
  | cons x l ih => by_cases hp : p x = true <;> simp [amendFirst, hp, h, ih]

theorem find_amendFirst_other {α : Type} (p q : α → Bool) (f : α → α) (h : ∀ x, p x = true → q x = false)
    (hf : ∀ x, p x = true → q (f x) = false) (l : List α) : (amendFirst p f l).find? q = l.find? q := by
  induction l with
  | nil => rfl
  | cons x l ih =>
    by_cases hp : p x = true
    · simp [amendFirst, hp, h x hp, hf x hp]
    · simp [amendFirst, hp, List.find?_cons, ih]

/-- The element that is changed is the one that `find?` gives, so what changes it may name it. -/
theorem amendFirst_found {α : Type} (p : α → Bool) (f g : α → α) (l : List α) (h : ∀ x, l.find? p = some x → f x = g x) :
    amendFirst p f l = amendFirst p g l := by
  induction l with
  | nil => rfl
  | cons x l ih =>
    by_cases hp : p x = true
    · simp [amendFirst, hp, h x (by simp [hp])]
    · simp only [amendFirst, hp]
      rw [if_neg (by simp), if_neg (by simp), ih (fun y hy => h y (by simpa [hp] using hy))]

theorem group_updGroup (s : State) (g : Nat) (f : Group → Group) (hf : ∀ x, (f x).gid = x.gid) :
    (s.updGroup g f).group? g = (s.group? g).map f := by
  simp only [group?, updGroup, setGroups_groups]
  exact find_amendFirst _ _ (fun x => by simp [hf]) _

theorem group_updGroup_other (s : State) (g k : Nat) (f : Group → Group) (hf : ∀ x, (f x).gid = x.gid) (hk : k ≠ g) :
    (s.updGroup g f).group? k = s.group? k := by
  simp only [group?, updGroup, setGroups_groups]
  apply find_amendFirst_other
  · intro x hx; simp at hx ⊢; omega
  · intro x hx; simp [hf] at hx ⊢; omega

theorem wave_updWave (s : State) (r : WaveRef) (f : Wave → Wave) : (s.updWave r f).wave? r = (s.wave? r).map f := by
  simp only [wave?, updWave]
  rw [group_updGroup]
  · cases s.group? r.gid with
    | none => rfl
    | some g => simp
  · intro _; rfl

theorem wave_updWave_other (s : State) (r q : WaveRef) (f : Wave → Wave) (h : q ≠ r) : (s.updWave r f).wave? q = s.wave? q := by
  simp only [wave?, updWave]
  by_cases hg : q.gid = r.gid
  · have hw : q.wave ≠ r.wave := fun hw => h (by cases q; cases r; simp_all)
    rw [hg, group_updGroup]
    · cases s.group? r.gid with
      | none => rfl
      | some g => simp [Ne.symm hw]
    · intro _; rfl
  · rw [group_updGroup_other]
    · intro _; rfl
    · exact hg

theorem updWave_updWave (s : State) (r : WaveRef) (f g : Wave → Wave) :
    (s.updWave r f).updWave r g = s.updWave r fun w => g (f w) := by
  simp only [updWave, updGroup, setGroups, amendFirst_amendFirst (fun x : Group => x.gid == r.gid)
    (fun x => { x with waves := x.waves.modify r.wave f }) _ (fun _ => rfl), List.modify_modify_eq]
  rfl

@[simp] theorem updWave_clk (s : State) (r f) : (s.updWave r f).clk = s.clk := rfl
@[simp] theorem updWave_now (s : State) (r f) : (s.updWave r f).now = s.now := rfl
@[simp] theorem updWave_turn (s : State) (r f) : (s.updWave r f).turn = s.turn := rfl
@[simp] theorem updWave_agenda (s : State) (r f) : (s.updWave r f).agenda = s.agenda := rfl
@[simp] theorem updWave_mem (s : State) (r f) : (s.updWave r f).mem = s.mem := rfl
@[simp] theorem updWave_owners (s : State) (r f) : (s.updWave r f).owners = s.owners := rfl
@[simp] theorem updWave_ctxs (s : State) (r f) : (s.updWave r f).ctxs = s.ctxs := rfl
@[simp] theorem updWave_hub (s : State) (r f) : (s.updWave r f).hub = s.hub := rfl
@[simp] theorem updWave_cores (s : State) (r f) : (s.updWave r f).cores = s.cores := rfl
@[simp] theorem updWave_rota (s : State) (r f) : (s.updWave r f).rota = s.rota := rfl

/-- What changes a wave may name it: it is the one found there. -/
theorem updWave_found {s : State} {r : WaveRef} {w : Wave} (h : s.wave? r = some w) (f : Wave → Wave) :
    s.updWave r f = s.updWave r fun _ => f w := by
  simp only [updWave, updGroup]
  congr 1
  apply amendFirst_found
  intro g hg
  have hw : g.waves[r.wave]? = some w := by simpa [wave?, group?, hg] using h
  congr 1
  apply List.ext_getElem?
  intro k
  by_cases hk : r.wave = k
  · subst hk; simp [hw]
  · simp [hk]

end State

end Sys2Proof.Machine
end

