-- ==== Sys2Proof/Laws/Issue.lean ====
section
/-! SUPPORT. Issuing: what the turn says of the state, what the checks ask, and what an instruction that is a change of its wave
does; the waves that the shapes of Operands.lean leave. -/

namespace Sys2Proof.Machine

/-! ### The wave whose turn it is -/

/-- What cur? says of the state. -/
theorem cur_some {s : State} {c : Cur} (h : s.cur? = some c) :
    s.group? c.ref.gid = some c.g ∧ s.wave? c.ref = some c.w ∧ (∃ p, c.g.place = some p ∧ p.core = c.core) ∧
      c.w.issueAddr = some c.pc ∧ c.act = c.w.activeMask := by
  have key : ∀ r b, s.curOf r b = some c → s.group? c.ref.gid = some c.g ∧ s.wave? c.ref = some c.w ∧
      (∃ p, c.g.place = some p ∧ p.core = c.core) ∧ c.w.issueAddr = some c.pc ∧ c.act = c.w.activeMask := by
    intro r b h
    unfold State.curOf at h
    split at h
    · cases h
    · rename_i g hg
      split at h
      · rename_i p w hp hw
        split at h
        · rename_i pc hpc
          cases h
          exact ⟨hg, by simp [State.wave?, hg, hw], ⟨p, hp, rfl⟩, hpc, rfl⟩
        · cases h
      · cases h
  unfold State.cur? at h
  split at h
  · exact key _ _ h
  · exact key _ _ h
  · cases h

/-- A wave written over is the wave found there. -/
theorem wave_after {s : State} {c : Cur} (h : s.cur? = some c) (w : Wave) : (s.updWave c.ref fun _ => w).wave? c.ref = some w := by
  rw [State.wave_updWave, (cur_some h).2.1]
  rfl

@[simp] theorem noted_ref (c : Cur) (s : State) : (c.noted s).ref = c.ref := rfl
@[simp] theorem noted_g (c : Cur) (s : State) : (c.noted s).g = c.g := rfl
@[simp] theorem noted_core (c : Cur) (s : State) : (c.noted s).core = c.core := rfl
@[simp] theorem noted_pc (c : Cur) (s : State) : (c.noted s).pc = c.pc := rfl
@[simp] theorem noted_act (c : Cur) (s : State) : (c.noted s).act = c.act := rfl
@[simp] theorem noted_entries (c : Cur) (s : State) : (c.noted s).w.entries = c.w.entries := rfl
@[simp] theorem noted_sfuEntries (c : Cur) (s : State) : (c.noted s).w.sfuEntries = c.w.sfuEntries := rfl

/-! ### What an issued instruction leads to -/

/-- The checks of R64 that an instruction which may stand anywhere has to pass. -/
theorem issueCheck_none {i : Instr} {g : Sig} {c : Cur} {s : State}
    (h1 : g.xfer = true ∨ c.pc % 2048 + g.words ≤ 2047) (h2 : i.privileged = true → privileged s c.g = true) (h3 : wf i = true)
    (hv : InV c g.vs) (hh : InH c g.hs) (ha : InA c g.as) : issueCheck i g c s = none := by
  have a1 : ¬ ((!g.xfer && decide (c.pc % 2048 + g.words > 2047)) = true) := by
    rcases h1 with h | h
    · simp [h]
    · simp only [Bool.and_eq_true, decide_eq_true_eq]; omega
  have a2 : ¬ ((i.privileged && !privileged s c.g) = true) := by
    cases hp : i.privileged
    · simp
    · simp [h2 hp]
  have a4 : ¬ ((g.vs.any (· ≥ c.g.vdecl) || g.hs.any (· ≥ c.g.hdecl) || g.as.any (· ≥ c.g.adecl)) = true) := by
    simp only [Bool.or_eq_true, List.any_eq_true, decide_eq_true_eq, not_or, not_exists, not_and]
    refine ⟨⟨fun x hx => ?_, fun x hx => ?_⟩, fun x hx => ?_⟩
    · have := hv x hx; omega
    · have := hh x hx; omega
    · have := ha x hx; omega
  unfold issueCheck
  rw [if_neg a1, if_neg a2, if_neg (by simp [h3]), if_neg a4]

/-- An instruction that may issue has its effect, and is then complete. -/
theorem issue_next {i : Instr} {g : Sig} {body : Cur → State → Res} {s : State} {c : Cur}
    (h : s.cur? = some c) (hr : c.res = false)
    (he : g.entry = true → c.w.entries < 32) (hs : g.sfu = true → c.w.sfuEntries < 4)
    (hc : issueCheck i g (c.noted s) (s.updWave c.ref fun _ => (c.noted s).w) = none) :
    issue i g body s = .next (finishInstr i g (c.noted s) (body (c.noted s) (s.updWave c.ref fun _ => (c.noted s).w))) := by
  unfold issue
  simp only [h]
  rw [if_neg (by simp [hr]), if_neg, noted_ref, hc]
  cases h1 : g.entry <;> cases h2 : g.sfu <;> simp_all

/-- An instruction at a wave's turn always answers a next state. -/
theorem issue_safe {i : Instr} {g : Sig} {body : Cur → State → Res} {s : State} {c : Cur} (h : s.cur? = some c) :
    ∃ t, issue i g body s = .next t := by
  unfold issue
  simp only [h]
  split
  · exact ⟨_, rfl⟩
  · split
    · exact ⟨_, rfl⟩
    · split <;> exact ⟨_, rfl⟩

theorem finish_done {i : Instr} {g : Sig} {c : Cur} {s : State} : finishInstr i g c (.done s) = retireInstr g c s := rfl

/-- An instruction whose effect is a change of its wave. -/
theorem issueW_next {i : Instr} {g : Sig} {f : Cur → Wave} {s : State} {c : Cur}
    (h : s.cur? = some c) (hr : c.res = false)
    (he : g.entry = true → c.w.entries < 32) (hs : g.sfu = true → c.w.sfuEntries < 4)
    (hc : issueCheck i g (c.noted s) (s.updWave c.ref fun _ => (c.noted s).w) = none) :
    issueW i g f s = .next (s.updWave c.ref fun _ => retireWave g c.act s.clk.cycle (f (c.noted s))) := by
  unfold issueW
  rw [issue_next h hr he hs hc]
  simp only [finish_done, retireInstr, State.updWave_updWave, State.updWave_clk, noted_ref, noted_act]

/-! ### The wave afterwards -/

/-- A wave that runs when its instruction is complete. -/
theorem retireWave_running {g : Sig} {act : BitVec 64} {now : Nat} {w : Wave} (h : w.status = .running) :
    retireWave g act now w = { (if g.xfer then w else w.setPcs act fun l => w.pcAt l + g.words) with
      phase := 0, ready := if g.frame then now else now + 1, status := if g.p then .parked .next else .running } := by
  cases hx : g.xfer <;> simp [retireWave, hx, h, Wave.setPcs]

theorem cancel_entries (t : Target) (w : Wave) : SameEntries w (w.cancel t) := by
  simp [SameEntries, pendEntry, Wave.cancel, Function.comp_def]

theorem cancel_held (t : Target) (w : Wave) : (w.cancel t).held.map pendEntry = w.held.map pendEntry := by
  simp [pendEntry, Wave.cancel, Function.comp_def]

/-! ### The turn, and words that are no instruction -/

/-- A wave found for a turn carries whether it goes on. -/
theorem curOf_res {s : State} {r : WaveRef} {b : Bool} {c : Cur} (h : s.curOf r b = some c) : c.res = b ∧ c.ref = r := by
  unfold State.curOf at h
  split at h
  · cases h
  · split at h
    · split at h
      · cases h; exact ⟨rfl, rfl⟩
      · cases h
    · cases h

/-- The turn of a wave that issues. -/
theorem issues_turn {s : State} {c : Cur} (h : IssuesX s c) : s.turn = .issue c.ref ∧ s.curOf c.ref false = some c := by
  obtain ⟨hcur, hres, -⟩ := h
  unfold State.cur? at hcur
  split at hcur
  · rename_i r ht
    obtain ⟨-, rfl⟩ := curOf_res hcur
    exact ⟨ht, hcur⟩
  · have := (curOf_res hcur).1
    simp_all
  · cases hcur

/-- A precise trap of a wave that is not in its handler: the wave parks. -/
theorem fetchTrap_parks {s : State} {c : Cur} {f : Nat × Nat} (hcur : s.cur? = some c) (hi : c.w.intrap = false) :
    fetchTrap c f s = s.updWave c.ref fun _ => { c.w with lastIss := s.clk.cycle, status := .parked (.trap f.1 c.pc f.2 0), phase := 0 } := by
  have hw : s.wave? c.ref = some c.w := (cur_some hcur).2.1
  have h2 : (s.updWave c.ref fun w => { w with lastIss := s.clk.cycle }).wave? c.ref = some { c.w with lastIss := s.clk.cycle } := by
    rw [State.wave_updWave, hw]; rfl
  simp only [fetchTrap, takeTrap, h2, hi, Bool.false_eq_true, if_false, State.updWave_updWave]
  rw [State.updWave_found hw, hi]

/-- Words that the decoder refuses, and the trap that they take. -/
theorem noInstr_of {e : DecErr} {cause : Nat} {ws : List Nat} (h : decodeWords ws = .error e)
    (hc : e = .illegalOp ∧ cause = illegalOp ∨ e = .reservedEnc ∧ cause = reservedEnc) : NoInstr e cause ws := by
  refine ⟨h, fun s c hk hI hm hi hb hl hst hws => ?_⟩
  have hbad : badWord (privileged s c.g) c.pc (ws.headD 0) e = cause := by
    have h47 : ¬ c.pc % 2048 = 2047 := by have := hI.2; omega
    have hlit : (isLit (ws.headD 0) && decide (2045 ≤ c.pc % 2048)) = false := by
      rcases hl with hl | hl
      · rw [hl]; rfl
      · rw [decide_eq_false (by omega : ¬2045 ≤ c.pc % 2048), Bool.and_false]
    rcases hc with ⟨rfl, rfl⟩ | ⟨rfl, rfl⟩ <;> simp [badWord, h47, hb, hlit, -List.headD_eq_head?_getD]
  have hf : fetch s c = .error (cause, 0) := by
    unfold fetch
    rcases hst with hst | hst <;> simp only [hst, hws, h, hbad]
  obtain ⟨ht, hcur⟩ := issues_turn hI.1
  refine ⟨{ c.w with lastIss := s.clk.cycle, status := .parked (.trap cause c.pc 0 0), phase := 0 }, ?_, rfl, ?_⟩
  · have hs : step s = .next (settle (fetchTrap c (cause, 0) s)) := by
      simp only [step, advance, hk, ht, stepIssue, hcur, atMark, hm, hf, Bool.not_false, Bool.not_true, Bool.false_eq_true, if_true, if_false]
    rw [hs, fetchTrap_parks hI.1.1 hi]
  · refine ⟨?_, rfl, rfl, rfl⟩
    simp [SameRegs, SameV, SameS, SameM, SameX, SameTrap, SameRng, SameMisc, SameFlags, Wave.vreg, Wave.sreg, Wave.mreg]
end Sys2Proof.Machine
end

