-- ==== Sys2Proof/Laws/Shapes.lean ====
section
/-! SUPPORT. What an instruction of each shape of Operands.lean does: one lemma per shape, for every instruction of it. -/

namespace Sys2Proof.Machine

/-- The checks that an ordinary instruction has to pass, from the hypotheses of a claim. -/
theorem ordinary_check {i : Instr} {g : Sig} {s : State} {c : Cur} (hx : g.xfer = true ∨ c.pc % 2048 + g.words ≤ 2047)
    (hp : i.privileged = false) (hw : wf i = true) (hv : InV c g.vs) (hh : InH c g.hs) (ha : InA c g.as) :
    issueCheck i g (c.noted s) (s.updWave c.ref fun _ => (c.noted s).w) = none :=
  issueCheck_none hx (by simp [hp]) hw hv hh ha

theorem InV_nil (c : Cur) : InV c [] := fun _ h => by cases h
theorem InH_nil (c : Cur) : InH c [] := fun _ h => by cases h
theorem InA_nil (c : Cur) : InA c [] := fun _ h => by cases h

/-- A change of the wave by an instruction that runs on: what `w1`, the wave with the result, leads to. -/
theorem ordinary_next {i : Instr} {p : Bool} {n : Nat} {vs : List Nat} {f : Cur → Wave} {s : State} {c : Cur}
    (hex : exec i s = issueW i { p := p, vs := vs, words := n } f s) (hi : Issues s c n) (hv : InV c vs)
    (hp : i.privileged = false) (hw : wf i = true) :
    exec i s = .next (s.updWave c.ref fun _ =>
      retireWave { p := p, vs := vs, words := n } c.act s.clk.cycle (f (c.noted s))) := by
  rw [hex]
  exact issueW_next hi.1.1 hi.1.2.1 (fun h => by cases h) (fun h => by cases h)
    (ordinary_check (.inr hi.2) hp hw hv (InH_nil c) (InA_nil c))

/-- A wave whose PCs, phase, time of issue and status alone change. -/
theorem retire_advances {p : Bool} {n : Nat} {vs hs as : List Nat} {e x : Bool} {s : State} {c : Cur} {w : Wave}
    (h1 : w.pcs = c.w.pcs) (h2 : w.status = .running) :
    Advances p n c s (retireWave { p := p, vs := vs, hs := hs, as := as, entry := e, sfu := x, words := n } c.act s.clk.cycle w) := by
  rw [retireWave_running h2]
  refine ⟨fun l hl => ?_, rfl, rfl, rfl⟩
  have hw : ∀ l, w.pcAt l = c.w.pcAt l := fun l => by simp [Wave.pcAt, h1]
  have : (w.setPcs c.act fun l => w.pcAt l + n).pcAt l = if c.act.getLsbD l then c.w.pcAt l + n else c.w.pcAt l := by
    rw [Wave.pcAt_setPcs _ _ _ _ hl]
    simp [hw]
  exact this

/-! ### Vector results -/

theorem writesV_of {i : Instr} {p : Bool} {n : Nat} {d : Reg} {part : Bool} {f : Nat → Word} {lab : Label} {vs : List Nat}
    {r : Cur → Wave} {s : State} {c : Cur}
    (hex : exec i s = issueW i { p := p, vs := vs, words := n } r s)
    (hi : Issues s c n) (hv : InV c vs) (hp : i.privileged = false) (hw : wf i = true)
    (hr : r (c.noted s) = (c.noted s).w.writeV d c.act part f lab) : WritesV i p n d part f lab s c := by
  refine ⟨_, _, ordinary_next hex hi hv hp hw, rfl, ?_⟩
  rw [hr, retireWave_running (show ((c.noted s).w.writeV d c.act part f lab).status = .running from hi.1.2.2)]
  have hd : ∀ k : Reg, ((c.noted s).w.writeV d c.act part f lab).vreg k =
      if k.val = d.val then Wave.mergeV (c.w.vreg d) c.act part f lab else c.w.vreg k :=
    fun k => Wave.vreg_putV _ _ _ _ k.isLt
  refine ⟨fun l hl => ?_, ?_, fun k hk => ?_, fun _ => rfl, fun _ => rfl, rfl, ⟨rfl, rfl, rfl, rfl, rfl⟩, ⟨rfl, rfl, rfl⟩,
    ⟨rfl, rfl, rfl, rfl, rfl, rfl, rfl, cancel_held (.v d) c.w, rfl⟩, rfl, rfl, cancel_entries (.v d) c.w, ?_⟩
  · show (((c.noted s).w.writeV d c.act part f lab).vreg d).val.getD l 0 = _
    rw [hd, if_pos rfl, Wave.mergeV_lane _ _ _ _ _ _ hl]
    rfl
  · show (((c.noted s).w.writeV d c.act part f lab).vreg d).lab = _
    rw [hd, if_pos rfl, Wave.mergeV_lab]
  · show ((c.noted s).w.writeV d c.act part f lab).vreg k = _
    rw [hd, if_neg (fun h => hk (Fin.ext h))]
  · have := @retire_advances p n vs [] [] false false s c ((c.noted s).w.writeV d c.act part f lab) rfl hi.1.2.2
    rwa [retireWave_running (show ((c.noted s).w.writeV d c.act part f lab).status = .running from hi.1.2.2)] at this

/-! ### Flags -/

theorem laneFlags_bit (act : BitVec 64) (f : Nat → Flags) (k : Nat) :
    (laneFlags act f).getLsbD k = (List.range 64).any fun l => act.getLsbD l && (f l).getLsbD k := by
  have key : ∀ (ls : List Nat) (x : Flags),
      (ls.foldl (fun fl l => if act.getLsbD l then fl ||| f l else fl) x).getLsbD k =
        (x.getLsbD k || ls.any fun l => act.getLsbD l && (f l).getLsbD k) := by
    intro ls
    induction ls with
    | nil => simp
    | cons l ls ih =>
      intro x
      simp only [List.foldl_cons, List.any_cons]
      rw [ih]
      cases act.getLsbD l <;> simp [Bool.or_assoc]
  simp [laneFlags, key]

theorem writesVF_of {i : Instr} {p : Bool} {d : Reg} {part : Bool} {f : Nat → Word × Flags} {lab : Label} {vs : List Nat}
    {r : Cur → Wave} {s : State} {c : Cur}
    (hex : exec i s = issueW i { p := p, vs := vs } r s)
    (hi : Issues s c 1) (hv : InV c vs) (hp : i.privileged = false) (hw : wf i = true)
    (hr : r (c.noted s) = ((c.noted s).w.writeV d c.act part (fun l => (f l).1) lab).raise (laneFlags c.act fun l => (f l).2) lab) :
    WritesVF i p d part f lab s c := by
  refine ⟨_, _, ordinary_next (n := 1) hex hi hv hp hw, rfl, ?_⟩
  have hrun : (((c.noted s).w.writeV d c.act part (fun l => (f l).1) lab).raise (laneFlags c.act fun l => (f l).2) lab).status =
    .running := hi.1.2.2
  rw [hr, retireWave_running hrun]
  have hd : ∀ k : Reg, ((c.noted s).w.writeV d c.act part (fun l => (f l).1) lab).vreg k =
      if k.val = d.val then Wave.mergeV (c.w.vreg d) c.act part (fun l => (f l).1) lab else c.w.vreg k :=
    fun k => Wave.vreg_putV _ _ _ _ k.isLt
  refine ⟨fun l hl => ?_, ?_, fun k hk => ?_, rfl, fun k hk => ?_, fun _ => rfl, fun _ => rfl, rfl, ⟨rfl, rfl, rfl, rfl, rfl⟩,
    ⟨rfl, rfl, rfl⟩, ⟨rfl, rfl, rfl, rfl, rfl, rfl, rfl, cancel_held (.v d) c.w, rfl⟩, rfl, cancel_entries (.v d) c.w, ?_⟩
  · show (((c.noted s).w.writeV d c.act part (fun l => (f l).1) lab).vreg d).val.getD l 0 = _
    rw [hd, if_pos rfl, Wave.mergeV_lane _ _ _ _ _ _ hl]
    rfl
  · show (((c.noted s).w.writeV d c.act part (fun l => (f l).1) lab).vreg d).lab = _
    rw [hd, if_pos rfl, Wave.mergeV_lab]
  · show (c.w.fflags.val ||| (laneFlags c.act fun l => (f l).2).setWidth 32).getLsbD k = _
    rw [BitVec.getLsbD_or, BitVec.getLsbD_setWidth, laneFlags_bit]
    simp [hk]
  · show ((c.noted s).w.writeV d c.act part (fun l => (f l).1) lab).vreg k = _
    rw [hd, if_neg (fun h => hk (Fin.ext h))]
  · have := @retire_advances p 1 vs [] [] false false s c
      (((c.noted s).w.writeV d c.act part (fun l => (f l).1) lab).raise (laneFlags c.act fun l => (f l).2) lab) rfl hi.1.2.2
    rwa [retireWave_running hrun] at this

/-! ### Uniform results -/

theorem writesS_of {i : Instr} {p : Bool} {n : Nat} {d : Reg} {x : Word} {lab : Label} {vs : List Nat}
    {r : Cur → Wave} {s : State} {c : Cur}
    (hex : exec i s = issueW i { p := p, vs := vs, words := n } r s)
    (hi : Issues s c n) (hv : InV c vs) (hp : i.privileged = false) (hw : wf i = true)
    (hr : r (c.noted s) = (c.noted s).w.writeS d x lab) : WritesS i p n d x lab s c := by
  refine ⟨_, _, ordinary_next hex hi hv hp hw, rfl, ?_⟩
  have hrun : ((c.noted s).w.writeS d x lab).status = .running := by
    simp only [Wave.writeS, Wave.putS]; split <;> exact hi.1.2.2
  have hd : ∀ k : Reg, ((c.noted s).w.writeS d x lab).sreg k = if k.val = d.val ∧ d.val ≠ 0 then ⟨x, lab⟩ else c.w.sreg k :=
    fun k => Wave.sreg_putS _ _ _ _ _ k.isLt
  rw [hr, retireWave_running hrun]
  have same : ∃ u, (c.noted s).w.writeS d x lab = { (c.noted s).w.cancel (.s d) with s := u } := by
    simp only [Wave.writeS, Wave.putS]
    split
    · exact ⟨_, rfl⟩
    · exact ⟨_, rfl⟩
  refine ⟨?_, fun k hk => ?_, ?_⟩
  · show ((c.noted s).w.writeS d x lab).sreg d = _
    rw [hd]
    by_cases h0 : d = 0
    · subst h0; simp [Wave.sreg]
    · have : d.val ≠ 0 := fun h => h0 (Fin.ext h)
      simp [this, h0]
  · show ((c.noted s).w.writeS d x lab).sreg k = _
    rw [hd, if_neg (fun h => hk (Fin.ext h.1))]
  · have hadv := @retire_advances p n vs [] [] false false s c ((c.noted s).w.writeS d x lab)
      (by obtain ⟨u, hu⟩ := same; rw [hu]; rfl) hrun
    rw [retireWave_running hrun] at hadv
    obtain ⟨u, hu⟩ := same
    rw [hu] at hadv ⊢
    exact ⟨fun _ => rfl, fun _ => rfl, rfl, ⟨rfl, rfl, rfl, rfl, rfl⟩, ⟨rfl, rfl, rfl⟩,
      ⟨rfl, rfl, rfl, rfl, rfl, rfl, rfl, cancel_held (.s d) c.w, rfl⟩, rfl, rfl, cancel_entries (.s d) c.w, hadv⟩

/-! ### Mask results -/

theorem writesM_of {i : Instr} {p : Bool} {d : MReg} {m : BitVec 64} {f : Nat → Bool} {lab : Label} {vs : List Nat}
    {r : Cur → Wave} {x : BitVec 64} {l' : Label} {s : State} {c : Cur}
    (hex : exec i s = issueW i { p := p, vs := vs } r s)
    (hi : Issues s c 1) (hv : InV c vs) (hp : i.privileged = false) (hw : wf i = true)
    (hr : r (c.noted s) = (c.noted s).w.putM d x l')
    (hx : ∀ l, l < 64 → x.getLsbD l = if m.getLsbD l then f l else (c.w.mreg d).val.getLsbD l)
    (hl : l' = if m = BitVec.allOnes 64 then lab else lab ||| (c.w.mreg d).lab) : WritesM i p d m f lab s c := by
  refine ⟨_, _, ordinary_next (n := 1) hex hi hv hp hw, rfl, ?_⟩
  have same : ∃ u, (c.noted s).w.putM d x l' = { (c.noted s).w with m := u } := by
    simp only [Wave.putM]
    split <;> exact ⟨_, rfl⟩
  have hrun : ((c.noted s).w.putM d x l').status = .running := by
    obtain ⟨u, hu⟩ := same; rw [hu]; exact hi.1.2.2
  have hd : ∀ k : MReg, ((c.noted s).w.putM d x l').mreg k = if k.val = d.val ∧ d.val ≠ 0 then ⟨x, l'⟩ else c.w.mreg k :=
    fun k => Wave.mreg_putM _ _ _ _ _ k.isLt
  rw [hr, retireWave_running hrun]
  refine ⟨fun l hl' => ?_, ?_, fun k hk => ?_, ?_⟩
  · show (((c.noted s).w.putM d x l').mreg d).val.getLsbD l = _
    rw [hd]
    by_cases h0 : d = 0
    · subst h0
      show (BitVec.allOnes 64).getLsbD l = true
      rw [BitVec.getLsbD_allOnes]; simp [hl']
    · have : d.val ≠ 0 := fun h => h0 (Fin.ext h)
      simp [this, h0, hx l hl']
  · show (((c.noted s).w.putM d x l').mreg d).lab = _
    rw [hd]
    by_cases h0 : d = 0
    · subst h0; simp [Wave.mreg]
    · have : d.val ≠ 0 := fun h => h0 (Fin.ext h)
      simp [this, h0, hl]
  · show ((c.noted s).w.putM d x l').mreg k = _
    rw [hd, if_neg (fun h => hk (Fin.ext h.1))]
  · have hadv := @retire_advances p 1 vs [] [] false false s c ((c.noted s).w.putM d x l')
      (by obtain ⟨u, hu⟩ := same; rw [hu]; rfl) hrun
    rw [retireWave_running hrun] at hadv
    obtain ⟨u, hu⟩ := same
    rw [hu] at hadv ⊢
    exact ⟨fun _ => rfl, fun _ => rfl, rfl, ⟨rfl, rfl, rfl, rfl, rfl⟩, ⟨rfl, rfl, rfl⟩,
      ⟨rfl, rfl, rfl, rfl, rfl, rfl, rfl, rfl, rfl⟩, rfl, rfl, rfl, hadv⟩

/-- The mask that writeM makes. -/
theorem writeM_bits {w : Wave} {d : MReg} {m : BitVec 64} {f : Nat → Bool} (l : Nat) (hl : l < 64) :
    (Wave.laneMask fun l => if m.getLsbD l then f l else (w.mreg d).val.getLsbD l).getLsbD l =
      if m.getLsbD l then f l else (w.mreg d).val.getLsbD l := Wave.laneMask_bit _ _ hl

end Sys2Proof.Machine
end

