-- ==== Sys2Proof/Laws/Effects.lean ====
section
/-! SUPPORT. What an issued instruction leads to, outcome by outcome of its effect: complete, a trap, a wait, a park; and what an
instruction leads to that goes on. -/

namespace Sys2Proof.Machine

/-! ### What stays -/

/-- Whatever else becomes of a wave, its registers are as before. -/
theorem sameRegs_rest (w : Wave) (pcs : List Nat) (ctxlbl : Label) (pend : List Pend) (status : WStatus) (phase ready lastIss target : Nat) :
    SameRegs w { w with pcs, ctxlbl, pend, status, phase, ready, lastIss, target } :=
  ⟨fun _ => rfl, fun _ => rfl, fun _ => rfl, rfl, ⟨rfl, rfl, rfl, rfl, rfl⟩, ⟨rfl, rfl, rfl⟩, ⟨rfl, rfl, rfl, rfl, rfl, rfl, rfl, rfl, rfl⟩, rfl⟩

@[simp] theorem atIssue_updWave (s : State) (c : Cur) (f : Wave → Wave) :
    (atIssue s c).updWave c.ref f = s.updWave c.ref fun _ => f (c.noted s).w := by
  simp only [atIssue, State.updWave_updWave]

theorem wave_atIssue {s : State} {c : Cur} (h : s.cur? = some c) : (atIssue s c).wave? c.ref = some (c.noted s).w := wave_after h _

/-! ### Outcomes -/

/-- An instruction that may issue has its effect. -/
theorem effect_next {i : Instr} {g : Sig} {body : Cur → State → Res} {s : State} {c : Cur} (hI : IssuesX s c)
    (hex : exec i s = issue i g body s) (he : g.entry = true → c.w.entries < 32) (hs : g.sfu = true → c.w.sfuEntries < 4)
    (hc : issueCheck i g (c.noted s) (atIssue s c) = none) :
    exec i s = .next (finishInstr i g (c.noted s) (body (c.noted s) (atIssue s c))) := by
  rw [hex]
  exact issue_next hI.1 hI.2.1 he hs hc

/-- An instruction that goes on has its effect. -/
theorem resume_next {i : Instr} {g : Sig} {body : Cur → State → Res} {s : State} {c : Cur} (hR : Resumes s c i)
    (hex : exec i s = issue i g body s) : exec i s = .next (finishInstr i g c (body c s)) := by
  rw [hex]
  unfold issue
  simp only [hR.1]
  rw [if_pos hR.2.1]

/-- The checks of an instruction that may issue and is no transfer. -/
theorem check_none {i : Instr} {g : Sig} {s : State} {c : Cur} (hx : g.xfer = true ∨ c.pc % 2048 + g.words ≤ 2047)
    (hp : i.privileged = true → privileged s c.g = true) (hw : wf i = true) (hv : InV c g.vs) (hh : InH c g.hs) (ha : InA c g.as) :
    issueCheck i g (c.noted s) (atIssue s c) = none :=
  issueCheck_none hx (fun h => hp h) hw hv hh ha

/-- A precise trap after a change of the wave: of a wave that is not in its handler. -/
theorem takeTrap_wave {s : State} {c : Cur} (h : s.cur? = some c) (f : Wave) (hi : f.intrap = false) (cause pc addr : Nat) (ab : Label) :
    takeTrap c.ref cause pc addr ab (s.updWave c.ref fun _ => f) =
      s.updWave c.ref fun _ => { f with status := .parked (.trap cause pc addr ab), phase := 0 } := by
  have h2 := wave_after h f
  simp only [takeTrap, h2, hi, Bool.false_eq_true, if_false, State.updWave_updWave]

/-- The trap of an instruction that absorbs a label at once. -/
theorem trapsWith_of {i : Instr} {s : State} {c : Cur} {pc cause addr : Nat} {ab lab : Label} (h : s.cur? = some c)
    (hi : c.w.intrap = false) (n : Nat)
    (hex : exec i s = .next (takeTrap c.ref cause pc addr ab (s.updWave c.ref fun _ => ({ c.w with lastIss := n } : Wave).absorb lab))) :
    TrapsWith i pc cause addr ab lab s c := by
  rw [takeTrap_wave h (({ c.w with lastIss := n } : Wave).absorb lab) hi] at hex
  exact ⟨_, _, hex, rfl, rfl, rfl, rfl, sameRegs_rest .., fun _ => rfl, rfl⟩

theorem absorb_zero (w : Wave) : w.absorb 0 = w := by simp [Wave.absorb]

/-- The trap of an instruction that absorbs nothing at once. -/
theorem traps_of {i : Instr} {s : State} {c : Cur} {pc cause addr : Nat} {ab : Label} (h : s.cur? = some c)
    (hi : c.w.intrap = false) (n : Nat)
    (hex : exec i s = .next (takeTrap c.ref cause pc addr ab (s.updWave c.ref fun _ => { c.w with lastIss := n }))) :
    TrapsWith i pc cause addr ab 0 s c := by
  refine trapsWith_of h hi n ?_
  rw [absorb_zero]
  exact hex

/-- A check of issue that fails. -/
theorem check_traps {i : Instr} {g : Sig} {body : Cur → State → Res} {s : State} {c : Cur} {cause : Nat} (hI : IssuesX s c)
    (hex : exec i s = issue i g body s) (hi : c.w.intrap = false) (he : g.entry = true → c.w.entries < 32)
    (hs : g.sfu = true → c.w.sfuEntries < 4) (hc : issueCheck i g (c.noted s) (atIssue s c) = some cause) :
    TrapsAt i c.pc cause 0 s c := by
  refine traps_of hI.1 hi s.clk.cycle ?_
  rw [hex]
  unfold issue
  simp only [hI.1]
  rw [if_neg (by simp [hI.2.1]), if_neg (by cases h1 : g.entry <;> cases h2 : g.sfu <;> simp_all)]
  simp only [noted_ref]
  rw [show (s.updWave c.ref fun _ => (c.noted s).w) = atIssue s c from rfl, hc]
  rfl

/-- The register check that fails. -/
theorem issueCheck_bound {i : Instr} {g : Sig} {s : State} {c : Cur} (hx : g.xfer = true ∨ c.pc % 2048 + g.words ≤ 2047)
    (hp : i.privileged = true → privileged s c.g = true) (hw : wf i = true) (hb : ¬InV c g.vs ∨ ¬InH c g.hs ∨ ¬InA c g.as) :
    issueCheck i g c s = some regBound := by
  have a1 : ¬ ((!g.xfer && decide (c.pc % 2048 + g.words > 2047)) = true) := by
    rcases hx with h | h
    · simp [h]
    · simp only [Bool.and_eq_true, decide_eq_true_eq]; omega
  have a2 : ¬ ((i.privileged && !privileged s c.g) = true) := by
    cases h : i.privileged
    · simp
    · simp [hp h]
  have a4 : (g.vs.any (· ≥ c.g.vdecl) || g.hs.any (· ≥ c.g.hdecl) || g.as.any (· ≥ c.g.adecl)) = true := by
    simp only [Bool.or_eq_true, List.any_eq_true, decide_eq_true_eq]
    simp only [InV, InH, InA] at hb
    simp only [Classical.not_forall, Nat.not_lt] at hb
    rcases hb with ⟨r, h1, h2⟩ | ⟨r, h1, h2⟩ | ⟨r, h1, h2⟩
    · exact .inl (.inl ⟨r, h1, h2⟩)
    · exact .inl (.inr ⟨r, h1, h2⟩)
    · exact .inr ⟨r, h1, h2⟩
  unfold issueCheck
  rw [if_neg a1, if_neg a2, if_neg (by simp [hw]), if_pos a4]

theorem check_bound {i : Instr} {g : Sig} {s : State} {c : Cur} (hx : g.xfer = true ∨ c.pc % 2048 + g.words ≤ 2047)
    (hp : i.privileged = true → privileged s c.g = true) (hw : wf i = true) (hb : ¬InV c g.vs ∨ ¬InH c g.hs ∨ ¬InA c g.as) :
    issueCheck i g (c.noted s) (atIssue s c) = some regBound := issueCheck_bound hx (fun h => hp h) hw hb

/-- The privilege check that fails. -/
theorem issueCheck_priv {i : Instr} {g : Sig} {s : State} {c : Cur} (hx : g.xfer = true ∨ c.pc % 2048 + g.words ≤ 2047)
    (hp : i.privileged = true) (hq : privileged s c.g = false) : issueCheck i g c s = some privOp := by
  have a1 : ¬ ((!g.xfer && decide (c.pc % 2048 + g.words > 2047)) = true) := by
    rcases hx with h | h
    · simp [h]
    · simp only [Bool.and_eq_true, decide_eq_true_eq]; omega
  unfold issueCheck
  rw [if_neg a1, if_pos (by simp [hp, hq])]

theorem check_priv {i : Instr} {g : Sig} {s : State} {c : Cur} (hx : g.xfer = true ∨ c.pc % 2048 + g.words ≤ 2047)
    (hp : i.privileged = true) (hq : privileged s c.g = false) :
    issueCheck i g (c.noted s) (atIssue s c) = some privOp := issueCheck_priv hx hp hq

/-- The instruction is complete, its effect being a change of the wave that leaves it running. -/
theorem done_wave {i : Instr} {g : Sig} {s : State} {c : Cur} {f : Wave} :
    finishInstr i g (c.noted s) (.done (s.updWave c.ref fun _ => f)) = s.updWave c.ref fun _ => retireWave g c.act s.clk.cycle f := by
  simp only [finishInstr, retireInstr, noted_ref, noted_act, State.updWave_updWave, State.updWave_clk]

/-- The instruction moves its lanes. -/
theorem jumps_of {i : Instr} {p : Bool} {s : State} {c : Cur} {f : Nat → Nat} {lab : Label} {vs hs as : List Nat} {n m : Nat}
    (hr : c.w.status = .running ∨ ∃ k, c.w.status = .waiting k i)
    (hex : exec i s = .next (s.updWave c.ref fun _ =>
      retireWave { p := p, vs := vs, hs := hs, as := as, xfer := true, words := n } c.act s.clk.cycle
        ((({ c.w with lastIss := m } : Wave).absorb lab).setPcs c.act f))) :
    Jumps i p f lab s c := by
  have e : retireWave { p := p, vs := vs, hs := hs, as := as, xfer := true, words := n } c.act s.clk.cycle
      ((({ c.w with lastIss := m } : Wave).absorb lab).setPcs c.act f) =
      { ((({ c.w with lastIss := m } : Wave).absorb lab).setPcs c.act f) with
        phase := 0, ready := s.clk.cycle + 1, status := if p then .parked .next else .running } := by
    rcases hr with hr | ⟨k, hr⟩ <;> simp [retireWave, Wave.setPcs, Wave.absorb, hr]
  rw [e] at hex
  exact ⟨_, _, hex, rfl, fun l hl => Wave.pcAt_setPcs c.act f (({ c.w with lastIss := m } : Wave).absorb lab) l hl, rfl,
    sameRegs_rest .., rfl, rfl, rfl, rfl⟩

/-- The instruction parks and then goes on. -/
theorem parksFirst_of {i : Instr} {s : State} {c : Cur} {n : Nat}
    (hex : exec i s = .next (s.updWave c.ref fun _ => { c.w with lastIss := n, phase := 1, status := .parked (.again i) })) : ParksFirst i s c :=
  ⟨_, _, hex, rfl, rfl, rfl, sameRegs_rest .., rfl, rfl, rfl⟩

/-- The instruction waits. -/
theorem waitsIn_of {i : Instr} {s : State} {c : Cur} {n m : Nat} {k : Cond}
    (hex : exec i s = .next (s.updWave c.ref fun _ => { c.w with lastIss := m, phase := n, status := .waiting k i })) : WaitsIn i n k s c :=
  ⟨_, _, hex, rfl, rfl, rfl, sameRegs_rest .., rfl, rfl, rfl⟩

/-- The instruction goes on behind its words and does nothing else. -/
theorem onlyAdvances_of {i : Instr} {p : Bool} {n m : Nat} {vs hs as : List Nat} {e x : Bool} {s : State} {c : Cur} (hr : c.w.status = .running)
    (hex : exec i s = .next (s.updWave c.ref fun _ =>
      retireWave { p := p, vs := vs, hs := hs, as := as, entry := e, sfu := x, words := n } c.act s.clk.cycle { c.w with lastIss := m })) :
    OnlyAdvances i p n s c := by
  refine ⟨_, _, hex, rfl, ?_, ?_, ?_, retire_advances rfl hr⟩
  all_goals rw [retireWave_running (show ({ c.w with lastIss := m } : Wave).status = .running from hr)]
  · exact sameRegs_rest ..
  · rfl
  · rfl

end Sys2Proof.Machine
end

