-- ==== Sys2Proof/Laws/Memory.lean ====
section
/-! SUPPORT. Memory as cells: a read after a write, what a write leaves alone, and the canonical form, which every write keeps. -/

namespace Sys2Proof.Machine

/-! ### One byte -/

/-- Every address of a list lies above `n`. -/
def cellsAbove (n : Nat) (l : List Host.Cell) : Prop := ∀ e ∈ l, n < e.1

theorem cellsWf_cons {i : Nat} {b : Byte} {l : List Host.Cell} :
    cellsWf ((i, b) :: l) = true ↔ b ≠ unwritten ∧ cellsAbove i l ∧ cellsWf l = true := by
  induction l generalizing i b with
  | nil => simp [cellsWf, cellsAbove]
  | cons e l ih =>
    obtain ⟨j, c⟩ := e
    simp only [cellsWf, Bool.and_eq_true, decide_eq_true_eq, bne_iff_ne, ne_eq]
    constructor
    · rintro ⟨⟨hb, hij⟩, hw⟩
      have h := (ih (i := j) (b := c)).1 hw
      refine ⟨hb, ?_, hw⟩
      intro e he
      rcases List.mem_cons.1 he with rfl | he
      · exact hij
      · exact Nat.lt_trans hij (h.2.1 e he)
    · rintro ⟨hb, ha, hw⟩
      exact ⟨⟨hb, ha (j, c) (List.mem_cons_self ..)⟩, hw⟩

theorem cellPut_above {n a : Nat} {b : Byte} {l : List Host.Cell} (h : cellsAbove n l) (ha : n < a) :
    cellsAbove n (cellPut a b l) := by
  induction l with
  | nil =>
    intro e he
    simp only [cellPut] at he
    split at he
    · simp at he
    · simp only [List.mem_singleton] at he; subst he; exact ha
  | cons e l ih =>
    obtain ⟨i, c⟩ := e
    have hi : n < i := h (i, c) (List.mem_cons_self ..)
    have hl : cellsAbove n l := fun e he => h e (List.mem_cons_of_mem _ he)
    intro x hx
    simp only [cellPut] at hx
    split at hx
    · split at hx
      · exact h x hx
      · rcases List.mem_cons.1 hx with rfl | hx
        · exact ha
        · exact h x hx
    · split at hx
      · split at hx
        · exact hl x ((List.dropWhile_suffix _).mem hx)
        · rcases List.mem_cons.1 hx with rfl | hx
          · exact ha
          · exact hl x hx
      · rcases List.mem_cons.1 hx with rfl | hx
        · exact hi
        · exact ih hl x hx

/-- In a list in canonical form the removal of an entry removes nothing else. -/
theorem dropWhile_above {n : Nat} {l : List Host.Cell} (h : cellsAbove n l) : (l.dropWhile fun e => decide (e.1 ≤ n)) = l := by
  cases l with
  | nil => rfl
  | cons e l =>
    have := h e (List.mem_cons_self ..)
    simp [List.dropWhile, Nat.not_le.2 this]

/-- Storing a byte keeps the canonical form. -/
theorem cellPut_wf {a : Nat} {b : Byte} {l : List Host.Cell} (h : cellsWf l = true) : cellsWf (cellPut a b l) = true := by
  induction l with
  | nil =>
    simp only [cellPut]
    split
    · rfl
    · simpa [cellsWf] using ‹_›
  | cons e l ih =>
    obtain ⟨i, c⟩ := e
    have hc := cellsWf_cons.1 h
    simp only [cellPut]
    split
    · split
      · exact h
      · refine cellsWf_cons.2 ⟨‹_›, ?_, h⟩
        intro x hx
        rcases List.mem_cons.1 hx with rfl | hx
        · assumption
        · have := hc.2.1 x hx; omega
    · split
      · subst a
        split
        · rw [dropWhile_above hc.2.1]; exact hc.2.2
        · exact cellsWf_cons.2 ⟨‹_›, hc.2.1, hc.2.2⟩
      · exact cellsWf_cons.2 ⟨hc.1, cellPut_above hc.2.1 (by omega), ih hc.2.2⟩

/-- Behind the addresses up to one, the list reads from there on as a whole. -/
theorem cellGet_dropWhile {a x : Nat} {l : List Host.Cell} :
    cellGet x (l.dropWhile fun e => decide (e.1 ≤ a)) = if x ≤ a then unwritten else cellGet x l := by
  induction l with
  | nil => simp [cellGet]
  | cons e l ih =>
    obtain ⟨i, c⟩ := e
    by_cases hi : i ≤ a
    · rw [List.dropWhile_cons_of_pos (by simpa using hi), ih]
      split
      · rfl
      · simp only [cellGet]
        rw [if_neg (by omega), if_neg (by omega)]
    · rw [List.dropWhile_cons_of_neg (by simpa using hi)]
      split
      · simp only [cellGet]
        rw [if_neg (by omega), if_pos (by omega)]
      · rfl

/-- A byte stored reads as it was stored. -/
theorem cellGet_put_same {a : Nat} {b : Byte} {l : List Host.Cell} : cellGet a (cellPut a b l) = b := by
  induction l with
  | nil =>
    simp only [cellPut]
    split
    · simp_all [cellGet]
    · simp [cellGet]
  | cons e l ih =>
    obtain ⟨i, c⟩ := e
    simp only [cellPut]
    split
    · split
      · subst b
        simp only [cellGet]
        rw [if_neg (by omega), if_pos ‹_›]
      · simp [cellGet]
    · split
      · split
        · rw [cellGet_dropWhile, if_pos (Nat.le_refl _)]; exact Eq.symm ‹_›
        · simp [cellGet]
      · simp only [cellGet]
        rw [if_neg (by omega), if_neg (by omega)]
        exact ih

/-- Every other byte reads as before. -/
theorem cellGet_put_other {a x : Nat} {b : Byte} {l : List Host.Cell} (hx : x ≠ a) :
    cellGet x (cellPut a b l) = cellGet x l := by
  induction l with
  | nil =>
    simp only [cellPut]
    split
    · rfl
    · simp [cellGet, Ne.symm hx]
  | cons e l ih =>
    obtain ⟨i, c⟩ := e
    simp only [cellPut]
    split
    · split
      · rfl
      · simp only [cellGet]
        rw [if_neg (Ne.symm hx)]
        split
        · rw [if_neg (by omega), if_pos (by omega)]
        · rfl
    · split
      · subst a
        split
        · rw [cellGet_dropWhile]
          simp only [cellGet]
          rw [if_neg (Ne.symm hx)]
          split
          · rw [if_pos (by omega)]
          · rw [if_neg (by omega)]
        · simp [cellGet, Ne.symm hx]
      · simp only [cellGet]
        split
        · rfl
        · split
          · rfl
          · exact ih

/-! ### Several bytes -/

theorem cellPuts_wf {bs : List Byte} {a : Nat} {l : List Host.Cell} (h : cellsWf l = true) : cellsWf (cellPuts l a bs) = true := by
  induction bs generalizing a l with
  | nil => exact h
  | cons b bs ih => exact ih (cellPut_wf h)

theorem cellGet_puts_below {bs : List Byte} {a x : Nat} {l : List Host.Cell} (hx : x < a) :
    cellGet x (cellPuts l a bs) = cellGet x l := by
  induction bs generalizing a l with
  | nil => rfl
  | cons b bs ih =>
    simp only [cellPuts]
    rw [ih (by omega), cellGet_put_other (by omega)]

/-- What a store of bytes does to each byte of memory. -/
theorem cellGet_puts {bs : List Byte} {a x : Nat} {l : List Host.Cell} :
    cellGet x (cellPuts l a bs) = if a ≤ x ∧ x < a + bs.length then bs.getD (x - a) unwritten else cellGet x l := by
  induction bs generalizing a l with
  | nil =>
    rw [if_neg (by simp only [List.length_nil]; omega)]
    rfl
  | cons b bs ih =>
    simp only [cellPuts, List.length_cons]
    rcases Nat.lt_trichotomy x a with hx | rfl | hx
    · rw [if_neg (by omega), cellGet_puts_below (by omega), cellGet_put_other (by omega)]
    · rw [if_pos (by omega), cellGet_puts_below (by omega), cellGet_put_same, Nat.sub_self]
      rfl
    · rw [ih]
      by_cases hb : x < a + (bs.length + 1)
      · rw [if_pos (by omega), if_pos (by omega)]
        obtain ⟨k, rfl⟩ : ∃ k, x = a + 1 + k := ⟨x - (a + 1), by omega⟩
        simp [show a + 1 + k - a = k + 1 by omega, show a + 1 + k - (a + 1) = k by omega]
      · rw [if_neg (by omega), if_neg (by omega), cellGet_put_other (by omega)]

/-! ### The state's memories -/

theorem Mem_wf_iff {m : Mem} : m.wf = true ↔ cellsWf m.cells = true ∧ cellsWf m.remote = true ∧ cellsWf m.host = true := by
  simp [Mem.wf, and_assoc]

/-- Writing bytes where they are authoritative keeps the canonical form. -/
theorem putBytes_wf {t : MemType} {pa : Nat} {bs : List Byte} {s : State} (h : s.mem.wf = true) :
    (putBytes t pa bs s).mem.wf = true := by
  rw [Mem_wf_iff] at h ⊢
  cases t <;> simp [putBytes, cellPuts_wf, h]

theorem reset_mem_wf : State.reset.mem.wf = true := rfl

end Sys2Proof.Machine
end

