-- ==== Sys2Proof/Laws/PerInstr.lean ====
section
/-! SUPPORT. Statements about every instruction, made constructor by constructor: the words of an instruction are words of 32 bits. -/

namespace Sys2Proof

/-! ### Codes stay inside their fields -/

theorem bit_lt (b : Bool) : bit b < 2 := by cases b <;> decide
theorem Route.code_lt (x : Route) : x.code < 8 := by cases x <;> decide
theorem FpType.code_lt (x : FpType) : x.code < 3 := by cases x <;> decide
theorem Tapered.code_lt (x : Tapered) : x.code < 2 := by cases x <;> decide
theorem CondI.code_lt (x : CondI) : x.code < 7 := by cases x <;> decide
theorem CondF.code_lt (x : CondF) : x.code < 6 := by cases x <;> decide
theorem CondS.code_lt (x : CondS) : x.code < 6 := by cases x <;> decide
theorem RedOp.code_lt (x : RedOp) : x.code < 8 := by cases x <;> decide
theorem AtomOp.code_lt (x : AtomOp) : x.code < 8 := by cases x <;> decide
theorem BitOp.code_lt (x : BitOp) : x.code < 4 := by cases x <;> decide
theorem Size.code_lt (x : Size) : x.code < 4 := by cases x <;> decide
theorem Space.code_lt (x : Space) : x.code < 3 := by cases x <;> decide
theorem Scope.code_lt (x : Scope) : x.code < 7 := by cases x <;> decide
theorem Kinds.code_lt (k : Kinds) : k.code < 16 := by
  obtain ⟨e, a, s, l⟩ := k
  cases e <;> cases a <;> cases s <;> cases l <;> decide
theorem BarKind.code_lt (x : BarKind) : x.code < 4 := by cases x <;> decide
theorem BarLevel.code_lt (x : BarLevel) : x.code < 6 := by cases x <;> decide
theorem MqryWhat.code_lt (x : MqryWhat) : x.code < 5 := by cases x <;> decide
theorem TlbKind.code_lt (x : TlbKind) : x.code < 4 := by cases x <;> decide
theorem XsetMode.code_lt (x : XsetMode) : x.code < 3 := by cases x <;> decide
theorem TiePolicy.code_lt (x : TiePolicy) : x.code < 3 := by cases x <;> decide
theorem LaneReg.code_lt (x : LaneReg) : x.code < 5 := by cases x <;> decide
theorem SpecialReg.code_lt (x : SpecialReg) : x.code < 4096 := by
  cases x with
  | slotmap c => cases c <;> decide
  | pathcnt n => simp only [SpecialReg.code]; omega
  | _ => decide
theorem SatomOp.aop_lt (x : SatomOp) : x.aop < 8 := by
  cases x with
  | arith op => exact op.code_lt
  | bits op => exact Nat.lt_of_lt_of_le op.code_lt (by decide)
theorem SatomOp.family_lt (x : SatomOp) : x.family < 2 := by cases x <;> simp [SatomOp.family]
theorem LitOp.code_lt (x : LitOp) : x.code < 192 := by cases x <;> decide

namespace Laws.WordFits

/-- Every word of the instruction has 32 bits. -/
def Statement (i : Instr) : Prop := ∀ w ∈ encode i, w < 2 ^ 32

/-- The steps of the device that are no instruction words have none. -/
theorem none_of {i : Instr} (h : encode i = []) : Statement i := by
  intro w hw
  rw [h] at hw
  cases hw

/-- An instruction of one word. -/
theorem one_of {i : Instr} {n : Nat} (h : encode i = [n]) (hn : n < 2 ^ 32) : Statement i := by
  intro w hw
  rw [h, List.mem_singleton] at hw
  subst hw
  exact hn

theorem vadd (p : Bool) (d : Reg) (a : Reg) (b : Reg) (r : Route) : Statement (.vadd p d a b r) := by
  have := bit_lt p
  have := d.isLt
  have := a.isLt
  have := b.isLt
  have := r.code_lt
  exact one_of rfl (by simp only [encVR]; omega)
theorem vsub (p : Bool) (d : Reg) (a : Reg) (b : Reg) (r : Route) : Statement (.vsub p d a b r) := by
  have := bit_lt p
  have := d.isLt
  have := a.isLt
  have := b.isLt
  have := r.code_lt
  exact one_of rfl (by simp only [encVR]; omega)
theorem vadds (p : Bool) (d : Reg) (a : Reg) (b : Reg) (r : Route) : Statement (.vadds p d a b r) := by
  have := bit_lt p
  have := d.isLt
  have := a.isLt
  have := b.isLt
  have := r.code_lt
  exact one_of rfl (by simp only [encVR]; omega)
theorem vsubs (p : Bool) (d : Reg) (a : Reg) (b : Reg) (r : Route) : Statement (.vsubs p d a b r) := by
  have := bit_lt p
  have := d.isLt
  have := a.isLt
  have := b.isLt
  have := r.code_lt
  exact one_of rfl (by simp only [encVR]; omega)
theorem vaddsn (p : Bool) (d : Reg) (a : Reg) (b : Reg) (r : Route) : Statement (.vaddsn p d a b r) := by
  have := bit_lt p
  have := d.isLt
  have := a.isLt
  have := b.isLt
  have := r.code_lt
  exact one_of rfl (by simp only [encVR]; omega)
theorem vsubsn (p : Bool) (d : Reg) (a : Reg) (b : Reg) (r : Route) : Statement (.vsubsn p d a b r) := by
  have := bit_lt p
  have := d.isLt
  have := a.isLt
  have := b.isLt
  have := r.code_lt
  exact one_of rfl (by simp only [encVR]; omega)
theorem vabsd (p : Bool) (d : Reg) (a : Reg) (b : Reg) (r : Route) : Statement (.vabsd p d a b r) := by
  have := bit_lt p
  have := d.isLt
  have := a.isLt
  have := b.isLt
  have := r.code_lt
  exact one_of rfl (by simp only [encVR]; omega)
theorem vmul (p : Bool) (d : Reg) (a : Reg) (b : Reg) (r : Route) : Statement (.vmul p d a b r) := by
  have := bit_lt p
  have := d.isLt
  have := a.isLt
  have := b.isLt
  have := r.code_lt
  exact one_of rfl (by simp only [encVR]; omega)
theorem vmulh (p : Bool) (d : Reg) (a : Reg) (b : Reg) (r : Route) : Statement (.vmulh p d a b r) := by
  have := bit_lt p
  have := d.isLt
  have := a.isLt
  have := b.isLt
  have := r.code_lt
  exact one_of rfl (by simp only [encVR]; omega)
theorem vmulhn (p : Bool) (d : Reg) (a : Reg) (b : Reg) (r : Route) : Statement (.vmulhn p d a b r) := by
  have := bit_lt p
  have := d.isLt
  have := a.isLt
  have := b.isLt
  have := r.code_lt
  exact one_of rfl (by simp only [encVR]; omega)
theorem vmad (p : Bool) (d : Reg) (a : Reg) (b : Reg) (r : Route) : Statement (.vmad p d a b r) := by
  have := bit_lt p
  have := d.isLt
  have := a.isLt
  have := b.isLt
  have := r.code_lt
  exact one_of rfl (by simp only [encVR]; omega)
theorem vdot4 (p : Bool) (d : Reg) (a : Reg) (b : Reg) (r : Route) : Statement (.vdot4 p d a b r) := by
  have := bit_lt p
  have := d.isLt
  have := a.isLt
  have := b.isLt
  have := r.code_lt
  exact one_of rfl (by simp only [encVR]; omega)
theorem vdot4n (p : Bool) (d : Reg) (a : Reg) (b : Reg) (r : Route) : Statement (.vdot4n p d a b r) := by
  have := bit_lt p
  have := d.isLt
  have := a.isLt
  have := b.isLt
  have := r.code_lt
  exact one_of rfl (by simp only [encVR]; omega)
theorem vmin (p : Bool) (d : Reg) (a : Reg) (b : Reg) (r : Route) : Statement (.vmin p d a b r) := by
  have := bit_lt p
  have := d.isLt
  have := a.isLt
  have := b.isLt
  have := r.code_lt
  exact one_of rfl (by simp only [encVR]; omega)
theorem vmax (p : Bool) (d : Reg) (a : Reg) (b : Reg) (r : Route) : Statement (.vmax p d a b r) := by
  have := bit_lt p
  have := d.isLt
  have := a.isLt
  have := b.isLt
  have := r.code_lt
  exact one_of rfl (by simp only [encVR]; omega)
theorem vminn (p : Bool) (d : Reg) (a : Reg) (b : Reg) (r : Route) : Statement (.vminn p d a b r) := by
  have := bit_lt p
  have := d.isLt
  have := a.isLt
  have := b.isLt
  have := r.code_lt
  exact one_of rfl (by simp only [encVR]; omega)
theorem vmaxn (p : Bool) (d : Reg) (a : Reg) (b : Reg) (r : Route) : Statement (.vmaxn p d a b r) := by
  have := bit_lt p
  have := d.isLt
  have := a.isLt
  have := b.isLt
  have := r.code_lt
  exact one_of rfl (by simp only [encVR]; omega)
theorem vabs (p : Bool) (d : Reg) (b : Reg) (r : Route) : Statement (.vabs p d b r) := by
  have := bit_lt p
  have := d.isLt
  have := b.isLt
  have := r.code_lt
  exact one_of rfl (by simp only [encVR]; omega)
theorem vneg (p : Bool) (d : Reg) (b : Reg) (r : Route) : Statement (.vneg p d b r) := by
  have := bit_lt p
  have := d.isLt
  have := b.isLt
  have := r.code_lt
  exact one_of rfl (by simp only [encVR]; omega)
theorem vand (p : Bool) (d : Reg) (a : Reg) (b : Reg) (r : Route) : Statement (.vand p d a b r) := by
  have := bit_lt p
  have := d.isLt
  have := a.isLt
  have := b.isLt
  have := r.code_lt
  exact one_of rfl (by simp only [encVR]; omega)
theorem vor (p : Bool) (d : Reg) (a : Reg) (b : Reg) (r : Route) : Statement (.vor p d a b r) := by
  have := bit_lt p
  have := d.isLt
  have := a.isLt
  have := b.isLt
  have := r.code_lt
  exact one_of rfl (by simp only [encVR]; omega)
theorem vxor (p : Bool) (d : Reg) (a : Reg) (b : Reg) (r : Route) : Statement (.vxor p d a b r) := by
  have := bit_lt p
  have := d.isLt
  have := a.isLt
  have := b.isLt
  have := r.code_lt
  exact one_of rfl (by simp only [encVR]; omega)
theorem vandn (p : Bool) (d : Reg) (a : Reg) (b : Reg) (r : Route) : Statement (.vandn p d a b r) := by
  have := bit_lt p
  have := d.isLt
  have := a.isLt
  have := b.isLt
  have := r.code_lt
  exact one_of rfl (by simp only [encVR]; omega)
theorem vnot (p : Bool) (d : Reg) (b : Reg) (r : Route) : Statement (.vnot p d b r) := by
  have := bit_lt p
  have := d.isLt
  have := b.isLt
  have := r.code_lt
  exact one_of rfl (by simp only [encVR]; omega)
theorem vmov (p : Bool) (d : Reg) (b : Reg) (r : Route) : Statement (.vmov p d b r) := by
  have := bit_lt p
  have := d.isLt
  have := b.isLt
  have := r.code_lt
  exact one_of rfl (by simp only [encVR]; omega)
theorem vpopc (p : Bool) (d : Reg) (b : Reg) (r : Route) : Statement (.vpopc p d b r) := by
  have := bit_lt p
  have := d.isLt
  have := b.isLt
  have := r.code_lt
  exact one_of rfl (by simp only [encVR]; omega)
theorem vclz (p : Bool) (d : Reg) (b : Reg) (r : Route) : Statement (.vclz p d b r) := by
  have := bit_lt p
  have := d.isLt
  have := b.isLt
  have := r.code_lt
  exact one_of rfl (by simp only [encVR]; omega)
theorem vshl (p : Bool) (d : Reg) (a : Reg) (b : Reg) (r : Route) : Statement (.vshl p d a b r) := by
  have := bit_lt p
  have := d.isLt
  have := a.isLt
  have := b.isLt
  have := r.code_lt
  exact one_of rfl (by simp only [encVR]; omega)
theorem vshr (p : Bool) (d : Reg) (a : Reg) (b : Reg) (r : Route) : Statement (.vshr p d a b r) := by
  have := bit_lt p
  have := d.isLt
  have := a.isLt
  have := b.isLt
  have := r.code_lt
  exact one_of rfl (by simp only [encVR]; omega)
theorem vsra (p : Bool) (d : Reg) (a : Reg) (b : Reg) (r : Route) : Statement (.vsra p d a b r) := by
  have := bit_lt p
  have := d.isLt
  have := a.isLt
  have := b.isLt
  have := r.code_lt
  exact one_of rfl (by simp only [encVR]; omega)
theorem vrotl (p : Bool) (d : Reg) (a : Reg) (b : Reg) (r : Route) : Statement (.vrotl p d a b r) := by
  have := bit_lt p
  have := d.isLt
  have := a.isLt
  have := b.isLt
  have := r.code_lt
  exact one_of rfl (by simp only [encVR]; omega)
theorem vbrev (p : Bool) (d : Reg) (b : Reg) (r : Route) : Statement (.vbrev p d b r) := by
  have := bit_lt p
  have := d.isLt
  have := b.isLt
  have := r.code_lt
  exact one_of rfl (by simp only [encVR]; omega)
theorem vbcast (p : Bool) (d : Reg) (s : Reg) : Statement (.vbcast p d s) := by
  have := bit_lt p
  have := d.isLt
  have := s.isLt
  exact one_of rfl (by simp only [encVR]; omega)
theorem vsreg (p : Bool) (d : Reg) (n : LaneReg) : Statement (.vsreg p d n) := by
  have := bit_lt p
  have := d.isLt
  have := n.code_lt
  exact one_of rfl (by simp only [encVI]; omega)
theorem vaddi (p : Bool) (d : Reg) (a : Reg) (imm : BitVec 12) : Statement (.vaddi p d a imm) := by
  have := bit_lt p
  have := d.isLt
  have := a.isLt
  have := imm.isLt
  exact one_of rfl (by simp only [encVI]; omega)
theorem vandi (p : Bool) (d : Reg) (a : Reg) (imm : BitVec 12) : Statement (.vandi p d a imm) := by
  have := bit_lt p
  have := d.isLt
  have := a.isLt
  have := imm.isLt
  exact one_of rfl (by simp only [encVI]; omega)
theorem vori (p : Bool) (d : Reg) (a : Reg) (imm : BitVec 12) : Statement (.vori p d a imm) := by
  have := bit_lt p
  have := d.isLt
  have := a.isLt
  have := imm.isLt
  exact one_of rfl (by simp only [encVI]; omega)
theorem vxori (p : Bool) (d : Reg) (a : Reg) (imm : BitVec 12) : Statement (.vxori p d a imm) := by
  have := bit_lt p
  have := d.isLt
  have := a.isLt
  have := imm.isLt
  exact one_of rfl (by simp only [encVI]; omega)
theorem vshli (p : Bool) (d : Reg) (a : Reg) (n : Fin 32) : Statement (.vshli p d a n) := by
  have := bit_lt p
  have := d.isLt
  have := a.isLt
  have := n.isLt
  exact one_of rfl (by simp only [encVI]; omega)
theorem vshri (p : Bool) (d : Reg) (a : Reg) (n : Fin 32) : Statement (.vshri p d a n) := by
  have := bit_lt p
  have := d.isLt
  have := a.isLt
  have := n.isLt
  exact one_of rfl (by simp only [encVI]; omega)
theorem vsrai (p : Bool) (d : Reg) (a : Reg) (n : Fin 32) : Statement (.vsrai p d a n) := by
  have := bit_lt p
  have := d.isLt
  have := a.isLt
  have := n.isLt
  exact one_of rfl (by simp only [encVI]; omega)
theorem vli (p : Bool) (d : Reg) (imm : BitVec 12) : Statement (.vli p d imm) := by
  have := bit_lt p
  have := d.isLt
  have := imm.isLt
  exact one_of rfl (by simp only [encVI]; omega)
theorem vfadd (p : Bool) (ty : FpType) (d : Reg) (a : Reg) (b : Reg) (r : Route) : Statement (.vfadd p ty d a b r) := by
  have := bit_lt p
  have := ty.code_lt
  have := d.isLt
  have := a.isLt
  have := b.isLt
  have := r.code_lt
  exact one_of rfl (by simp only [encVR]; omega)
theorem vfsub (p : Bool) (ty : FpType) (d : Reg) (a : Reg) (b : Reg) (r : Route) : Statement (.vfsub p ty d a b r) := by
  have := bit_lt p
  have := ty.code_lt
  have := d.isLt
  have := a.isLt
  have := b.isLt
  have := r.code_lt
  exact one_of rfl (by simp only [encVR]; omega)
theorem vfmul (p : Bool) (ty : FpType) (d : Reg) (a : Reg) (b : Reg) (r : Route) : Statement (.vfmul p ty d a b r) := by
  have := bit_lt p
  have := ty.code_lt
  have := d.isLt
  have := a.isLt
  have := b.isLt
  have := r.code_lt
  exact one_of rfl (by simp only [encVR]; omega)
theorem vfma (p : Bool) (ty : FpType) (d : Reg) (a : Reg) (b : Reg) (r : Route) : Statement (.vfma p ty d a b r) := by
  have := bit_lt p
  have := ty.code_lt
  have := d.isLt
  have := a.isLt
  have := b.isLt
  have := r.code_lt
  exact one_of rfl (by simp only [encVR]; omega)
theorem vfnma (p : Bool) (ty : FpType) (d : Reg) (a : Reg) (b : Reg) (r : Route) : Statement (.vfnma p ty d a b r) := by
  have := bit_lt p
  have := ty.code_lt
  have := d.isLt
  have := a.isLt
  have := b.isLt
  have := r.code_lt
  exact one_of rfl (by simp only [encVR]; omega)
theorem vfms (p : Bool) (ty : FpType) (d : Reg) (a : Reg) (b : Reg) (r : Route) : Statement (.vfms p ty d a b r) := by
  have := bit_lt p
  have := ty.code_lt
  have := d.isLt
  have := a.isLt
  have := b.isLt
  have := r.code_lt
  exact one_of rfl (by simp only [encVR]; omega)
theorem vfnms (p : Bool) (ty : FpType) (d : Reg) (a : Reg) (b : Reg) (r : Route) : Statement (.vfnms p ty d a b r) := by
  have := bit_lt p
  have := ty.code_lt
  have := d.isLt
  have := a.isLt
  have := b.isLt
  have := r.code_lt
  exact one_of rfl (by simp only [encVR]; omega)
theorem vfmin (p : Bool) (ty : FpType) (d : Reg) (a : Reg) (b : Reg) (r : Route) : Statement (.vfmin p ty d a b r) := by
  have := bit_lt p
  have := ty.code_lt
  have := d.isLt
  have := a.isLt
  have := b.isLt
  have := r.code_lt
  exact one_of rfl (by simp only [encVR]; omega)
theorem vfmax (p : Bool) (ty : FpType) (d : Reg) (a : Reg) (b : Reg) (r : Route) : Statement (.vfmax p ty d a b r) := by
  have := bit_lt p
  have := ty.code_lt
  have := d.isLt
  have := a.isLt
  have := b.isLt
  have := r.code_lt
  exact one_of rfl (by simp only [encVR]; omega)
theorem vfabs (p : Bool) (d : Reg) (b : Reg) (r : Route) : Statement (.vfabs p d b r) := by
  have := bit_lt p
  have := d.isLt
  have := b.isLt
  have := r.code_lt
  exact one_of rfl (by simp only [encVR]; omega)
theorem vfneg (p : Bool) (d : Reg) (b : Reg) (r : Route) : Statement (.vfneg p d b r) := by
  have := bit_lt p
  have := d.isLt
  have := b.isLt
  have := r.code_lt
  exact one_of rfl (by simp only [encVR]; omega)
theorem vfclass (p : Bool) (d : Reg) (b : Reg) (r : Route) : Statement (.vfclass p d b r) := by
  have := bit_lt p
  have := d.isLt
  have := b.isLt
  have := r.code_lt
  exact one_of rfl (by simp only [encVR]; omega)
theorem vfrndn (p : Bool) (d : Reg) (b : Reg) (r : Route) : Statement (.vfrndn p d b r) := by
  have := bit_lt p
  have := d.isLt
  have := b.isLt
  have := r.code_lt
  exact one_of rfl (by simp only [encVR]; omega)
theorem vfrndz (p : Bool) (d : Reg) (b : Reg) (r : Route) : Statement (.vfrndz p d b r) := by
  have := bit_lt p
  have := d.isLt
  have := b.isLt
  have := r.code_lt
  exact one_of rfl (by simp only [encVR]; omega)
theorem vfrndd (p : Bool) (d : Reg) (b : Reg) (r : Route) : Statement (.vfrndd p d b r) := by
  have := bit_lt p
  have := d.isLt
  have := b.isLt
  have := r.code_lt
  exact one_of rfl (by simp only [encVR]; omega)
theorem vfrndu (p : Bool) (d : Reg) (b : Reg) (r : Route) : Statement (.vfrndu p d b r) := by
  have := bit_lt p
  have := d.isLt
  have := b.isLt
  have := r.code_lt
  exact one_of rfl (by simp only [encVR]; omega)
theorem vcvt (p : Bool) (f : CvtForm) (d : Reg) (a : Reg) : Statement (.vcvt p f d a) := by
  have := bit_lt p
  have := d.isLt
  have := a.isLt
  cases f with
  | f2i =>
    exact one_of rfl (by simp only [encVR]; omega)
  | f2iz =>
    exact one_of rfl (by simp only [encVR]; omega)
  | i2f =>
    exact one_of rfl (by simp only [encVR]; omega)
  | n2f =>
    exact one_of rfl (by simp only [encVR]; omega)
  | f2h b r =>
    have := b.isLt
    have := r.code_lt
    exact one_of rfl (by simp only [encVR]; omega)
  | h2f hi =>
    have := bit_lt hi
    exact one_of rfl (by simp only [encVR]; omega)
  | f2b b r =>
    have := b.isLt
    have := r.code_lt
    exact one_of rfl (by simp only [encVR]; omega)
  | b2f hi =>
    have := bit_lt hi
    exact one_of rfl (by simp only [encVR]; omega)
theorem vpkt (p : Bool) (f : Tapered) (byte : Fin 4) (d : Reg) (a : Reg) : Statement (.vpkt p f byte d a) := by
  have := bit_lt p
  have := f.code_lt
  have := byte.isLt
  have := d.isLt
  have := a.isLt
  exact one_of rfl (by simp only [encVR]; omega)
theorem vupkt (p : Bool) (f : Tapered) (byte : Fin 4) (d : Reg) (a : Reg) : Statement (.vupkt p f byte d a) := by
  have := bit_lt p
  have := f.code_lt
  have := byte.isLt
  have := d.isLt
  have := a.isLt
  exact one_of rfl (by simp only [encVR]; omega)
theorem vcvti (p : Bool) (f : CvtiForm) (d : Reg) (a : Reg) : Statement (.vcvti p f d a) := by
  have := bit_lt p
  have := d.isLt
  have := a.isLt
  cases f with
  | nb j =>
    have := j.isLt
    exact one_of rfl (by simp only [encVR]; omega)
  | nh hi =>
    have := bit_lt hi
    exact one_of rfl (by simp only [encVR]; omega)
  | sb j =>
    have := j.isLt
    exact one_of rfl (by simp only [encVR]; omega)
  | zb j =>
    have := j.isLt
    exact one_of rfl (by simp only [encVR]; omega)
  | sh hi =>
    have := bit_lt hi
    exact one_of rfl (by simp only [encVR]; omega)
  | zh hi =>
    have := bit_lt hi
    exact one_of rfl (by simp only [encVR]; omega)
theorem vcmpi (p : Bool) (c : CondI) (m : MReg) (a : Reg) (b : Reg) (r : Route) : Statement (.vcmpi p c m a b r) := by
  have := bit_lt p
  have := c.code_lt
  have := m.isLt
  have := a.isLt
  have := b.isLt
  have := r.code_lt
  exact one_of rfl (by simp only [encVK]; omega)
theorem vcmpf (p : Bool) (c : CondF) (m : MReg) (a : Reg) (b : Reg) (r : Route) : Statement (.vcmpf p c m a b r) := by
  have := bit_lt p
  have := c.code_lt
  have := m.isLt
  have := a.isLt
  have := b.isLt
  have := r.code_lt
  exact one_of rfl (by simp only [encVK]; omega)
theorem vsel (p : Bool) (d : Reg) (a : Reg) (b : Reg) (r : Route) (k : MReg) : Statement (.vsel p d a b r k) := by
  have := bit_lt p
  have := d.isLt
  have := a.isLt
  have := b.isLt
  have := r.code_lt
  have := k.isLt
  exact one_of rfl (by simp only [encVR]; omega)
theorem vrcp (p : Bool) (d : Reg) (b : Reg) (r : Route) : Statement (.vrcp p d b r) := by
  have := bit_lt p
  have := d.isLt
  have := b.isLt
  have := r.code_lt
  exact one_of rfl (by simp only [encVR]; omega)
theorem vrsq (p : Bool) (d : Reg) (b : Reg) (r : Route) : Statement (.vrsq p d b r) := by
  have := bit_lt p
  have := d.isLt
  have := b.isLt
  have := r.code_lt
  exact one_of rfl (by simp only [encVR]; omega)
theorem vsqrt (p : Bool) (d : Reg) (b : Reg) (r : Route) : Statement (.vsqrt p d b r) := by
  have := bit_lt p
  have := d.isLt
  have := b.isLt
  have := r.code_lt
  exact one_of rfl (by simp only [encVR]; omega)
theorem vexp2 (p : Bool) (d : Reg) (b : Reg) (r : Route) : Statement (.vexp2 p d b r) := by
  have := bit_lt p
  have := d.isLt
  have := b.isLt
  have := r.code_lt
  exact one_of rfl (by simp only [encVR]; omega)
theorem vlog2 (p : Bool) (d : Reg) (b : Reg) (r : Route) : Statement (.vlog2 p d b r) := by
  have := bit_lt p
  have := d.isLt
  have := b.isLt
  have := r.code_lt
  exact one_of rfl (by simp only [encVR]; omega)
theorem vsin (p : Bool) (d : Reg) (b : Reg) (r : Route) : Statement (.vsin p d b r) := by
  have := bit_lt p
  have := d.isLt
  have := b.isLt
  have := r.code_lt
  exact one_of rfl (by simp only [encVR]; omega)
theorem vcos (p : Bool) (d : Reg) (b : Reg) (r : Route) : Statement (.vcos p d b r) := by
  have := bit_lt p
  have := d.isLt
  have := b.isLt
  have := r.code_lt
  exact one_of rfl (by simp only [encVR]; omega)
theorem vtanh (p : Bool) (d : Reg) (b : Reg) (r : Route) : Statement (.vtanh p d b r) := by
  have := bit_lt p
  have := d.isLt
  have := b.isLt
  have := r.code_lt
  exact one_of rfl (by simp only [encVR]; omega)
theorem vrng (p : Bool) (f32 : Bool) (d : Reg) (stream : Fin 64) : Statement (.vrng p f32 d stream) := by
  have := bit_lt p
  have := bit_lt f32
  have := d.isLt
  have := stream.isLt
  exact one_of rfl (by simp only [encVR]; omega)
theorem vfdiv (p : Bool) (d : Reg) (a : Reg) (b : Reg) (r : Route) : Statement (.vfdiv p d a b r) := by
  have := bit_lt p
  have := d.isLt
  have := a.isLt
  have := b.isLt
  have := r.code_lt
  exact one_of rfl (by simp only [encVR]; omega)
theorem vcomp (p : Bool) (d : Reg) (a : Reg) (k : MReg) : Statement (.vcomp p d a k) := by
  have := bit_lt p
  have := d.isLt
  have := a.isLt
  have := k.isLt
  exact one_of rfl (by simp only [encVR]; omega)
theorem vexpd (p : Bool) (d : Reg) (a : Reg) (k : MReg) : Statement (.vexpd p d a k) := by
  have := bit_lt p
  have := d.isLt
  have := a.isLt
  have := k.isLt
  exact one_of rfl (by simp only [encVR]; omega)
theorem vslup (p : Bool) (d : Reg) (a : Reg) (s : Reg) : Statement (.vslup p d a s) := by
  have := bit_lt p
  have := d.isLt
  have := a.isLt
  have := s.isLt
  exact one_of rfl (by simp only [encVR]; omega)
theorem vsldn (p : Bool) (d : Reg) (a : Reg) (s : Reg) : Statement (.vsldn p d a s) := by
  have := bit_lt p
  have := d.isLt
  have := a.isLt
  have := s.isLt
  exact one_of rfl (by simp only [encVR]; omega)
theorem vperm (p : Bool) (d : Reg) (a : Reg) (b : Reg) (r : Route) : Statement (.vperm p d a b r) := by
  have := bit_lt p
  have := d.isLt
  have := a.isLt
  have := b.isLt
  have := r.code_lt
  exact one_of rfl (by simp only [encVR]; omega)
theorem vscan (p : Bool) (op : RedOp) (d : Reg) (a : Reg) : Statement (.vscan p op d a) := by
  have := bit_lt p
  have := op.code_lt
  have := d.isLt
  have := a.isLt
  exact one_of rfl (by simp only [encVR]; omega)
theorem vmovx (p : Bool) (d : Reg) (k : Fin 4) (imm : BitVec 12) : Statement (.vmovx p d k imm) := by
  have := bit_lt p
  have := d.isLt
  have := k.isLt
  have := imm.isLt
  exact one_of rfl (by simp only [encVI]; omega)
theorem vmovxw (p : Bool) (d : Reg) (k : Fin 4) (imm : BitVec 12) : Statement (.vmovxw p d k imm) := by
  have := bit_lt p
  have := d.isLt
  have := k.isLt
  have := imm.isLt
  exact one_of rfl (by simp only [encVI]; omega)
theorem vld (p : Bool) (t : Reg) (sb : Reg) (vo : Reg) (sz : Size) (sp : Space) (nt : Bool) : Statement (.vld p t sb vo sz sp nt) := by
  have := bit_lt p
  have := t.isLt
  have := sb.isLt
  have := vo.isLt
  have := sz.code_lt
  have := sp.code_lt
  have := bit_lt nt
  have := bit_lt false
  exact one_of rfl (by simp only [encVM]; omega)
theorem vst (p : Bool) (t : Reg) (sb : Reg) (vo : Reg) (sz : Size) (sp : Space) (of : Bool) (nt : Bool) : Statement (.vst p t sb vo sz sp of nt) := by
  have := bit_lt p
  have := t.isLt
  have := sb.isLt
  have := vo.isLt
  have := sz.code_lt
  have := sp.code_lt
  have := bit_lt of
  have := bit_lt nt
  have := bit_lt false
  exact one_of rfl (by simp only [encVM]; omega)
theorem xst (p : Bool) (t : Reg) (sb : Reg) (vo : Reg) (sz : Size) : Statement (.xst p t sb vo sz) := by
  have := bit_lt p
  have := t.isLt
  have := sb.isLt
  have := vo.isLt
  have := sz.code_lt
  have := bit_lt false
  exact one_of rfl (by simp only [encVM]; omega)
theorem vatom (p : Bool) (op : AtomOp) (sc : Scope) (d : Reg) (sb : Reg) (vo : Reg) : Statement (.vatom p op sc d sb vo) := by
  have := bit_lt p
  have := op.code_lt
  have := sc.code_lt
  have := d.isLt
  have := sb.isLt
  have := vo.isLt
  exact one_of rfl (by simp only [encVR]; omega)
theorem vatomb (p : Bool) (op : BitOp) (sc : Scope) (d : Reg) (sb : Reg) (vo : Reg) : Statement (.vatomb p op sc d sb vo) := by
  have := bit_lt p
  have := op.code_lt
  have := sc.code_lt
  have := d.isLt
  have := sb.isLt
  have := vo.isLt
  exact one_of rfl (by simp only [encVR]; omega)
theorem vagg (p : Bool) (op : AtomOp) (sc : Scope) (d : Reg) (sb : Reg) (vo : Reg) : Statement (.vagg p op sc d sb vo) := by
  have := bit_lt p
  have := op.code_lt
  have := sc.code_lt
  have := d.isLt
  have := sb.isLt
  have := vo.isLt
  exact one_of rfl (by simp only [encVR]; omega)
theorem vcas (p : Bool) (sc : Scope) (d : Reg) (sb : Reg) (vo : Reg) : Statement (.vcas p sc d sb vo) := by
  have := bit_lt p
  have := sc.code_lt
  have := d.isLt
  have := sb.isLt
  have := vo.isLt
  exact one_of rfl (by simp only [encVR]; omega)
theorem sadd (p : Bool) (d : Reg) (a : Reg) (b : Reg) : Statement (.sadd p d a b) := by
  have := bit_lt p
  have := d.isLt
  have := a.isLt
  have := b.isLt
  exact one_of rfl (by simp only [encUR]; omega)
theorem ssub (p : Bool) (d : Reg) (a : Reg) (b : Reg) : Statement (.ssub p d a b) := by
  have := bit_lt p
  have := d.isLt
  have := a.isLt
  have := b.isLt
  exact one_of rfl (by simp only [encUR]; omega)
theorem smul (p : Bool) (d : Reg) (a : Reg) (b : Reg) : Statement (.smul p d a b) := by
  have := bit_lt p
  have := d.isLt
  have := a.isLt
  have := b.isLt
  exact one_of rfl (by simp only [encUR]; omega)
theorem smulh (p : Bool) (d : Reg) (a : Reg) (b : Reg) : Statement (.smulh p d a b) := by
  have := bit_lt p
  have := d.isLt
  have := a.isLt
  have := b.isLt
  exact one_of rfl (by simp only [encUR]; omega)
theorem smulhn (p : Bool) (d : Reg) (a : Reg) (b : Reg) : Statement (.smulhn p d a b) := by
  have := bit_lt p
  have := d.isLt
  have := a.isLt
  have := b.isLt
  exact one_of rfl (by simp only [encUR]; omega)
theorem sand (p : Bool) (d : Reg) (a : Reg) (b : Reg) : Statement (.sand p d a b) := by
  have := bit_lt p
  have := d.isLt
  have := a.isLt
  have := b.isLt
  exact one_of rfl (by simp only [encUR]; omega)
theorem sor (p : Bool) (d : Reg) (a : Reg) (b : Reg) : Statement (.sor p d a b) := by
  have := bit_lt p
  have := d.isLt
  have := a.isLt
  have := b.isLt
  exact one_of rfl (by simp only [encUR]; omega)
theorem sxor (p : Bool) (d : Reg) (a : Reg) (b : Reg) : Statement (.sxor p d a b) := by
  have := bit_lt p
  have := d.isLt
  have := a.isLt
  have := b.isLt
  exact one_of rfl (by simp only [encUR]; omega)
theorem sshl (p : Bool) (d : Reg) (a : Reg) (b : Reg) : Statement (.sshl p d a b) := by
  have := bit_lt p
  have := d.isLt
  have := a.isLt
  have := b.isLt
  exact one_of rfl (by simp only [encUR]; omega)
theorem sshr (p : Bool) (d : Reg) (a : Reg) (b : Reg) : Statement (.sshr p d a b) := by
  have := bit_lt p
  have := d.isLt
  have := a.isLt
  have := b.isLt
  exact one_of rfl (by simp only [encUR]; omega)
theorem ssra (p : Bool) (d : Reg) (a : Reg) (b : Reg) : Statement (.ssra p d a b) := by
  have := bit_lt p
  have := d.isLt
  have := a.isLt
  have := b.isLt
  exact one_of rfl (by simp only [encUR]; omega)
theorem smin (p : Bool) (d : Reg) (a : Reg) (b : Reg) : Statement (.smin p d a b) := by
  have := bit_lt p
  have := d.isLt
  have := a.isLt
  have := b.isLt
  exact one_of rfl (by simp only [encUR]; omega)
theorem smax (p : Bool) (d : Reg) (a : Reg) (b : Reg) : Statement (.smax p d a b) := by
  have := bit_lt p
  have := d.isLt
  have := a.isLt
  have := b.isLt
  exact one_of rfl (by simp only [encUR]; omega)
theorem sminn (p : Bool) (d : Reg) (a : Reg) (b : Reg) : Statement (.sminn p d a b) := by
  have := bit_lt p
  have := d.isLt
  have := a.isLt
  have := b.isLt
  exact one_of rfl (by simp only [encUR]; omega)
theorem smaxn (p : Bool) (d : Reg) (a : Reg) (b : Reg) : Statement (.smaxn p d a b) := by
  have := bit_lt p
  have := d.isLt
  have := a.isLt
  have := b.isLt
  exact one_of rfl (by simp only [encUR]; omega)
theorem sclz (p : Bool) (d : Reg) (a : Reg) : Statement (.sclz p d a) := by
  have := bit_lt p
  have := d.isLt
  have := a.isLt
  exact one_of rfl (by simp only [encUR]; omega)
theorem spopc (p : Bool) (d : Reg) (a : Reg) : Statement (.spopc p d a) := by
  have := bit_lt p
  have := d.isLt
  have := a.isLt
  exact one_of rfl (by simp only [encUR]; omega)
theorem srotl (p : Bool) (d : Reg) (a : Reg) (b : Reg) : Statement (.srotl p d a b) := by
  have := bit_lt p
  have := d.isLt
  have := a.isLt
  have := b.isLt
  exact one_of rfl (by simp only [encUR]; omega)
theorem sset (p : Bool) (c : CondS) (d : Reg) (a : Reg) (b : Reg) : Statement (.sset p c d a b) := by
  have := bit_lt p
  have := c.code_lt
  have := d.isLt
  have := a.isLt
  have := b.isLt
  exact one_of rfl (by simp only [encUR]; omega)
theorem saddi (p : Bool) (d : Reg) (a : Reg) (imm : BitVec 12) : Statement (.saddi p d a imm) := by
  have := bit_lt p
  have := d.isLt
  have := a.isLt
  have := imm.isLt
  exact one_of rfl (by simp only [encUI]; omega)
theorem sandi (p : Bool) (d : Reg) (a : Reg) (imm : BitVec 12) : Statement (.sandi p d a imm) := by
  have := bit_lt p
  have := d.isLt
  have := a.isLt
  have := imm.isLt
  exact one_of rfl (by simp only [encUI]; omega)
theorem sori (p : Bool) (d : Reg) (a : Reg) (imm : BitVec 12) : Statement (.sori p d a imm) := by
  have := bit_lt p
  have := d.isLt
  have := a.isLt
  have := imm.isLt
  exact one_of rfl (by simp only [encUI]; omega)
theorem sxori (p : Bool) (d : Reg) (a : Reg) (imm : BitVec 12) : Statement (.sxori p d a imm) := by
  have := bit_lt p
  have := d.isLt
  have := a.isLt
  have := imm.isLt
  exact one_of rfl (by simp only [encUI]; omega)
theorem sshli (p : Bool) (d : Reg) (a : Reg) (n : Fin 32) : Statement (.sshli p d a n) := by
  have := bit_lt p
  have := d.isLt
  have := a.isLt
  have := n.isLt
  exact one_of rfl (by simp only [encUI]; omega)
theorem sshri (p : Bool) (d : Reg) (a : Reg) (n : Fin 32) : Statement (.sshri p d a n) := by
  have := bit_lt p
  have := d.isLt
  have := a.isLt
  have := n.isLt
  exact one_of rfl (by simp only [encUI]; omega)
theorem ssrai (p : Bool) (d : Reg) (a : Reg) (n : Fin 32) : Statement (.ssrai p d a n) := by
  have := bit_lt p
  have := d.isLt
  have := a.isLt
  have := n.isLt
  exact one_of rfl (by simp only [encUI]; omega)
/-- The consumer of a LIT. -/
theorem consumer_lt {k b d a : Nat} (hk : k < 192) (hb : b < 2) (hd : d < 64) (ha : a < 64) :
    k / 128 * 2 ^ 31 + b * 2 ^ 30 + k % 128 * 2 ^ 24 + d * 2 ^ 18 + a * 2 ^ 12 < 2 ^ 32 := by omega
theorem lit (p : Bool) (op : LitOp) (d : Reg) (a : Reg) (imm : BitVec 32) : Statement (.lit p op d a imm) := by
  intro w hw
  rcases List.mem_cons.1 hw with rfl | hw
  · decide
  · rcases List.mem_cons.1 hw with rfl | hw
    · exact imm.isLt
    · rw [List.mem_singleton.1 hw]
      exact consumer_lt op.code_lt (bit_lt p) d.isLt a.isLt
theorem slil (p : Bool) (d : Reg) (imm : BitVec 16) : Statement (.slil p d imm) := by
  have := bit_lt p
  have := d.isLt
  have := imm.isLt
  exact one_of rfl (by simp only [encUB]; omega)
theorem slih (p : Bool) (d : Reg) (imm : BitVec 16) : Statement (.slih p d imm) := by
  have := bit_lt p
  have := d.isLt
  have := imm.isLt
  exact one_of rfl (by simp only [encUB]; omega)
theorem ssel (p : Bool) (d : Reg) (a : Reg) (b : Reg) (c : Reg) : Statement (.ssel p d a b c) := by
  have := bit_lt p
  have := d.isLt
  have := a.isLt
  have := b.isLt
  have := c.isLt
  exact one_of rfl (by simp only [encUR]; omega)
theorem srd (p : Bool) (d : Reg) (n : SpecialReg) : Statement (.srd p d n) := by
  have := bit_lt p
  have := d.isLt
  have := n.code_lt
  exact one_of rfl (by simp only [encUI]; omega)
theorem swr (p : Bool) (n : SpecialReg) (a : Reg) : Statement (.swr p n a) := by
  have := bit_lt p
  have := n.code_lt
  have := a.isLt
  exact one_of rfl (by simp only [encUI]; omega)
theorem mrdl (p : Bool) (d : Reg) (a : MReg) : Statement (.mrdl p d a) := by
  have := bit_lt p
  have := d.isLt
  have := a.isLt
  exact one_of rfl (by simp only [encUR]; omega)
theorem mrdh (p : Bool) (d : Reg) (a : MReg) : Statement (.mrdh p d a) := by
  have := bit_lt p
  have := d.isLt
  have := a.isLt
  exact one_of rfl (by simp only [encUR]; omega)
theorem mwr (p : Bool) (d : MReg) (a : Reg) (b : Reg) : Statement (.mwr p d a b) := by
  have := bit_lt p
  have := d.isLt
  have := a.isLt
  have := b.isLt
  exact one_of rfl (by simp only [encUR]; omega)
theorem mpop (p : Bool) (d : Reg) (a : MReg) : Statement (.mpop p d a) := by
  have := bit_lt p
  have := d.isLt
  have := a.isLt
  exact one_of rfl (by simp only [encUR]; omega)
theorem mffs (p : Bool) (d : Reg) (a : MReg) : Statement (.mffs p d a) := by
  have := bit_lt p
  have := d.isLt
  have := a.isLt
  exact one_of rfl (by simp only [encUR]; omega)
theorem mand (p : Bool) (d : MReg) (a : MReg) (b : MReg) : Statement (.mand p d a b) := by
  have := bit_lt p
  have := d.isLt
  have := a.isLt
  have := b.isLt
  exact one_of rfl (by simp only [encUR]; omega)
theorem mor (p : Bool) (d : MReg) (a : MReg) (b : MReg) : Statement (.mor p d a b) := by
  have := bit_lt p
  have := d.isLt
  have := a.isLt
  have := b.isLt
  exact one_of rfl (by simp only [encUR]; omega)
theorem mxor (p : Bool) (d : MReg) (a : MReg) (b : MReg) : Statement (.mxor p d a b) := by
  have := bit_lt p
  have := d.isLt
  have := a.isLt
  have := b.isLt
  exact one_of rfl (by simp only [encUR]; omega)
theorem mnot (p : Bool) (d : MReg) (a : MReg) : Statement (.mnot p d a) := by
  have := bit_lt p
  have := d.isLt
  have := a.isLt
  exact one_of rfl (by simp only [encUR]; omega)
theorem vany (p : Bool) (d : Reg) (a : MReg) : Statement (.vany p d a) := by
  have := bit_lt p
  have := d.isLt
  have := a.isLt
  exact one_of rfl (by simp only [encUR]; omega)
theorem vall (p : Bool) (d : Reg) (a : MReg) : Statement (.vall p d a) := by
  have := bit_lt p
  have := d.isLt
  have := a.isLt
  exact one_of rfl (by simp only [encUR]; omega)
theorem br (p : Bool) (s : Reg) (off : BitVec 18) : Statement (.br p s off) := by
  have := bit_lt p
  have := s.isLt
  have := off.isLt
  exact one_of rfl (by simp only [encUB]; omega)
theorem brz (p : Bool) (s : Reg) (off : BitVec 18) : Statement (.brz p s off) := by
  have := bit_lt p
  have := s.isLt
  have := off.isLt
  exact one_of rfl (by simp only [encUB]; omega)
theorem jmp (p : Bool) (off : BitVec 18) : Statement (.jmp p off) := by
  have := bit_lt p
  have := off.isLt
  exact one_of rfl (by simp only [encUB]; omega)
theorem jmpf (p : Bool) (s : Reg) (slot : Fin 16) (w8 : Fin 256) : Statement (.jmpf p s slot w8) := by
  have := bit_lt p
  have := s.isLt
  have := slot.isLt
  have := w8.isLt
  exact one_of rfl (by simp only [encUI]; omega)
theorem call (p : Bool) (s : Reg) (off : BitVec 18) : Statement (.call p s off) := by
  have := bit_lt p
  have := s.isLt
  have := off.isLt
  exact one_of rfl (by simp only [encUB]; omega)
theorem ret (p : Bool) (s : Reg) : Statement (.ret p s) := by
  have := bit_lt p
  have := s.isLt
  exact one_of rfl (by simp only [encUI]; omega)
theorem vbr (p : Bool) (k : MReg) (off : BitVec 18) : Statement (.vbr p k off) := by
  have := bit_lt p
  have := k.isLt
  have := off.isLt
  exact one_of rfl (by simp only [encUB]; omega)
theorem exit (p : Bool) : Statement (.exit p) := by
  have := bit_lt p
  exact one_of rfl (by simp only [encUI]; omega)
theorem yield (p : Bool) : Statement (.yield p) := by
  have := bit_lt p
  exact one_of rfl (by simp only [encUI]; omega)
theorem nop (p : Bool) : Statement (.nop p) := by
  have := bit_lt p
  exact one_of rfl (by simp only [encUI]; omega)
theorem cfetch (p : Bool) (a : Reg) (b : Reg) (slot : Fin 16) : Statement (.cfetch p a b slot) := by
  have := bit_lt p
  have := a.isLt
  have := b.isLt
  have := slot.isLt
  exact one_of rfl (by simp only [encUI]; omega)
theorem cfwait (p : Bool) (slot : Fin 16) : Statement (.cfwait p slot) := by
  have := bit_lt p
  have := slot.isLt
  exact one_of rfl (by simp only [encUI]; omega)
theorem trap (p : Bool) (code : BitVec 8) : Statement (.trap p code) := by
  have := bit_lt p
  have := code.isLt
  exact one_of rfl (by simp only [encUI]; omega)
theorem rte (p : Bool) : Statement (.rte p) := by
  have := bit_lt p
  exact one_of rfl (by simp only [encUI]; omega)
theorem bkpt (p : Bool) (code : BitVec 8) : Statement (.bkpt p code) := by
  have := bit_lt p
  have := code.isLt
  exact one_of rfl (by simp only [encUI]; omega)
theorem framew (p : Bool) (until_ : Bool) (s : Reg) : Statement (.framew p until_ s) := by
  have := bit_lt p
  have := bit_lt until_
  have := s.isLt
  exact one_of rfl (by simp only [encUI]; omega)
theorem sld (p : Bool) (d : Reg) (sb : Reg) (sz : Size) (sp : Space) (off : BitVec 6) : Statement (.sld p d sb sz sp off) := by
  have := bit_lt p
  have := d.isLt
  have := sb.isLt
  have := sz.code_lt
  have := sp.code_lt
  have := off.isLt
  have := bit_lt false
  exact one_of rfl (by simp only [encUM]; omega)
theorem sst (p : Bool) (d : Reg) (sb : Reg) (sz : Size) (sp : Space) (of : Bool) (off : BitVec 6) : Statement (.sst p d sb sz sp of off) := by
  have := bit_lt p
  have := d.isLt
  have := sb.isLt
  have := sz.code_lt
  have := sp.code_lt
  have := bit_lt of
  have := off.isLt
  have := bit_lt false
  exact one_of rfl (by simp only [encUM]; omega)
theorem satom (p : Bool) (op : SatomOp) (sc : Scope) (d : Reg) (sb : Reg) : Statement (.satom p op sc d sb) := by
  have := bit_lt p
  have := op.aop_lt
  have := op.family_lt
  have := sc.code_lt
  have := d.isLt
  have := sb.isLt
  exact one_of rfl (by simp only [encUA]; omega)
theorem fence (p : Bool) (sc : Scope) (k : Kinds) : Statement (.fence p sc k) := by
  have := bit_lt p
  have := sc.code_lt
  have := k.code_lt
  exact one_of rfl (by simp only [encFence, encUI]; omega)
theorem fencea (p : Bool) (sc : Scope) (k : Kinds) : Statement (.fencea p sc k) := by
  have := bit_lt p
  have := sc.code_lt
  have := k.code_lt
  exact one_of rfl (by simp only [encFence, encUI]; omega)
theorem bar (p : Bool) (kind : BarKind) (lvl : BarLevel) (n : Fin 16) : Statement (.bar p kind lvl n) := by
  have := bit_lt p
  have := kind.code_lt
  have := lvl.code_lt
  have := n.isLt
  exact one_of rfl (by simp only [encUI]; omega)
theorem nred (p : Bool) (op : RedOp) (d : Reg) (a : Reg) (b : Reg) : Statement (.nred p op d a b) := by
  have := bit_lt p
  have := op.code_lt
  have := d.isLt
  have := a.isLt
  have := b.isLt
  exact one_of rfl (by simp only [encUR]; omega)
theorem vred (p : Bool) (op : RedOp) (d : Reg) (a : Reg) : Statement (.vred p op d a) := by
  have := bit_lt p
  have := op.code_lt
  have := d.isLt
  have := a.isLt
  exact one_of rfl (by simp only [encUR]; omega)
theorem claim (p : Bool) (d : Reg) (a : Reg) (b : Reg) : Statement (.claim p d a b) := by
  have := bit_lt p
  have := d.isLt
  have := a.isLt
  have := b.isLt
  exact one_of rfl (by simp only [encUR]; omega)
theorem object (p : Bool) (a : Reg) : Statement (.object p a) := by
  have := bit_lt p
  have := a.isLt
  exact one_of rfl (by simp only [encUI]; omega)
theorem clwait (p : Bool) (d : Reg) (a : Reg) : Statement (.clwait p d a) := by
  have := bit_lt p
  have := d.isLt
  have := a.isLt
  exact one_of rfl (by simp only [encUI]; omega)
theorem clrd (p : Bool) (d : Reg) (b : Reg) : Statement (.clrd p d b) := by
  have := bit_lt p
  have := d.isLt
  have := b.isLt
  exact one_of rfl (by simp only [encUI]; omega)
theorem tset (p : Bool) (a : Reg) (tid : Fin 256) : Statement (.tset p a tid) := by
  have := bit_lt p
  have := a.isLt
  have := tid.isLt
  exact one_of rfl (by simp only [encUI]; omega)
theorem mldb (p : Bool) (a : Reg) (m : Fin 4) (tid : Fin 256) : Statement (.mldb p a m tid) := by
  have := bit_lt p
  have := a.isLt
  have := m.isLt
  have := tid.isLt
  exact one_of rfl (by simp only [encUI]; omega)
theorem mma (p : Bool) (a : Reg) : Statement (.mma p a) := by
  have := bit_lt p
  have := a.isLt
  exact one_of rfl (by simp only [encUI]; omega)
theorem mqry (p : Bool) (clr : Bool) (d : Reg) (what : MqryWhat) : Statement (.mqry p clr d what) := by
  have := bit_lt p
  have := bit_lt clr
  have := d.isLt
  have := what.code_lt
  exact one_of rfl (by simp only [encUI]; omega)
theorem cpy (p : Bool) (a : Reg) (sc : Scope) (rel : Bool) (acq : Bool) : Statement (.cpy p a sc rel acq) := by
  have := bit_lt p
  have := a.isLt
  have := sc.code_lt
  have := bit_lt rel
  have := bit_lt acq
  exact one_of rfl (by simp only [encUI]; omega)
theorem cwait (p : Bool) (a : Reg) (b : Reg) : Statement (.cwait p a b) := by
  have := bit_lt p
  have := a.isLt
  have := b.isLt
  exact one_of rfl (by simp only [encUI]; omega)
theorem lnch (p : Bool) (a : Reg) (b : Reg) (aqi : Fin 64) : Statement (.lnch p a b aqi) := by
  have := bit_lt p
  have := a.isLt
  have := b.isLt
  have := aqi.isLt
  exact one_of rfl (by simp only [encUI]; omega)
theorem release (p : Bool) (a : Reg) (b : Reg) (pol : Fin 64) (len : Reg) : Statement (.release p a b pol len) := by
  have := bit_lt p
  have := a.isLt
  have := b.isLt
  have := pol.isLt
  have := len.isLt
  exact one_of rfl (by simp only [encUI]; omega)
theorem lblrd (p : Bool) (d : Reg) (x : LblReg) : Statement (.lblrd p d x) := by
  have := bit_lt p
  have := d.isLt
  cases x with
  | s r =>
    have := r.isLt
    exact one_of rfl (by simp only [encUR]; omega)
  | v r =>
    have := r.isLt
    exact one_of rfl (by simp only [encUR]; omega)
  | m r =>
    have := r.isLt
    exact one_of rfl (by simp only [encUR]; omega)
  | h r =>
    have := r.isLt
    exact one_of rfl (by simp only [encUR]; omega)
  | a r =>
    have := r.isLt
    exact one_of rfl (by simp only [encUR]; omega)
theorem probe (p : Bool) (pa : Bool) (a : Reg) (b : Reg) : Statement (.probe p pa a b) := by
  have := bit_lt p
  have := bit_lt pa
  have := a.isLt
  have := b.isLt
  exact one_of rfl (by simp only [encUI]; omega)
theorem tlbinv (p : Bool) (k : TlbKind) (a : Reg) (b : Reg) : Statement (.tlbinv p k a b) := by
  have := bit_lt p
  have := k.code_lt
  have := a.isLt
  have := b.isLt
  exact one_of rfl (by simp only [encUI]; omega)
theorem xset (p : Bool) (mode : XsetMode) (k : Fin 4) (a : Reg) (b : Reg) : Statement (.xset p mode k a b) := by
  have := bit_lt p
  have := mode.code_lt
  have := k.isLt
  have := a.isLt
  have := b.isLt
  exact one_of rfl (by simp only [encUI]; omega)
theorem vlane (p : Bool) (d : Reg) (a : Reg) (b : Reg) : Statement (.vlane p d a b) := by
  have := bit_lt p
  have := d.isLt
  have := a.isLt
  have := b.isLt
  exact one_of rfl (by simp only [encUR]; omega)
theorem rngkey (p : Bool) (a : Reg) : Statement (.rngkey p a) := by
  have := bit_lt p
  have := a.isLt
  exact one_of rfl (by simp only [encUI]; omega)
theorem hld (p : Bool) (h : Fin 16) (s : Reg) : Statement (.hld p h s) := by
  have := bit_lt p
  have := h.isLt
  have := s.isLt
  exact one_of rfl (by simp only [encUH]; omega)
theorem hst (p : Bool) (h : Fin 16) (s : Reg) : Statement (.hst p h s) := by
  have := bit_lt p
  have := h.isLt
  have := s.isLt
  exact one_of rfl (by simp only [encUH]; omega)
theorem hbind (p : Bool) (d : Fin 16) (a : Fin 16) (b : Fin 16) : Statement (.hbind p d a b) := by
  have := bit_lt p
  have := d.isLt
  have := a.isLt
  have := b.isLt
  exact one_of rfl (by simp only [encUH]; omega)
theorem hperm (p : Bool) (d : Fin 16) (a : Fin 16) (s : Reg) : Statement (.hperm p d a s) := by
  have := bit_lt p
  have := d.isLt
  have := a.isLt
  have := s.isLt
  exact one_of rfl (by simp only [encUH]; omega)
theorem hcopy (p : Bool) (d : Fin 16) (a : Fin 16) : Statement (.hcopy p d a) := by
  have := bit_lt p
  have := d.isLt
  have := a.isLt
  exact one_of rfl (by simp only [encUH]; omega)
theorem hbund (p : Bool) (k : Fin 4) (a : Fin 16) : Statement (.hbund p k a) := by
  have := bit_lt p
  have := k.isLt
  have := a.isLt
  exact one_of rfl (by simp only [encUH]; omega)
theorem hclr (p : Bool) (k : Fin 4) : Statement (.hclr p k) := by
  have := bit_lt p
  have := k.isLt
  exact one_of rfl (by simp only [encUH]; omega)
theorem hthr (p : Bool) (k : Fin 4) (h : Fin 16) (s : Reg) : Statement (.hthr p k h s) := by
  have := bit_lt p
  have := k.isLt
  have := h.isLt
  have := s.isLt
  exact one_of rfl (by simp only [encUH]; omega)
theorem htie (p : Bool) (k : Fin 4) (pol : TiePolicy) (b : Fin 16) : Statement (.htie p k pol b) := by
  have := bit_lt p
  have := k.isLt
  have := pol.code_lt
  have := b.isLt
  exact one_of rfl (by simp only [encUH]; omega)
theorem hsim (p : Bool) (a : Fin 16) (b : Fin 16) (s : Reg) : Statement (.hsim p a b s) := by
  have := bit_lt p
  have := a.isLt
  have := b.isLt
  have := s.isLt
  exact one_of rfl (by simp only [encUH]; omega)
theorem hnear (p : Bool) (a : Fin 16) (s : Reg) : Statement (.hnear p a s) := by
  have := bit_lt p
  have := a.isLt
  have := s.isLt
  exact one_of rfl (by simp only [encUH]; omega)
theorem hwr (p : Bool) (a : Fin 16) (s : Reg) : Statement (.hwr p a s) := by
  have := bit_lt p
  have := a.isLt
  have := s.isLt
  exact one_of rfl (by simp only [encUH]; omega)
theorem hrd (p : Bool) (d : Fin 16) (s : Reg) : Statement (.hrd p d s) := by
  have := bit_lt p
  have := d.isLt
  have := s.isLt
  exact one_of rfl (by simp only [encUH]; omega)
theorem slotStart (cls : RotaClass) (inst : RotaInst) : Statement (.slotStart cls inst) := none_of rfl
theorem paddedServiceComplete (req : Nat) : Statement (.paddedServiceComplete req) := none_of rfl
theorem resultReturn (w : WaveRef) (entry : Nat) : Statement (.resultReturn w entry) := none_of rfl
theorem switchEnd (o : Fin 8) : Statement (.switchEnd o) := none_of rfl
theorem splitWritebackDone (core : Nat) : Statement (.splitWritebackDone core) := none_of rfl
theorem storeWriteThrough (store : Nat) : Statement (.storeWriteThrough store) := none_of rfl
theorem writeThroughAck (store : Nat) : Statement (.writeThroughAck store) := none_of rfl
theorem timestampReset (o : Fin 8) : Statement (.timestampReset o) := none_of rfl
theorem detLogApply (kernel : Nat) : Statement (.detLogApply kernel) := none_of rfl
theorem remoteStoreAck (store : Nat) : Statement (.remoteStoreAck store) := none_of rfl
theorem homeStoreApply (store : Nat) : Statement (.homeStoreApply store) := none_of rfl
theorem pageWalkComplete (walk : Nat) : Statement (.pageWalkComplete walk) := none_of rfl
theorem releaseComplete (rel : Nat) : Statement (.releaseComplete rel) := none_of rfl
theorem groupSave (gid : Nat) : Statement (.groupSave gid) := none_of rfl
theorem groupSaveComplete (gid : Nat) : Statement (.groupSaveComplete gid) := none_of rfl
theorem groupRestoreComplete (gid : Nat) : Statement (.groupRestoreComplete gid) := none_of rfl
theorem tagHoldExpire (core : Nat) (tag : Nat) : Statement (.tagHoldExpire core tag) := none_of rfl
theorem pendLimitExpire (aqi : Fin 64) (q : Nat) : Statement (.pendLimitExpire aqi q) := none_of rfl
theorem packetReadDone (slot : Fin 256) : Statement (.packetReadDone slot) := none_of rfl
theorem dependenceReread (slot : Fin 256) : Statement (.dependenceReread slot) := none_of rfl
theorem dependenceReadDone (slot : Fin 256) : Statement (.dependenceReadDone slot) := none_of rfl
theorem dispatch (o : Fin 8) : Statement (.dispatch o) := none_of rfl
theorem packetCompletion (pk : Nat) : Statement (.packetCompletion pk) := none_of rfl
theorem preloadComplete (core : Nat) (kernel : Nat) : Statement (.preloadComplete core kernel) := none_of rfl
theorem preloadDeadline (core : Nat) (kernel : Nat) : Statement (.preloadDeadline core kernel) := none_of rfl
theorem dispatchEnd (kernel : Nat) : Statement (.dispatchEnd kernel) := none_of rfl
theorem kernelDrainComplete (kernel : Nat) : Statement (.kernelDrainComplete kernel) := none_of rfl
theorem lnchComplete (lnch : Nat) : Statement (.lnchComplete lnch) := none_of rfl
theorem groupPlace (o : Fin 8) : Statement (.groupPlace o) := none_of rfl
theorem groupStart (gid : Nat) : Statement (.groupStart gid) := none_of rfl
theorem patienceExpire (gid : Nat) : Statement (.patienceExpire gid) := none_of rfl
theorem groupEnd (gid : Nat) : Statement (.groupEnd gid) := none_of rfl
theorem barrierRelease (b : BarRef) : Statement (.barrierRelease b) := none_of rfl
theorem xstPerform (x : Nat) : Statement (.xstPerform x) := none_of rfl
theorem nredContributionArrive (c : Nat) : Statement (.nredContributionArrive c) := none_of rfl
theorem nredTimerExpire (kernel : Nat) (inst : Nat) : Statement (.nredTimerExpire kernel inst) := none_of rfl
theorem proposalArrive (m : Nat) : Statement (.proposalArrive m) := none_of rfl
theorem objectionArrive (m : Nat) : Statement (.objectionArrive m) := none_of rfl
theorem clwaitQueryArrive (m : Nat) : Statement (.clwaitQueryArrive m) := none_of rfl
theorem clrdReadArrive (m : Nat) : Statement (.clrdReadArrive m) := none_of rfl
theorem claimClose (slot : Nat) : Statement (.claimClose slot) := none_of rfl
theorem objectVerdictArrive (m : Nat) : Statement (.objectVerdictArrive m) := none_of rfl
theorem tsetDescriptorDone (t : Nat) : Statement (.tsetDescriptorDone t) := none_of rfl
theorem mldbLoadComplete (l : Nat) : Statement (.mldbLoadComplete l) := none_of rfl
theorem mmaStart (core : Nat) : Statement (.mmaStart core) := none_of rfl
theorem mmaADataArrive (mma : Nat) (row : Nat) : Statement (.mmaADataArrive mma row) := none_of rfl
theorem mmaStageOpportunity (core : Nat) : Statement (.mmaStageOpportunity core) := none_of rfl
theorem mmaComplete (mma : Nat) : Statement (.mmaComplete mma) := none_of rfl
theorem copyChunkComplete (copy : Nat) : Statement (.copyChunkComplete copy) := none_of rfl
theorem cwaitReadReturn (w : WaveRef) : Statement (.cwaitReadReturn w) := none_of rfl
theorem slotLoadComplete (core : Nat) (slot : Fin 16) : Statement (.slotLoadComplete core slot) := none_of rfl
theorem retransmit (pkt : Nat) : Statement (.retransmit pkt) := none_of rfl
theorem senderTeardown (k : DcKey) : Statement (.senderTeardown k) := none_of rfl
theorem receiverTeardown (k : DcKey) : Statement (.receiverTeardown k) := none_of rfl
theorem fabricTimeout (req : Nat) : Statement (.fabricTimeout req) := none_of rfl
theorem roundTripBound (req : Nat) : Statement (.roundTripBound req) := none_of rfl
theorem map (slot : Fin 256) : Statement (.map slot) := none_of rfl
theorem registerWrite (r : HubReg) (v : Nat) : Statement (.registerWrite r v) := none_of rfl
theorem rotaTblWrite (cls : RotaClass) (v : BitVec 64) : Statement (.rotaTblWrite cls v) := none_of rfl
theorem commit (repair : Bool) : Statement (.commit repair) := none_of rfl
theorem create (o : OwnerSpec) : Statement (.create o) := none_of rfl
theorem ownerModeChange (o : Fin 8) (m : Mode) : Statement (.ownerModeChange o m) := none_of rfl
theorem retire (o : Fin 8) : Statement (.retire o) := none_of rfl
theorem clockStep (mhz : Nat) : Statement (.clockStep mhz) := none_of rfl
theorem hostSnoop (line : Nat) (data : List (Nat × BitVec 8)) : Statement (.hostSnoop line data) := none_of rfl
theorem hostAccess (pa : Nat) (n : Nat) (write : Option (List (BitVec 8))) : Statement (.hostAccess pa n write) := none_of rfl
theorem framePoisoned (frame : Nat) : Statement (.framePoisoned frame) := none_of rfl
theorem install (pol : Fin 64) : Statement (.install pol) := none_of rfl
theorem remove (pol : Fin 64) : Statement (.remove pol) := none_of rfl
theorem tenkeyWrite (t : Fin 16) (key : List (BitVec 8)) : Statement (.tenkeyWrite t key) := none_of rfl
theorem bind (ctx : Fin 1024) : Statement (.bind ctx) := none_of rfl
theorem unbind (ctx : Fin 1024) : Statement (.unbind ctx) := none_of rfl
theorem revoke (ctx : Fin 1024) : Statement (.revoke ctx) := none_of rfl
theorem resume (ctx : Fin 1024) : Statement (.resume ctx) := none_of rfl
theorem preempt (ctx : Fin 1024) : Statement (.preempt ctx) := none_of rfl
theorem replay (ctx : Fin 1024) : Statement (.replay ctx) := none_of rfl
theorem deliver (ctx : Fin 1024) : Statement (.deliver ctx) := none_of rfl
theorem notify (aqi : Fin 64) (offset : Nat) (width : Nat) (v : BitVec 32) (pasid : BitVec 20) : Statement (.notify aqi offset width v pasid) := none_of rfl
theorem unmap (slot : Fin 256) : Statement (.unmap slot) := none_of rfl
theorem restart (slot : Fin 256) : Statement (.restart slot) := none_of rfl
theorem compact (o : Fin 8) (core : Nat) : Statement (.compact o core) := none_of rfl
theorem breakBarriers (ctx : Fin 1024) (group : Nat) (levels : BitVec 5) : Statement (.breakBarriers ctx group levels) := none_of rfl
theorem portEnable (port : Fin 18) : Statement (.portEnable port) := none_of rfl
theorem portDisable (port : Fin 18) : Statement (.portDisable port) := none_of rfl
theorem trainingDone (port : Fin 18) (passed : List (Fin 18)) : Statement (.trainingDone port passed) := none_of rfl
theorem laneFailure (port : Fin 18) (lane : Fin 18) : Statement (.laneFailure port lane) := none_of rfl
theorem retrainingDone (port : Fin 18) (ok : Bool) : Statement (.retrainingDone port ok) := none_of rfl
theorem flitReceive (port : Fin 18) (f : Flit) (check : FlitCheck) : Statement (.flitReceive port f check) := none_of rfl
theorem coreErrorThreshold (core : Nat) : Statement (.coreErrorThreshold core) := none_of rfl
theorem coreUncorrectableFailure (core : Nat) : Statement (.coreUncorrectableFailure core) := none_of rfl
theorem hbmRowRemap (stack : Nat) (chan : Nat) (bank : Nat) (row : Nat) : Statement (.hbmRowRemap stack chan bank row) := none_of rfl
theorem hbmChannelSpare (stack : Nat) (chan : Nat) : Statement (.hbmChannelSpare stack chan) := none_of rfl
theorem l2WayDisable (die : Nat) (slice : Nat) (way : Nat) : Statement (.l2WayDisable die slice way) := none_of rfl
theorem firmwareImageLoad (img : FirmwareImage) : Statement (.firmwareImageLoad img) := none_of rfl
theorem attestationQuote (nonce : List (BitVec 8)) : Statement (.attestationQuote nonce) := none_of rfl
theorem thermalTrip (die : Nat) : Statement (.thermalTrip die) := none_of rfl
theorem thermalShutdown (die : Nat) : Statement (.thermalShutdown die) := none_of rfl
theorem lxas (args : List String) (fs : List (String × List String)) : Statement (.lxas args fs) := none_of rfl
theorem lxdbAttach (pkg : Nat) (ctx : Fin 1024) : Statement (.lxdbAttach pkg ctx) := none_of rfl
theorem lxdbSelect (pkg : Nat) : Statement (.lxdbSelect pkg) := none_of rfl
theorem lxdbBreak (at_ : Option Nat × BitVec 15) : Statement (.lxdbBreak at_) := none_of rfl
theorem lxdbRun (launches : List LxdbLaunch) : Statement (.lxdbRun launches) := none_of rfl
theorem lxdbStep (n : Nat) : Statement (.lxdbStep n) := none_of rfl
theorem lxdbRegs (rs : List DbgReg) : Statement (.lxdbRegs rs) := none_of rfl
theorem lxdbMask (m : MReg) : Statement (.lxdbMask m) := none_of rfl
theorem lxdbLabel (rs : List DbgReg) : Statement (.lxdbLabel rs) := none_of rfl
theorem lxdbMem (va : Nat) (n : Nat) : Statement (.lxdbMem va n) := none_of rfl
theorem lxdbFlush (o : Fin 8) : Statement (.lxdbFlush o) := none_of rfl
theorem lxdbStress (o : Fin 8) (on : Bool) : Statement (.lxdbStress o on) := none_of rfl
theorem lxdbEngineSave (n : Nat) : Statement (.lxdbEngineSave n) := none_of rfl
theorem lxdbClaim (slot : Nat) : Statement (.lxdbClaim slot) := none_of rfl
theorem lxdbWatchFabric (pkg : Nat) : Statement (.lxdbWatchFabric pkg) := none_of rfl
theorem lxdbFabricLog (pkg : Nat) : Statement (.lxdbFabricLog pkg) := none_of rfl
theorem lxdbSeedbank (e : Nat) (n : Nat) : Statement (.lxdbSeedbank e n) := none_of rfl
theorem lxdbGate (pol : Fin 64) : Statement (.lxdbGate pol) := none_of rfl
theorem superframeBoundary : Statement (.superframeBoundary) := none_of rfl
theorem gateCommandDone : Statement (.gateCommandDone) := none_of rfl
theorem bucketRefill : Statement (.bucketRefill) := none_of rfl
theorem reset : Statement (.reset) := none_of rfl
theorem lxdbCont : Statement (.lxdbCont) := none_of rfl
theorem lxdbPcv : Statement (.lxdbPcv) := none_of rfl
theorem lxdbRotaTrace : Statement (.lxdbRotaTrace) := none_of rfl
theorem lxdbWatchEngine : Statement (.lxdbWatchEngine) := none_of rfl
theorem lxdbEngineLog : Statement (.lxdbEngineLog) := none_of rfl
theorem lxdbTrap : Statement (.lxdbTrap) := none_of rfl

end Laws.WordFits

end Sys2Proof
end

