-- ==== Sys2Proof/Tests/Slice0.lean ====
section
/-! SUPPORT. Tests: what is no well-formed term, words of every family from the spec's own encodings, single instructions on small
states with results from the spec's examples, and for each obligation states and operands that meet its hypotheses. -/

namespace Sys2Proof.Tests

open Sys2Proof.Machine
set_option Elab.async false

/-! ### Ill-formed terms, one for each check of WellFormed -/

theorem test_wf_memory : wf (.vld false 0 3 0 .w .global false) = false ∧ wf (.vld false 0 2 0 .w .scratch false) = false ∧
    wf (.vld false 0 0 0 .w .const true) = false ∧ wf (.vst false 0 0 0 .w .scratch true false) = false ∧
    wf (.vst false 0 5 0 .w .global false false) = false ∧ wf (.vst false 0 0 0 .w .scratch false true) = false ∧
    wf (.xst false 0 1 0 .w) = false ∧ wf (.sld false 1 0 .d .global 0) = false ∧ wf (.sld false 0 7 .w .scratch 0) = false ∧
    wf (.sst false 0 2 .w .scratch true 0) = false ∧ wf (.sst false 3 2 .d .global false 0) = false := by decide

theorem test_wf_atomics : wf (.vatom false .add .pkg 0 0 0) = false ∧ wf (.vatomb false .or .quad 0 0 0) = false ∧
    wf (.vagg false .add .die 0 0 0) = false ∧ wf (.vcas false .sys 0 0 0) = false ∧ wf (.vatom false .add .wave 0 3 0) = false ∧
    wf (.satom false (.arith .add) .pkg 0 1) = false ∧ wf (.fence false .pkg ⟨false, false, false, false⟩) = false ∧
    wf (.fencea false .pod ⟨false, false, false, false⟩) = false := by decide

theorem test_wf_literals : wf (.lit false .vshli 0 0 32) = false ∧ wf (.lit false .ssrai 0 0 0x80000000) = false ∧
    wf (.lit false .vli 0 1 0) = false ∧ wf (.swr false .ocycl 0) = false ∧ wf (.swr false .trapcause 0) = false := by decide

theorem test_wf_pairs : wf (.cfetch false 1 0 0) = false ∧ wf (.framew false true 0) = false ∧ wf (.framew false true 9) = false ∧
    wf (.framew false false 2) = false ∧ wf (.nred false .add 5 0 0) = false ∧ wf (.clrd false 1 0) = false ∧ wf (.tset false 3 0) = false ∧
    wf (.mldb false 60 0 0) = false ∧ wf (.cwait false 1 0) = false ∧ wf (.cwait false 0 1) = false ∧ wf (.lnch false 1 0 0) = false ∧
    wf (.release false 1 0 0 0) = false ∧ wf (.release false 0 1 0 0) = false ∧ wf (.probe false false 1 0) = false ∧
    wf (.probe false true 0 1) = false ∧ wf (.rngkey false 1) = false ∧ wf (.hld false 0 1) = false ∧ wf (.hst false 0 1) = false ∧
    wf (.hnear false 0 1) = false := by decide

theorem test_wf_codes : wf (.bar false .both .quad 8) = false ∧ wf (.bar false .both .pod 2) = false ∧ wf (.bar false .swap .grp 0) = false ∧
    wf (.mqry false true 0 .estat) = false ∧ wf (.cpy false 4 .wave false false) = false ∧ wf (.cpy false 8 .pkg false false) = false ∧
    wf (.tlbinv false .page 1 0) = false ∧ wf (.tlbinv false .pasid 2 0) = false ∧ wf (.tlbinv false .all 0 1) = false ∧
    wf (.xset false .val 0 0 1) = false ∧ wf (.htie false 0 .one 3) = false ∧ wf (.clockStep 2500) = false ∧ wf (.clockStep 3800) = false ∧
    wf (.clockStep 2200) = false := by decide

/-! ### Words of every family, from the spec's encodings -/

/-- The instruction that a word, or the words of a LIT group, stand for. -/
def reads (ws : List Nat) : Option Instr := (decodeWords ws).toOption.map (·.1)

theorem test_decode_vector : reads [0x001461F2] = some (.vadds false 5 6 7 .rev) ∧ reads [0x0C041002] = some (.vshli false 1 1 2) ∧
    reads [0x0F0C0FFF] = some (.vli false 3 (-1)) ∧ reads [0x05089000] = some (.vbcast false 2 9) ∧
    reads [0x06040000] = some (.vsreg false 1 .lane) ∧ reads [0x0F080002] = some (.vli false 2 2) ∧
    reads [0x00103040] = some (.vadd false 4 3 1 .none) ∧ reads [0x1A201082] = some (.vcmpi false .lt 1 1 2 .none) := by decide

theorem test_decode_float : reads [0x522420C4] = some (.vfma true .bf16x2 9 2 3 .none) ∧ reads [0x121020C8] = some (.vfma false .f32 4 2 3 .bfly1) ∧
    reads [0x1B404142] = some (.vcmpf false .lt 2 4 5 .none) ∧ reads [0x5D3000C0] = some (.vrcp true 12 3 .none) ∧
    reads [0x171C1006] = some (.vpkt false .lt6 2 7 1) ∧ reads [0x161020C4] = some (.vcvt false (.f2h 3 .none) 4 2) ∧
    reads [0x1618200D] = some (.vcvt false (.h2f true) 6 2) ∧ reads [0x1C0420C4] = some (.vsel false 1 2 3 .none 4) ∧
    reads [0x1E503001] = some (.vrng false true 20 3) ∧ reads [0xB9500000] = some (.rngkey false 20) := by decide

theorem test_decode_uniform : reads [0x89000000, 0x00012345, 0x08145000] = some (.lit false .vaddi 5 5 0x12345) ∧
    reads [0x80240000] = some (.sadd false 9 0 0) ∧ reads [0x8D280000] = some (.srd false 10 .ocycl) ∧
    reads [0x8E014061] = some (.swr false .trappc 20) ∧ reads [0x8130A384] = some (.sset false .ltn 12 10 14) ∧
    reads [0x8F142003] = some (.mpop false 5 2) ∧ reads [0xA7143001] = some (.vred false .fadd 5 3) ∧
    reads [0xB81821C0] = some (.vlane false 6 2 7) ∧ reads [0xB40C4001] = some (.lblrd false 3 (.v 4)) := by decide

theorem test_decode_flow : reads [0x901FFFFA] = some (.br false 7 (-6)) ∧ reads [0x947C000F] = some (.call false 31 15) ∧
    reads [0x957C0000] = some (.ret false 31) ∧ reads [0x93240300] = some (.jmpf false 9 3 0) ∧ reads [0x96040003] = some (.vbr false 1 3) ∧
    reads [0x97000000] = some (.exit false) ∧ reads [0x98000000] = some (.yield false) ∧ reads [0x99000000] = some (.nop false) ∧
    reads [0x92000002] = some (.jmp false 2) ∧ reads [0x9A30E002] = some (.cfetch false 12 14 2) ∧ reads [0x9B000002] = some (.cfwait false 2) ∧
    reads [0x9C000042] = some (.trap false 0x42) ∧ reads [0x9D000000] = some (.rte false) ∧ reads [0x9E000001] = some (.bkpt false 1) ∧
    reads [0x9F000000] = some (.framew false false 0) ∧ reads [0x9F200001] = some (.framew false true 8) := by decide

theorem test_decode_rearrange : reads [0x20102003] = some (.vcomp false 4 2 3) ∧ reads [0x21144003] = some (.vexpd false 5 4 3) ∧
    reads [0x22181240] = some (.vslup false 6 1 9) ∧ reads [0x241C3140] = some (.vperm false 7 3 5 .none) ∧
    reads [0x25202001] = some (.vscan false .fadd 8 2) ∧ reads [0x27241FFF] = some (.vmovxw false 9 1 (-1)) ∧
    reads [0xB7105400] = some (.xset false .set 1 4 5) ∧ reads [0xB7100E00] = some (.xset false .add 3 4 0) ∧
    reads [0x260C1001] = some (.vmovx false 3 1 1) := by decide

theorem test_decode_hyper : reads [0xBA200280] = some (.hld false 2 10) ∧ reads [0xBB312000] = some (.hbind false 3 1 2) ∧
    reads [0xBB430181] = some (.hperm false 4 3 6) ∧ reads [0xBB750002] = some (.hcopy false 7 5) ∧ reads [0xBC200001] = some (.hclr false 2) ∧
    reads [0xBC007083] = some (.htie false 0 .reg 7) ∧ reads [0xBC010000] = some (.hbund false 0 1) ∧ reads [0xBC050242] = some (.hthr false 0 5 9) ∧
    reads [0xBD051300] = some (.hsim false 5 1 12) ∧ reads [0xBE050500] = some (.hnear false 5 20) ∧ reads [0xBE020581] = some (.hwr false 2 22) ∧
    reads [0xBE600582] = some (.hrd false 6 22) := by decide

theorem test_decode_memory : reads [0x68204260] = some (.vld true 8 4 9 .w .global false) ∧ reads [0x280440A1] = some (.vld false 1 4 2 .w .global true) ∧
    reads [0x281401C4] = some (.vld false 5 0 7 .b .scratch false) ∧ reads [0x291020E2] = some (.vst false 4 2 3 .w .global true false) ∧
    reads [0xA0184402] = some (.sld false 6 4 .w .global 2) ∧ reads [0xA128463E] = some (.sst false 10 4 .d .global false (-2)) ∧
    reads [0x2C144260] = some (.vatom false .add .pkg 5 4 9) ∧ reads [0x2D086121] = some (.vatomb false .or .pkg 2 6 4) ∧
    reads [0x2E188099] = some (.vagg false .fadd .die 6 8 2) ∧ reads [0x2F2840E0] = some (.vcas false .pkg 10 4 3) ∧
    reads [0xA2184800] = some (.satom false (.arith .add) .pkg 6 4) ∧ reads [0xA30009E0] = some (.fence false .pkg ⟨true, true, true, true⟩) ∧
    reads [0xA4000BE0] = some (.fencea false .pod ⟨true, true, true, true⟩) := by decide

theorem test_decode_groups : reads [0xA5000880] = some (.bar false .both .grp 0) ∧ reads [0xA5000D00] = some (.bar false .swap .quad 0) ∧
    reads [0xA5000583] = some (.bar false .wait .die 3) ∧ reads [0x2A0C80A0] = some (.xst false 3 8 2 .w) ∧
    reads [0xA6284141] = some (.nred false .fadd 10 4 5) ∧ reads [0xA85061C0] = some (.claim false 20 6 7) ∧
    reads [0xA9500000] = some (.object false 20) ∧ reads [0xAA554000] = some (.clwait false 21 20) ∧ reads [0xAB587000] = some (.clrd false 22 7) := by decide

theorem test_decode_engines : reads [0xAC280005] = some (.tset false 10 5) ∧ reads [0xADA00207] = some (.mldb false 40 2 7) ∧
    reads [0xAE300000] = some (.mma false 12) ∧ reads [0xAF140000] = some (.mqry false false 5 .mstat) ∧
    reads [0xB0400013] = some (.cpy false 16 .pkg true true) ∧ reads [0xB1516000] = some (.cwait false 20 22) ∧
    reads [0xB2509003] = some (.lnch false 20 9 3) ∧ reads [0xB31880CE] = some (.release false 6 8 3 14) ∧
    reads [0xB5214000] = some (.probe false false 8 20) ∧ reads [0xB6302000] = some (.tlbinv false .page 12 2) := by decide

theorem test_decode_refused : (decodeWords [0x11000001] = .error .illegalOp ∧ decodeWords [0x15006000] = .error .reservedEnc ∧
    decodeWords [0x1700000B] = .error .reservedEnc ∧ decodeWords [0x1E000002] = .error .illegalOp) ∧
    decodeWords [0x1A2420C2] = .error .reservedEnc ∧ decodeWords [0x15000007] = .error .illegalOp ∧
    decodeWords [0x92100002] = .error .reservedEnc ∧ decodeWords [0x8F162003] = .error .reservedEnc ∧
    decodeWords [0x80000012] = .error .illegalOp := ⟨⟨rfl, rfl, rfl, rfl⟩, rfl, rfl, rfl, rfl, rfl⟩

/-! ### One wave that may issue -/

/-- The loader's wave: word 0 of slot 0, every lane active, 64 vector registers, 16 hypervector registers, 4 accumulators. -/
def base : State := placeWords [] State.reset
/-- The same with its wave, or its group, changed. -/
def waveWith (f : Wave → Wave) : State := base.updWave ⟨0, 0⟩ f
def groupWith (f : Group → Group) : State := base.updGroup 0 f
/-- A vector register full of one word, and one given lane by lane. -/
def fill (n : Nat) (x : Word) (w : Wave) : Wave := w.putV n ⟨List.replicate 64 x, 0⟩
def lanesOf (n : Nat) (xs : List Word) (w : Wave) : Wave := w.putV n ⟨xs ++ List.replicate (64 - xs.length) 99, 0⟩
def setS (n : Nat) (x : Word) (w : Wave) : Wave := w.putS n x 0
/-- The wave after an instruction. -/
def after (i : Instr) (s : State) : Option Wave :=
  match exec i s with
  | .next t => t.wave? ⟨0, 0⟩
  | _ => none
def groupAfter (i : Instr) (s : State) : Option Group :=
  match exec i s with
  | .next t => t.group? 0
  | _ => none
/-- A vector instruction with v2, v3 and v1 as its operands and v1 as its destination: lane 0 of v1 and the flags. -/
def run3 (i : Instr) (a b d : Word) : Option (Word × Word) :=
  (after i (waveWith fun w => fill 1 d (fill 2 a (fill 3 b w)))).map fun w => (w.lane 1 0, w.fflags.val)

/-- spec/06_vector_ops.md, one lane through the integer and conversion forms. -/
theorem test_integer_forms : run3 (.vadd false 1 2 3 .none) 0x7FFFFFF0 0x20 0 = some (0x80000010, 0) ∧
    run3 (.vadds false 1 2 3 .none) 0x7FFFFFF0 0x20 0 = some (0x7FFFFFFF, 0) ∧
    run3 (.vaddsn false 1 2 3 .none) 0xFFFFFFF0 0x20 0 = some (0xFFFFFFFF, 0) ∧
    run3 (.vsubsn false 1 2 3 .none) 5 7 0 = some (0, 0) ∧ run3 (.vabsd false 1 2 3 .none) 5 0xFFFFFFFD 0 = some (8, 0) := by
  decide +kernel
theorem test_multiply_forms : run3 (.vmulh false 1 2 3 .none) 0xFFFFFFFF 2 0 = some (0xFFFFFFFF, 0) ∧
    run3 (.vmulhn false 1 2 3 .none) 0xFFFFFFFF 2 0 = some (1, 0) ∧
    run3 (.vdot4 false 1 2 3 .none) 0x02FF0380 0x01010201 100 = some (0xFFFFFFEB, 0) ∧
    run3 (.vclz false 1 3 .none) 0 0 7 = some (32, 0) := by decide +kernel
theorem test_conversion_forms : run3 (.vcvt false .f2i 1 2) 0x40200000 0 0 = some (2, 16) ∧
    run3 (.vcvt false .f2i 1 2) 0x4F32D05E 0 0 = some (0x7FFFFFFF, 1) ∧ run3 (.vcvt false .f2i 1 2) 0x7FC00000 0 5 = some (0, 1) ∧
    run3 (.vcvti false (.nb 0) 1 2) 300 0 0xAABBCCDD = some (0xAABBCC7F, 0) ∧
    run3 (.vpkt false .lt8 1 1 2) 0x3FC00000 0 0 = some (0x4800, 0) := by decide +kernel
/-- spec/05_numbers.md R93, R95, R121: one float of each outcome. -/
theorem test_float_forms : run3 (.vfadd false .f32 1 2 3 .none) 0x3F800000 0x40000000 0 = some (0x40400000, 0) ∧
    run3 (.vfmul false .f32 1 2 3 .none) 0x7F000000 0x7F000000 0 = some (0x7F800000, 20) ∧
    run3 (.vfma false .f32 1 2 3 .none) 0x40000000 0x40400000 0x3F800000 = some (0x40E00000, 0) ∧
    run3 (.vfsub false .f32 1 2 3 .none) 0x7F800000 0x7F800000 0 = some (0x7FC00000, 1) ∧
    run3 (.vfmin false .f32 1 2 3 .none) 0x80000000 0 0 = some (0x80000000, 0) := by decide +kernel
theorem test_compare_select : (after (.vcmpi false .lt 1 2 3 .none) (waveWith fun w => fill 3 2 (lanesOf 2 [0, 1, 2, 3] w))).map
      (fun w => (w.mreg 1).val) = some 3 ∧
    (after (.vcmpf false .un 2 2 3 .none) (waveWith fun w => fill 3 0x7FC00000 w)).map (fun w => (w.mreg 2).val) = some (BitVec.allOnes 64) := by
  decide +kernel
/-- R129: the result stays in the return buffer until a park. -/
theorem test_sfu_entry : (after (.vrcp false 3 2 .none) (waveWith fun w => fill 3 7 w)).map (fun w => (w.lane 3 0, w.pend.length, w.fflags.val)) =
    some (7, 1, 0) := by decide +kernel
theorem test_uniform_forms : (after (.sadd false 0 1 1) (waveWith (setS 1 5))).map (fun w => (w.sreg 0).val) = some 0 ∧
    (after (.slih false 4 0xABCD) (waveWith (setS 4 0x1111FFFF))).map (fun w => (w.sreg 4).val) = some 0xABCDFFFF ∧
    (after (.ssra false 4 1 2) (waveWith fun w => setS 1 0x80000000 (setS 2 36 w))).map (fun w => (w.sreg 4).val) = some 0xF8000000 ∧
    (after (.sset false .ltn 5 1 2) (waveWith fun w => setS 1 0xFFFFFFFF (setS 2 1 w))).map (fun w => (w.sreg 5).val) = some 0 := by
  decide +kernel

/-- spec/07_uniform_flow.md, divergence: VBR m1 at word 3 sends lanes 0 and 1 to word 6, the others to word 4. -/
theorem test_divergence : (after (.vbr false 1 3) (waveWith fun w => { w.putM 1 3 0 with pcs := List.replicate 64 3 })).map
    (fun w => (w.pcAt 0, w.pcAt 1, w.pcAt 2, w.pcAt 63)) = some (6, 6, 4, 4) := by decide +kernel
theorem test_branch_outside : (after (.jmp false (-1)) base).map (·.status) = some (.parked (.trap illegalOp 0 0 0)) ∧
    (after (.call false 31 15) base).map (fun w => ((w.sreg 31).val, w.pcAt 5)) = some (1, 15) := by decide +kernel
theorem test_exit_partial : (after (.exit false) (waveWith fun w => { w with pcs := [0, 0] ++ List.replicate 62 9 })).map
    (fun w => (w.exited, w.status)) = some (3, .parked .next) := by decide +kernel

/-- spec/08_rearrange_hyper.md, one active set: lanes 0 to 5 active, lanes 6 and 7 at a higher PC, the rest exited. -/
def packed : Wave → Wave := fun w =>
  let w := lanesOf 2 [10, 11, 12, 13, 14, 15, 16, 17] (fill 4 99 (fill 5 99 w))
  { w.putM 3 0xAD 0 with pcs := List.replicate 6 0 ++ [9, 9] ++ List.replicate 56 0, exited := BitVec.allOnes 64 <<< 8 }
theorem test_compress : (after (.vcomp false 4 2 3) (waveWith packed)).map (fun w => (w.vreg 4).val.take 9) =
    some [10, 12, 13, 15, 0, 0, 99, 99, 99] := by decide +kernel
theorem test_expand : (after (.vexpd false 5 4 3) (waveWith fun w => lanesOf 4 [10, 12, 13, 15, 0, 0] (packed w))).map
    (fun w => (w.vreg 5).val.take 8) = some [10, 0, 12, 13, 0, 15, 99, 99] := by decide +kernel
theorem test_scan : (after (.vscan false .add 6 2) (waveWith packed)).map (fun w => (w.vreg 6).val.take 6) = some [10, 21, 33, 46, 60, 75] := by
  decide +kernel

/-- spec/08_rearrange_hyper.md, a register window: base 16, length 8, value 6, in a wave of 32 registers. -/
def windowed : State := (groupWith fun g => { g with vdecl := 32 }).updWave ⟨0, 0⟩ fun w =>
  { lanesOf 23 [7] (fill 3 5 w) with x := [XReg.zero, ⟨6, 16, 8, 0⟩, XReg.zero, XReg.zero] }
theorem test_index_read : (after (.vmovx false 3 1 1) windowed).map (fun w => w.lane 3 0) = some 7 ∧
    (after (.vmovxw false 3 1 (-6)) windowed).map (fun w => w.lane 16 0) = some 5 := by decide +kernel
theorem test_index_bound : (after (.vmovx false 3 1 2) windowed).map (·.status) = some (.parked (.trap regBound 0 0 0)) ∧
    (after (.xset false .set 1 4 7) (windowed.updWave ⟨0, 0⟩ (setS 7 0x1114))).map (fun w => (w.status, w.xreg 1)) =
      some (.parked (.trap regBound 0 0 0), ⟨6, 16, 8, 0⟩) := by decide +kernel

/-- spec/08_rearrange_hyper.md, a bundle with ties: the counters +2, 0, 0, −2, 0, 0, +2, −2 from c[7] down, and h7 as tie register. -/
def tied (t : TiePolicy) : State := groupWith fun g =>
  { g with a := [⟨[-2, 2, 0, 0, -2, 0, 0, 2], false, t, 7, 0⟩], h := setReg 16 7 ⟨0x55, 0⟩ .zero g.h }
theorem test_threshold : (groupAfter (.hthr false 0 5 9) (tied .reg)).map (fun g => (g.hreg 5).val.toNat % 256) = some 0xC6 ∧
    (groupAfter (.hthr false 0 5 9) (tied .zero)).map (fun g => (g.hreg 5).val.toNat % 256) = some 0x82 ∧
    (groupAfter (.hthr false 0 5 9) (tied .one)).map (fun g => (g.hreg 5).val.toNat % 256) = some 0xEE := by decide +kernel

/-- R199 to R205 on scratch: a byte store and its bounds. -/
def scratchy : State := (groupWith fun g => { g with kib := 8, wlab := [0] }).updWave ⟨0, 0⟩ fun w =>
  { setS 10 0x12345678 (setS 4 8188 w) with exited := BitVec.allOnes 64 <<< 1 }
theorem test_scratch_store : (groupAfter (.sst false 10 4 .w .scratch false 0) scratchy).map (fun g => cellVal g.win 8188 4) = some 0x12345678 ∧
    (after (.sst false 10 4 .w .scratch false 1) scratchy).map (·.status) = some (.parked (.trap scratchRange 0 8192 1)) := by decide +kernel
/-- R273: TRAPPC names the next word. -/
theorem test_trap_word : (after (.trap false 0x42) base).map (·.status) = some (.parked (.trap softTrap 1 0x42 0)) := by decide +kernel
theorem test_rte_outside : (after (.rte false) base).map (·.status) = some (.parked (.trap illegalOp 0 0 0)) := by decide +kernel

/-! ### States and operands that meet the statements' hypotheses: instructions -/

/-- A wave may issue n words in s, or any transfer, or goes on with i; and P holds of it. -/
def may (s : State) (n : Nat) (P : Cur → Prop) [DecidablePred P] : Bool :=
  match s.cur? with
  | some c => !c.res && decide (c.w.status = .running) && decide (c.pc % 2048 + n ≤ 2047) && decide (P c)
  | none => false
def mayX (s : State) (P : Cur → Prop) [DecidablePred P] : Bool :=
  match s.cur? with
  | some c => !c.res && decide (c.w.status = .running) && decide (P c)
  | none => false
def goesOn (s : State) (i : Instr) (P : Cur → Prop) [DecidablePred P] : Bool :=
  match s.cur? with
  | some c => c.res && (match c.w.status with | .waiting _ j => decide (j = i) | _ => false) && decide (P c)
  | none => false

theorem may_issue {s : State} {n : Nat} (P : Cur → Prop) [DecidablePred P] (h : may s n P = true) : ∃ c, Issues s c n ∧ P c := by
  unfold may at h
  split at h
  · rename_i c e
    simp only [Bool.and_eq_true, Bool.not_eq_true', decide_eq_true_eq] at h
    exact ⟨c, ⟨⟨e, h.1.1.1, h.1.1.2⟩, h.1.2⟩, h.2⟩
  · cases h
theorem may_transfer {s : State} (P : Cur → Prop) [DecidablePred P] (h : mayX s P = true) : ∃ c, IssuesX s c ∧ P c := by
  unfold mayX at h
  split at h
  · rename_i c e
    simp only [Bool.and_eq_true, Bool.not_eq_true', decide_eq_true_eq] at h
    exact ⟨c, ⟨e, h.1.1, h.1.2⟩, h.2⟩
  · cases h
theorem may_resume {s : State} {i : Instr} (P : Cur → Prop) [DecidablePred P] (h : goesOn s i P = true) : ∃ c, Resumes s c i ∧ P c := by
  unfold goesOn at h
  split at h
  · rename_i c e
    simp only [Bool.and_eq_true, decide_eq_true_eq] at h
    refine ⟨c, ⟨e, h.1.1, ?_⟩, h.2⟩
    have h := h.1.2
    split at h
    · rename_i k j q
      exact ⟨k, by rw [q]; simpa using h⟩
    · cases h
  · cases h

/-- The wave goes on with an instruction in a phase of it. -/
def resumed (i : Instr) (phase : Nat) : State :=
  (waveWith fun w => { w with status := .waiting (.untilCycle 0) i, phase }).setTurn (.resume ⟨0, 0⟩)
/-- Its lanes all stand at a word. -/
def standing (pc : Nat) : State := waveWith fun w => { w with pcs := List.replicate 64 pc }
/-- Another state of a slot of its core. -/
def withSlot (n : Nat) (f : Slot → Slot) : State := base.updCore 0 (·.updSlot n f)

theorem witness_IntegerAddSubtract : (∃ c, Issues base c 1 ∧ InV c [63, 63, 63]) ∧ fld 7 31 1 = 0 ∧ fld 7 24 6 = 0 ∧ fld 7 0 3 = 7 :=
  ⟨may_issue (fun c => ∀ r ∈ [63, 63, 63], r < c.g.vdecl) (by decide +kernel), by decide⟩
theorem witness_IntegerMultiply : (∃ c, Issues base c 1 ∧ InV c [63, 0, 63]) ∧
    fld 0x01000006 31 1 = 0 ∧ fld 0x01000006 24 6 = 1 ∧ 6 ≤ fld 0x01000006 0 3 :=
  ⟨may_issue (fun c => ∀ r ∈ [63, 0, 63], r < c.g.vdecl) (by decide +kernel), by decide⟩
theorem witness_MinMaxLogic : (∃ c, Issues base c 1 ∧ InV c [63, 63, 63]) ∧ (∃ c, Issues base c 1 ∧ InV c [63, 0]) ∧
    (fld 0x02000006 31 1 = 0 ∧ fld 0x02000006 24 6 = 2 ∧ 6 ≤ fld 0x02000006 0 3) ∧ fld 0x03000007 31 1 = 0 ∧ fld 0x03000007 24 6 = 3 :=
  ⟨may_issue (fun c => ∀ r ∈ [63, 63, 63], r < c.g.vdecl) (by decide +kernel),
   may_issue (fun c => ∀ r ∈ [63, 0], r < c.g.vdecl) (by decide +kernel), by decide⟩
theorem witness_ShiftsRoutes : (∃ c, Issues base c 1 ∧ InV c [63, 63, 63]) ∧ (∃ c, Issues base c 1 ∧ InV c [0, 63]) ∧
    fld 0x04000005 31 1 = 0 ∧ fld 0x04000005 24 6 = 4 ∧ 5 ≤ fld 0x04000005 0 3 :=
  ⟨may_issue (fun c => ∀ r ∈ [63, 63, 63], r < c.g.vdecl) (by decide +kernel),
   may_issue (fun c => ∀ r ∈ [0, 63], r < c.g.vdecl) (by decide +kernel), by decide⟩
theorem witness_BroadcastImmediates : (∃ c, Issues base c 1 ∧ InV c [63]) ∧ (∃ c, Issues base c 1 ∧ InV c [63, 63]) ∧
    (∃ c, Issues base c 3 ∧ InV c [63, 63]) ∧ (∃ c, Issues (standing 2044) c 3 ∧ InV c [63]) ∧ (31 : BitVec 32).toNat < 32 :=
  ⟨may_issue (fun c => ∀ r ∈ [63], r < c.g.vdecl) (by decide +kernel),
   may_issue (fun c => ∀ r ∈ [63, 63], r < c.g.vdecl) (by decide +kernel),
   may_issue (fun c => ∀ r ∈ [63, 63], r < c.g.vdecl) (by decide +kernel),
   may_issue (fun c => ∀ r ∈ [63], r < c.g.vdecl) (by decide +kernel), by decide⟩
/-- NaNs, ordered pairs, and zeros of both signs. -/
theorem witness_FloatArithmetic : (∃ c, Issues base c 1 ∧ InV c [63, 63, 63]) ∧ (decodeF f32 0x7FC00000).isNaN = true ∧
    (decodeF f32 0x3F800000).isNaN = false ∧ ltV (decodeF f32 0xBF800000) (decodeF f32 0x3F800000) = true ∧
    eqV (decodeF f32 0xBF800000) (decodeF f32 0x3F800000) = false ∧ ltV (decodeF f32 0x3F800000) (decodeF f32 0xBF800000) = false ∧
    eqV (decodeF f32 0x80000000) (decodeF f32 0) = true ∧ ltV (decodeF f32 0x80000000) (decodeF f32 0) = false :=
  ⟨may_issue (fun c => ∀ r ∈ [63, 63, 63], r < c.g.vdecl) (by decide +kernel), by decide +kernel⟩
/-- Ties, less and more than a half, and an exact value. -/
theorem witness_FloatSingleOperand : (∃ c, Issues base c 1 ∧ InV c [63, 63]) ∧ decodeF f32 0xFF800000 = .inf true ∧
    (∃ n m k, decodeF f32 0x40200000 = .fin n m k) ∧ ((-1 : Int) < 0 ∧ 2 * (3 % 2 ^ 1) = 2 ^ 1) ∧ 2 * (5 % 2 ^ 2) < 2 ^ 2 ∧ 2 * (7 % 2 ^ 2) > 2 ^ 2 ∧
    8 % 2 ^ 2 = 0 :=
  ⟨may_issue (fun c => ∀ r ∈ [63, 63], r < c.g.vdecl) (by decide +kernel), by decide +kernel, ⟨_, _, _, rfl⟩, by decide⟩
theorem witness_Conversions : (∃ c, Issues base c 1 ∧ InV c [63, 63]) ∧ (∃ c, Issues base c 1 ∧ InV c [63, 63, 63]) ∧
    (decodeF f32 0x7FC00000).isNaN = true ∧ decodeF f32 0xFF800000 = .inf true ∧ decodeF f32 0x7F800000 = .inf false ∧
    (∃ n m e, decodeF f32 0x4F000000 = .fin n m e ∧ (if n then -((roundInt .near n m e).1 : Int) else (roundInt .near n m e).1) = 2 ^ 31) ∧
    (∃ n m e, decodeF f32 0xCF000000 = .fin n m e ∧ (if n then -((roundInt .near n m e).1 : Int) else (roundInt .near n m e).1) = -2 ^ 31) ∧
    ∃ n m e, decodeF f32 0xCF000001 = .fin n m e ∧ (if n then -((roundInt .near n m e).1 : Int) else (roundInt .near n m e).1) < -2 ^ 31 :=
  ⟨may_issue (fun c => ∀ r ∈ [63, 63], r < c.g.vdecl) (by decide +kernel),
   may_issue (fun c => ∀ r ∈ [63, 63, 63], r < c.g.vdecl) (by decide +kernel), by decide +kernel, by decide +kernel, by decide +kernel,
   ⟨_, _, _, rfl, by decide +kernel⟩, ⟨_, _, _, rfl, by decide +kernel⟩, ⟨_, _, _, rfl, by decide +kernel⟩⟩
theorem witness_ComparesSelect : (∃ c, Issues base c 1 ∧ InV c [63, 63] ∧ (63 : Reg).val < c.g.vdecl) ∧
    (fld 0x1A000007 31 1 = 0 ∧ fld 0x1A000007 24 6 = 0x1A ∧ fld 0x1A000007 0 3 = 7) ∧ fld 0x1B000006 24 6 = 0x1B ∧ 6 ≤ fld 0x1B000006 0 3 :=
  ⟨may_issue (fun c => (∀ r ∈ [63, 63], r < c.g.vdecl) ∧ 63 < c.g.vdecl) (by decide +kernel), by decide⟩
theorem witness_SpecialFunctions : (∃ c, Issues base c 1 ∧ RoomSfu c ∧ InV c [63, 63, 63]) ∧
    (∃ m e, decodeF f32 0xBF800000 = .fin true m e ∧ m ≠ 0) ∧ (decodeF f32 0x7FC00000).isNaN = true :=
  ⟨may_issue (fun c => (c.w.entries < 32 ∧ c.w.sfuEntries < 4) ∧ ∀ r ∈ [63, 63, 63], r < c.g.vdecl) (by decide +kernel),
   ⟨_, _, rfl, by decide⟩, by decide +kernel⟩
theorem witness_RandomNumbers : (∃ c, Issues base c 1 ∧ (63 : Reg).val < c.g.vdecl) ∧ even 62 = true :=
  ⟨may_issue (fun c => 63 < c.g.vdecl) (by decide +kernel), by decide⟩
/-- Four selected lanes among six active ones. -/
theorem witness_LaneRearrangement : (∃ c, Issues (waveWith packed) c 1 ∧ InV c [63, 63] ∧ (63 : Reg).val < c.g.vdecl ∧
      ((List.range 64).filter fun l => c.act.getLsbD l) = [0, 1, 2, 3, 4, 5] ∧
      (((List.range 64).filter fun l => c.act.getLsbD l).filter fun l => (c.w.mreg 3).val.getLsbD l) = [0, 2, 3, 5]) ∧ RedOp.add ≠ .fadd ∧
    (fld 0x20000040 24 6 = 0x20 ∧ fld 0x20000040 6 6 ≠ 0) ∧ (fld 0x22000001 24 6 = 0x22 ∧ fld 0x22000001 0 3 ≠ 0) ∧
    (fld 0x23000008 24 6 = 0x23 ∧ fld 0x23000008 0 3 = 0 ∧ fld 0x23000008 3 3 ≠ 0) ∧ (fld 0x24000001 24 6 = 0x24 ∧ fld 0x24000001 0 3 ≠ 0) ∧
    fld 0x25000008 24 6 = 0x25 ∧ fld 0x25000008 3 3 ≠ 0 :=
  ⟨may_issue (fun c => (∀ r ∈ [63, 63], r < c.g.vdecl) ∧ 63 < c.g.vdecl ∧ ((List.range 64).filter fun l => c.act.getLsbD l) = [0, 1, 2, 3, 4, 5] ∧
      (((List.range 64).filter fun l => c.act.getLsbD l).filter fun l => (c.w.mreg 3).val.getLsbD l) = [0, 2, 3, 5]) (by decide +kernel), by decide⟩
/-- A window of length 64 at 0, one of length 65, one that ends a register late; the first and the last register of the window. -/
theorem witness_IndexRegisters :
    (∃ c, Issues (waveWith (setS 7 0x4000)) c 1 ∧ (sval c.w 7).toNat / 2 ^ 8 % 128 ≤ 64 ∧
      (sval c.w 7).toNat % 64 + (sval c.w 7).toNat / 2 ^ 8 % 128 ≤ c.g.vdecl) ∧
    (∃ c, Issues (waveWith (setS 7 0x4100)) c 1 ∧ (sval c.w 7).toNat / 2 ^ 8 % 128 > 64 ∧ c.w.intrap = false) ∧
    (∃ c, Issues (waveWith (setS 7 0x4001)) c 1 ∧ (sval c.w 7).toNat % 64 + (sval c.w 7).toNat / 2 ^ 8 % 128 > c.g.vdecl ∧ c.w.intrap = false) ∧
    ∃ c, Issues windowed c 1 ∧ (3 : Reg).val < c.g.vdecl ∧
      ((c.w.xreg 1).val.toInt + (1 : BitVec 12).toInt = ((23 : Reg).val : Int) - (c.w.xreg 1).base ∧ (c.w.xreg 1).val.toInt + (1 : BitVec 12).toInt = 7 ∧
        (c.w.xreg 1).len = 8) ∧
      (c.w.xreg 1).val.toInt + (-6 : BitVec 12).toInt = ((16 : Reg).val : Int) - (c.w.xreg 1).base ∧ (c.w.xreg 1).val.toInt + (-6 : BitVec 12).toInt = 0 :=
  ⟨may_issue (fun c => (sval c.w 7).toNat / 2 ^ 8 % 128 ≤ 64 ∧ (sval c.w 7).toNat % 64 + (sval c.w 7).toNat / 2 ^ 8 % 128 ≤ c.g.vdecl)
     (by decide +kernel),
   may_issue (fun c => (sval c.w 7).toNat / 2 ^ 8 % 128 > 64 ∧ c.w.intrap = false) (by decide +kernel),
   may_issue (fun c => (sval c.w 7).toNat % 64 + (sval c.w 7).toNat / 2 ^ 8 % 128 > c.g.vdecl ∧ c.w.intrap = false) (by decide +kernel),
   may_issue (fun c => 3 < c.g.vdecl ∧
      ((c.w.xreg 1).val.toInt + (1 : BitVec 12).toInt = ((23 : Reg).val : Int) - (c.w.xreg 1).base ∧ (c.w.xreg 1).val.toInt + (1 : BitVec 12).toInt = 7 ∧
        (c.w.xreg 1).len = 8) ∧
      (c.w.xreg 1).val.toInt + (-6 : BitVec 12).toInt = ((16 : Reg).val : Int) - (c.w.xreg 1).base ∧ (c.w.xreg 1).val.toInt + (-6 : BitVec 12).toInt = 0)
     (by decide +kernel)⟩
theorem witness_UniformArithmetic : (∃ c, Issues base c 1 ∧ True) ∧ (fld 0x80000012 31 1 = 1 ∧ fld 0x80000012 24 6 = 0 ∧ 18 ≤ fld 0x80000012 0 6) ∧
    (fld 0x8000004F 0 6 = 15 ∧ fld 0x8000004F 6 6 ≠ 0) ∧ fld 0x81000006 31 1 = 1 ∧ fld 0x81000006 24 6 = 1 ∧ 6 ≤ fld 0x81000006 0 6 :=
  ⟨may_issue (fun _ => True) (by decide +kernel), by decide⟩
theorem witness_UniformImmediates : (∃ c, Issues base c 1 ∧ True) ∧ (∃ c, Issues (standing 2044) c 3 ∧ True) ∧ (0 : BitVec 32).toNat < 32 ∧
    (fld 0x86000020 31 1 = 1 ∧ 6 ≤ fld 0x86000020 24 6 ∧ fld 0x86000020 24 6 ≤ 8 ∧ fld 0x86000020 5 7 ≠ 0) ∧
    (fld 0x8A010000 31 1 = 1 ∧ fld 0x8A010000 24 6 = 0x0A ∧ fld 0x8A010000 16 2 ≠ 0) ∧ fld 0x8B030000 24 6 = 0x0B ∧ fld 0x8B030000 16 2 ≠ 0 :=
  ⟨may_issue (fun _ => True) (by decide +kernel), may_issue (fun _ => True) (by decide +kernel), by decide⟩
theorem witness_SpecialRegisters : (∃ c, Issues base c 1 ∧ c.w.intrap = false) ∧
    (¬(SpecialReg.ocycl = .rlane ∨ SpecialReg.ocycl = .fflags ∨ SpecialReg.ocycl = .trappc)) ∧
    (fld 0x8D000FFF 31 1 = 1 ∧ fld 0x8D000FFF 24 6 = 0x0D ∧ SpecialReg.ofCode (fld 0x8D000FFF 0 12) = none) ∧
    (fld 0x8D001000 24 6 = 0x0D ∧ fld 0x8D001000 12 6 ≠ 0 ∧ SpecialReg.ofCode (fld 0x8D001000 0 12) ≠ none) ∧
    fld 0x8E040061 31 1 = 1 ∧ fld 0x8E040061 24 6 = 0x0E ∧ fld 0x8E040061 18 6 ≠ 0 ∧
      SpecialReg.ofCode (fld 0x8E040061 0 12) = some .trappc ∧ SpecialReg.trappc.writable = true :=
  ⟨may_issue (fun c => c.w.intrap = false) (by decide +kernel), by decide⟩
/-- An empty mask, one whose first lane is 63, and seven lanes to reduce. -/
theorem witness_MasksLaneReads_undeclared :
    ∃ c, Issues (groupWith fun g => { g with vdecl := 63 }) c 1 ∧ c.g.vdecl ≤ 63 ∧ c.w.intrap = false :=
  may_issue (fun c => c.g.vdecl ≤ 63 ∧ c.w.intrap = false) (by decide +kernel)
theorem witness_MasksLaneReads : (∃ c, Issues base c 1 ∧ (c.w.mreg 5).val = 0 ∧ (63 : Reg).val < c.g.vdecl) ∧
    (∃ c, Issues (waveWith fun w => w.putM 5 (1 <<< 63) 0) c 1 ∧ (c.w.mreg 5).val.getLsbD 63 = true ∧ ∀ n, n < 63 → (c.w.mreg 5).val.getLsbD n = false) ∧
    (∃ c, Issues (waveWith packed) c 1 ∧ ((List.range 64).filter fun l => c.act.getLsbD l).length = 5 + 1) ∧
    fld 0x8F00000B 31 1 = 1 ∧ fld 0x8F00000B 24 6 = 0x0F ∧ 11 ≤ fld 0x8F00000B 0 6 ∧ fld 0xB8000001 24 6 = 0x38 ∧ fld 0xB8000001 0 6 ≠ 0 ∧
      fld 0xA7000008 24 6 = 0x27 ∧ 8 ≤ fld 0xA7000008 0 6 :=
  ⟨may_issue (fun c => (c.w.mreg 5).val = 0 ∧ 63 < c.g.vdecl) (by decide +kernel),
   may_issue (fun c => (c.w.mreg 5).val.getLsbD 63 = true ∧ ∀ n, n < 63 → (c.w.mreg 5).val.getLsbD n = false) (by decide +kernel),
   may_issue (fun c => ((List.range 64).filter fun l => c.act.getLsbD l).length = 5 + 1) (by decide +kernel), by decide⟩
/-- The first and the last target of a slot, one beyond each, and word 2,047. -/
theorem witness_Branches : (∃ c, IssuesX (standing 5) c ∧ ((c.pc % 2048 : Nat) : Int) + (-5 : BitVec 18).toInt = 0 ∧ c.pc % 2048 ≠ 2047) ∧
    (∃ c, IssuesX (standing 5) c ∧ ((c.pc % 2048 : Nat) : Int) + (2042 : BitVec 18).toInt = 2047) ∧
    (∃ c, IssuesX (standing 5) c ∧ ((c.pc % 2048 : Nat) : Int) + (-6 : BitVec 18).toInt = -1 ∧ c.w.intrap = false) ∧
    (∃ c, IssuesX (standing 5) c ∧ ((c.pc % 2048 : Nat) : Int) + (2043 : BitVec 18).toInt = 2048 ∧ c.w.intrap = false) ∧
    (∃ c, IssuesX (standing 2047) c ∧ c.pc % 2048 = 2047 ∧ c.w.intrap = false) ∧
    (∃ c, IssuesX (waveWith (setS 9 2047)) c ∧ (sval c.w 9).toNat < 2 ^ 15 ∧ (sval c.w 9).toNat / 2048 = c.pc / 2048) ∧
    (∃ c, IssuesX (waveWith (setS 9 2048)) c ∧ (sval c.w 9).toNat / 2048 ≠ c.pc / 2048 ∧ c.w.intrap = false) ∧
    ∃ c, IssuesX (waveWith (setS 9 0x8000)) c ∧ 2 ^ 15 ≤ (sval c.w 9).toNat ∧ c.w.intrap = false :=
  ⟨may_transfer (fun c => ((c.pc % 2048 : Nat) : Int) + (-5 : BitVec 18).toInt = 0 ∧ c.pc % 2048 ≠ 2047) (by decide +kernel),
   may_transfer (fun c => ((c.pc % 2048 : Nat) : Int) + (2042 : BitVec 18).toInt = 2047) (by decide +kernel),
   may_transfer (fun c => ((c.pc % 2048 : Nat) : Int) + (-6 : BitVec 18).toInt = -1 ∧ c.w.intrap = false) (by decide +kernel),
   may_transfer (fun c => ((c.pc % 2048 : Nat) : Int) + (2043 : BitVec 18).toInt = 2048 ∧ c.w.intrap = false) (by decide +kernel),
   may_transfer (fun c => c.pc % 2048 = 2047 ∧ c.w.intrap = false) (by decide +kernel),
   may_transfer (fun c => (sval c.w 9).toNat < 2 ^ 15 ∧ (sval c.w 9).toNat / 2048 = c.pc / 2048) (by decide +kernel),
   may_transfer (fun c => (sval c.w 9).toNat / 2048 ≠ c.pc / 2048 ∧ c.w.intrap = false) (by decide +kernel),
   may_transfer (fun c => 2 ^ 15 ≤ (sval c.w 9).toNat ∧ c.w.intrap = false) (by decide +kernel)⟩
theorem witness_EndingWaiting : (∃ c, IssuesX base c ∧ c.w.phase = 0) ∧ (∃ c, Issues base c 1 ∧ c.w.phase = 0) ∧
    wf (.framew false true 8) = true ∧ (∃ c, Resumes (resumed (.framew false true 8) 1) c (.framew false true 8) ∧ c.w.phase = 1 ∧ c.g.counting = some 0) ∧
    ∃ c, Resumes (resumed (.framew true false 0) 2) c (.framew true false 0) ∧ c.w.phase = 2 :=
  ⟨may_transfer (fun c => c.w.phase = 0) (by decide +kernel), may_issue (fun c => c.w.phase = 0) (by decide +kernel), by decide,
   may_resume (fun c => c.w.phase = 1 ∧ c.g.counting = some 0) (by decide +kernel), may_resume (fun c => c.w.phase = 2) (by decide +kernel)⟩

/-- A kernel's segment slot, a length and an aligned image; and the slot in another state. -/
def fetching (st : SlotState) (va n : Word) : State :=
  (withSlot 3 fun sl => { sl with st, kernel := some 0, cause := 7, addr := 64 }).updWave ⟨0, 0⟩ fun w => setS 4 va (setS 6 n w)
theorem witness_Segments :
    (∃ c, Issues (fetching .empty 64 2048) c 1 ∧ ((fetching .empty 64 2048).core c.core).slots.length = 16 ∧
      slotGranted ((fetching .empty 64 2048).core c.core) 3 c.g.kernel = true ∧ 1 ≤ (sval c.w 6).toNat ∧ (sval c.w 6).toNat ≤ 2048 ∧ c.w.pair 4 % 64 = 0 ∧
      ((List.range 64).any fun l => !c.w.exited.getLsbD l && c.w.pcAt l / 2048 == 3) = false ∧ ((fetching .empty 64 2048).core c.core).slotLoading 3 = false) ∧
    (∃ c, Issues (fetching .loading 0 1) c 1 ∧ ((fetching .loading 0 1).core c.core).slotLoading 3 = true) ∧
    (∃ c, Issues (fetching .empty 65 1) c 1 ∧ c.w.pair 4 % 64 ≠ 0 ∧ c.w.intrap = false) ∧
    (∃ c, Issues (fetching .empty 0 2049) c 1 ∧ 2048 < (sval c.w 6).toNat ∧ privileged base c.g = true) ∧
    (∃ c, Issues base c 1 ∧ (sval c.w 6).toNat = 0 ∧ slotGranted (base.core c.core) 3 c.g.kernel = false ∧
      ((List.range 64).any fun l => !c.w.exited.getLsbD l && c.w.pcAt l / 2048 == 0) = true) ∧
    (((fetching .held 0 1).core 0).slot 3).st = .held ∧ (((fetching .failed 0 1).core 0).slot 3).st = .failed ∧
    (((fetching .present 0 1).core 0).slot 3).st = .present ∧ even 4 = true :=
  ⟨may_issue (fun c => ((fetching .empty 64 2048).core c.core).slots.length = 16 ∧
      slotGranted ((fetching .empty 64 2048).core c.core) 3 c.g.kernel = true ∧ 1 ≤ (sval c.w 6).toNat ∧ (sval c.w 6).toNat ≤ 2048 ∧ c.w.pair 4 % 64 = 0 ∧
      ((List.range 64).any fun l => !c.w.exited.getLsbD l && c.w.pcAt l / 2048 == 3) = false ∧
      ((fetching .empty 64 2048).core c.core).slotLoading 3 = false) (by decide +kernel),
   may_issue (fun c => ((fetching .loading 0 1).core c.core).slotLoading 3 = true) (by decide +kernel),
   may_issue (fun c => c.w.pair 4 % 64 ≠ 0 ∧ c.w.intrap = false) (by decide +kernel),
   may_issue (fun c => 2048 < (sval c.w 6).toNat ∧ privileged base c.g = true) (by decide +kernel),
   may_issue (fun c => (sval c.w 6).toNat = 0 ∧ slotGranted (base.core c.core) 3 c.g.kernel = false ∧
      ((List.range 64).any fun l => !c.w.exited.getLsbD l && c.w.pcAt l / 2048 == 0) = true) (by decide +kernel), by decide +kernel⟩
/-- Word indices 2,047 and 2,048, and each state of the slot that a jump finds. -/
def jumping (st : SlotState) (k : Option Nat) (x : Word) : State :=
  ((resumed (.jmpf false 9 3 0) 1).updCore 0 (·.updSlot 3 fun sl => { sl with st, kernel := k })).updWave ⟨0, 0⟩ (setS 9 x)
theorem witness_Segments_jump : (∃ c, IssuesX base c ∧ c.w.phase = 0) ∧
    (∃ c, Resumes (jumping .present (some 0) 2047) c (.jmpf false 9 3 0) ∧ c.w.phase = 1 ∧ 8 * 0 + (sval c.w 9).toNat ≤ 2047 ∧
      (((jumping .present (some 0) 2047).core c.core).slot 3).st = .present ∧ slotGranted ((jumping .present (some 0) 2047).core c.core) 3 c.g.kernel = true) ∧
    (∃ c, Resumes (jumping .present none 2048) c (.jmpf false 9 3 0) ∧ 2047 < 8 * 0 + (sval c.w 9).toNat ∧ c.w.intrap = false ∧
      slotGranted ((jumping .present none 2048).core c.core) 3 c.g.kernel = false ∧ 3 ≠ c.pc / 2048) ∧
    (((jumping .loading none 0).core 0).slot 3).st = .loading ∧ (((jumping .empty none 0).core 0).slot 3).st = .empty :=
  ⟨may_transfer (fun c => c.w.phase = 0) (by decide +kernel),
   may_resume (fun c => c.w.phase = 1 ∧ 8 * 0 + (sval c.w 9).toNat ≤ 2047 ∧ (((jumping .present (some 0) 2047).core c.core).slot 3).st = .present ∧
      slotGranted ((jumping .present (some 0) 2047).core c.core) 3 c.g.kernel = true) (by decide +kernel),
   may_resume (fun c => 2047 < 8 * 0 + (sval c.w 9).toNat ∧ c.w.intrap = false ∧
      slotGranted ((jumping .present none 2048).core c.core) 3 c.g.kernel = false ∧ 3 ≠ c.pc / 2048) (by decide +kernel), by decide +kernel⟩
theorem witness_TrapEntry :
    let w0 : State := waveWith fun w => { w with status := .parked (.trap softTrap 1 0 0) }
    (∃ g w p k, w0.group? 0 = some g ∧ g.waves[0]? = some w ∧ g.place = some p ∧ w0.kernel? g.kernel = some k ∧ w.pend = [] ∧ w.eseen = g.eseq ∧
      w.status = .parked (.trap softTrap 1 0 0) ∧ ((w0.core p.core).slot 15).st = .present) ∧
    (∃ w, (waveWith fun w => { w with intrap := true }).wave? ⟨0, 0⟩ = some w ∧ w.intrap = true) ∧
    (((withSlot 15 fun sl => { sl with st := .held }).core 0).slot 15).st = .held ∧ (((withSlot 15 fun sl => { sl with st := .empty }).core 0).slot 15).st = .empty :=
  ⟨⟨_, _, _, _, rfl, rfl, rfl, rfl, rfl, rfl, rfl, rfl⟩, ⟨_, rfl, rfl⟩, by decide +kernel⟩
theorem witness_SoftwareTraps : (∃ c, Issues base c 1 ∧ c.w.intrap = false ∧ (ctxOf base c).latched.debug = false) ∧
    (let s := base.setCtxs [{ loaderCtx with latched := { loaderCtx.latched with debug := true } }]
     ∃ c, Issues s c 1 ∧ (ctxOf s c).latched.debug = true ∧ s.timed c.g.owner = false) ∧
    (∃ c, IssuesX (waveWith fun w => { w with intrap := true }) c ∧ c.w.phase = 0 ∧ c.w.intrap = true) ∧
    (let s := (resumed (.rte false) 1).updWave ⟨0, 0⟩ fun w => { w with intrap := true, tpcv := 7 :: List.replicate 63 5 }
     ∃ c, Resumes s c (.rte false) ∧ c.w.phase = 1 ∧ c.w.exited.getLsbD 63 = false ∧ (c.w.tpcv.getD 63 0).toNat < 2 ^ 31 ∧
      ∀ n, n < 64 → (c.w.tpcv.getD 63 0).toNat % 2 ^ 15 ≤ (c.w.tpcv.getD n 0).toNat % 2 ^ 15) :=
  ⟨may_issue (fun c => c.w.intrap = false ∧ (ctxOf base c).latched.debug = false) (by decide +kernel),
   may_issue (fun c => (ctxOf (base.setCtxs [{ loaderCtx with latched := { loaderCtx.latched with debug := true } }]) c).latched.debug = true ∧
     (base.setCtxs [{ loaderCtx with latched := { loaderCtx.latched with debug := true } }]).timed c.g.owner = false) (by decide +kernel),
   may_transfer (fun c => c.w.phase = 0 ∧ c.w.intrap = true) (by decide +kernel),
   may_resume (fun c => c.w.phase = 1 ∧ c.w.exited.getLsbD 63 = false ∧ (c.w.tpcv.getD 63 0).toNat < 2 ^ 31 ∧
      ∀ n, n < 64 → (c.w.tpcv.getD 63 0).toNat % 2 ^ 15 ≤ (c.w.tpcv.getD n 0).toNat % 2 ^ 15) (by decide +kernel)⟩
theorem witness_Hypervectors : (∃ c, Issues base c 1 ∧ (15 : Fin 16).val < c.g.hdecl ∧ (3 : Fin 4).val < c.g.adecl) ∧ wf (.htie false 0 .reg 15) = true ∧
    fld 0xBB000003 31 1 = 1 ∧ fld 0xBB000003 24 6 = 0x3B ∧ 3 ≤ fld 0xBB000003 0 6 ∧ (fld 0xBB000040 0 6 = 0 ∧ fld 0xBB000040 6 6 ≠ 0) ∧
    (fld 0xBB001001 0 6 = 1 ∧ fld 0xBB001001 12 4 ≠ 0) ∧ fld 0xBB000042 0 6 = 2 ∧ fld 0xBB000042 6 6 ≠ 0 :=
  ⟨may_issue (fun c => 15 < c.g.hdecl ∧ 3 < c.g.adecl) (by decide +kernel), by decide⟩
/-- A range of 16 entries: its last, the one behind it, none to search, a search that ends at the last and one that ends behind it. -/
theorem witness_Seedbank :
    (let s := waveWith fun w => setS 4 15 (setS 5 1 w)
     ∃ c, Issues s c 1 ∧ (15 : Fin 16).val < c.g.hdecl ∧ (sval c.w 4).toNat < (seedRange s c).2 ∧ Room c ∧ 0 < (sval c.w 5).toNat ∧
      (sval c.w 4).toNat + (sval c.w 5).toNat ≤ (seedRange s c).2) ∧
    (let s := waveWith fun w => setS 4 16 w
     ∃ c, Issues s c 1 ∧ (seedRange s c).2 ≤ (sval c.w 4).toNat ∧ (sval c.w 5).toNat = 0) ∧
    (let s := waveWith fun w => setS 4 15 (setS 5 2 w)
     ∃ c, Issues s c 1 ∧ 0 < (sval c.w 5).toNat ∧ (seedRange s c).2 < (sval c.w 4).toNat + (sval c.w 5).toNat) ∧ even 4 = true ∧
    ∀ v ∈ base.mem.seedw, v.1 < base.now :=
  ⟨may_issue (fun c => 15 < c.g.hdecl ∧ (sval c.w 4).toNat < (seedRange (waveWith fun w => setS 4 15 (setS 5 1 w)) c).2 ∧ c.w.entries < 32 ∧
      0 < (sval c.w 5).toNat ∧ (sval c.w 4).toNat + (sval c.w 5).toNat ≤ (seedRange (waveWith fun w => setS 4 15 (setS 5 1 w)) c).2) (by decide +kernel),
   may_issue (fun c => (seedRange (waveWith fun w => setS 4 16 w) c).2 ≤ (sval c.w 4).toNat ∧ (sval c.w 5).toNat = 0) (by decide +kernel),
   may_issue (fun c => 0 < (sval c.w 5).toNat ∧ (seedRange (waveWith fun w => setS 4 15 (setS 5 2 w)) c).2 < (sval c.w 4).toNat + (sval c.w 5).toNat)
     (by decide +kernel), by decide, by decide +kernel⟩

/-- Offsets in scratch for every lane: the last word, a misaligned one, one that ends behind the window. -/
def offsets (x : Word) : State := scratchy.updWave ⟨0, 0⟩ fun w => fill 9 x (setS 4 x w)
theorem witness_ScratchAccesses :
    (∃ c, Issues (offsets 8188) c 1 ∧ InV c [10, 9] ∧ Room c ∧ (∀ l ∈ vecLanes c .scratch 0 9 10 .w, l.va % 4 = 0) ∧
      (∀ l ∈ vecLanes c .scratch 0 9 10 .w, l.va + 4 ≤ 1024 * c.g.kib ∧ l.va + 4 ≤ frontBase) ∧
      (∀ l ∈ vecLanes c .scratch 0 9 10 .w, scratchOk c.g l.va 4 true = true) ∧
      scoreHit (offsets 8188) c.core c.g.gid ((vecLanes c .scratch 0 9 10 .w).map (·.va)) ((vecLanes c .scratch 0 9 10 .w).map (·.va + 3)) = false) ∧
    (∃ c, Issues (offsets 8190) c 1 ∧ (∃ l, (vecLanes c .scratch 0 9 10 .w).find? (fun l => l.va % 4 != 0) = some l) ∧ c.w.intrap = false) ∧
    (∃ c, Issues (offsets 8192) c 1 ∧ (∀ l ∈ vecLanes c .scratch 0 9 10 .w, l.va % 4 = 0) ∧
      (∃ l, (vecLanes c .scratch 0 9 10 .w).find? (fun l => decide (1024 * c.g.kib < l.va + 4)) = some l) ∧ c.w.intrap = false) ∧
    (let s := (offsets 8188).updCore 0 fun k => { k with score := [⟨0, 0, 8191, 8191⟩] }
     ∃ c, Issues s c 1 ∧ scoreHit s c.core c.g.gid [8188] [8191] = true) ∧
    wf (.sst false 10 4 .w .scratch false 0) = true ∧ wf (.sld false 10 4 .d .scratch 31) = true :=
  ⟨may_issue (fun c => (∀ r ∈ [10, 9], r < c.g.vdecl) ∧ c.w.entries < 32 ∧ (∀ l ∈ vecLanes c .scratch 0 9 10 .w, l.va % 4 = 0) ∧
      (∀ l ∈ vecLanes c .scratch 0 9 10 .w, l.va + 4 ≤ 1024 * c.g.kib ∧ l.va + 4 ≤ frontBase) ∧
      (∀ l ∈ vecLanes c .scratch 0 9 10 .w, scratchOk c.g l.va 4 true = true) ∧
      scoreHit (offsets 8188) c.core c.g.gid ((vecLanes c .scratch 0 9 10 .w).map (·.va)) ((vecLanes c .scratch 0 9 10 .w).map (·.va + 3)) = false)
     (by decide +kernel),
   (by
     obtain ⟨c, h, k, q⟩ := may_issue (s := offsets 8190) (n := 1)
       (fun c => ((vecLanes c .scratch 0 9 10 .w).find? (fun l => l.va % 4 != 0)).isSome = true ∧ c.w.intrap = false) (by decide +kernel)
     exact ⟨c, h, Option.isSome_iff_exists.mp k, q⟩),
   (by
     obtain ⟨c, h, j, k, q⟩ := may_issue (s := offsets 8192) (n := 1) (fun c => (∀ l ∈ vecLanes c .scratch 0 9 10 .w, l.va % 4 = 0) ∧
       ((vecLanes c .scratch 0 9 10 .w).find? (fun l => decide (1024 * c.g.kib < l.va + 4))).isSome = true ∧ c.w.intrap = false) (by decide +kernel)
     exact ⟨c, h, j, Option.isSome_iff_exists.mp k, q⟩),
   may_issue (fun c => scoreHit ((offsets 8188).updCore 0 fun k => { k with score := [⟨0, 0, 8191, 8191⟩] }) c.core c.g.gid [8188] [8191] = true)
     (by decide +kernel), by decide⟩

/-- A page of 64 KiB that the core's TLB holds, and an address of it in a pair. -/
def mapped (va : Word) : State :=
  (base.updCore 0 fun k => { k with utlb := [⟨0, 0, 0x10000, 0x10000, 0x200000, .loc, 1, 0, 0, true, true⟩] }).updWave ⟨0, 0⟩ fun w =>
    { setS 4 va w with exited := BitVec.allOnes 64 <<< 2 }
def oneLane (kind : AccKind) (va : Nat) (dst : List Target) : Acc := plainAcc kind 4 [⟨0, va, 7, 0⟩] dst 1 1 false false
theorem witness_GlobalStores : even 4 = true ∧
    (∃ c, Issues (mapped 0x1FFFC) c 1 ∧ InV c [10, 9] ∧ (15 : Fin 16).val < c.g.hdecl ∧ (∀ l ∈ vecLanes c .global 4 9 10 .w, l.va % 4 = 0) ∧
      ((fabricNeed c.who (oneLane .store 0x1FFFC []) (atIssue (mapped 0x1FFFC) c)).1 = 0 ∧ NoFailure c ∧ c.g.det = false ∧
        (checksAt (mapped 0x1FFFC) c (oneLane .store 0x1FFFC [])).ok.map (·.pa) = [0x20FFFC] ∧
        (checksAt (mapped 0x1FFFC) c (oneLane .store 0x1FFFC [])).bad = none)) ∧
    (∃ c, Issues (mapped 0x1FFFE) c 1 ∧ ((vecLanes c .global 4 9 10 .w).find? (fun l => l.va % 4 != 0)).isSome = true ∧ c.w.intrap = false) ∧
    ∃ c, Issues base c 1 ∧ (checksAt base c (oneLane .store 0x1FFFC [])).bad.isSome = true ∧ (vecLanes c .const 4 9 10 .w).length = 64 :=
  ⟨by decide, may_issue (fun c => (∀ r ∈ [10, 9], r < c.g.vdecl) ∧ 15 < c.g.hdecl ∧ (∀ l ∈ vecLanes c .global 4 9 10 .w, l.va % 4 = 0) ∧
      ((fabricNeed c.who (oneLane .store 0x1FFFC []) (atIssue (mapped 0x1FFFC) c)).1 = 0 ∧ (∀ q ∈ c.w.pend, q.fail = none) ∧ c.g.det = false ∧
        (checksAt (mapped 0x1FFFC) c (oneLane .store 0x1FFFC [])).ok.map (·.pa) = [0x20FFFC] ∧
        (checksAt (mapped 0x1FFFC) c (oneLane .store 0x1FFFC [])).bad = none)) (by decide +kernel),
   may_issue (fun c => ((vecLanes c .global 4 9 10 .w).find? (fun l => l.va % 4 != 0)).isSome = true ∧ c.w.intrap = false) (by decide +kernel),
   may_issue (fun c => (checksAt base c (oneLane .store 0x1FFFC [])).bad.isSome = true ∧ (vecLanes c .const 4 9 10 .w).length = 64)
     (by decide +kernel)⟩
theorem witness_GlobalLoads : even 4 = true ∧ Space.const ≠ Space.scratch ∧
    ∃ c, Issues (mapped 0x10000) c 1 ∧ Room c ∧ InV c [10, 9] ∧ (∀ l ∈ vecLanes c .global 4 9 10 .w, l.va % 4 = 0) ∧ NoFailure c ∧ c.g.det = false ∧
      (fabricNeed c.who (oneLane .load 0x10000 [.v 10]) (atIssue (mapped 0x10000) c)).1 = 0 ∧
      (∀ k ∈ (checksAt (mapped 0x10000) c (oneLane .load 0x10000 [.v 10])).ok, k.t.typ = .loc ∧ k.pa % 64 + 4 ≤ 64 ∧ k.pa = 0x200000) ∧
      ((∀ x ∈ ((mapped 0x10000).core c.core).l1, x.pa ≠ 0x200000) ∧ ∀ y ∈ (mapped 0x10000).mem.l2, y.line.pa ≠ 0x200000) :=
  ⟨by decide, by decide, may_issue (fun c => c.w.entries < 32 ∧ (∀ r ∈ [10, 9], r < c.g.vdecl) ∧ (∀ l ∈ vecLanes c .global 4 9 10 .w, l.va % 4 = 0) ∧
      (∀ q ∈ c.w.pend, q.fail = none) ∧ c.g.det = false ∧ (fabricNeed c.who (oneLane .load 0x10000 [.v 10]) (atIssue (mapped 0x10000) c)).1 = 0 ∧
      (∀ k ∈ (checksAt (mapped 0x10000) c (oneLane .load 0x10000 [.v 10])).ok, k.t.typ = .loc ∧ k.pa % 64 + 4 ≤ 64 ∧ k.pa = 0x200000) ∧
      ((∀ x ∈ ((mapped 0x10000).core c.core).l1, x.pa ≠ 0x200000) ∧ ∀ y ∈ (mapped 0x10000).mem.l2, y.line.pa ≠ 0x200000)) (by decide +kernel)⟩
/-- A store out to a device register holds a wider atomic back. -/
def storing : State := let s := mapped 0x10000
  s.setMem { s.mem with stores := [⟨90, ⟨0, 0⟩, 0, 0, 0, .mmio, [], 1, true, false, false⟩] }
theorem witness_GlobalAtomics : even 4 = true ∧ (4 : Reg) ≠ 0 ∧
    (∃ c, Issues (mapped 0x10000) c 1 ∧ Room c ∧ InV c [10, 9] ∧ (11 : Nat) < c.g.vdecl ∧ (∀ l ∈ atomLanes c .global 4 9 10 false, l.va % 4 = 0) ∧
      c.w.phase = 0 ∧ NoFailure c ∧ c.g.det = false ∧ fenceCond (mapped 0x10000) c.ref ⟨true, true, true, true⟩ .pkg false = false) ∧
    (∃ c, Issues storing c 1 ∧ fenceCond storing c.ref ⟨true, true, true, true⟩ .pkg false = true ∧ c.w.phase = 0) ∧
    (∃ c, Resumes ((resumed (.satom false (.arith .add) .pkg 10 4) 3)) c (.satom false (.arith .add) .pkg 10 4) ∧ c.w.phase = 3 ∧ Room c) ∧
    ∃ c, Issues (mapped 0x10002) c 1 ∧ ((atomLanes c .global 4 9 10 false).find? (fun l => l.va % 4 != 0)).isSome = true ∧ c.w.intrap = false :=
  ⟨by decide, by decide, may_issue (fun c => c.w.entries < 32 ∧ (∀ r ∈ [10, 9], r < c.g.vdecl) ∧ 11 < c.g.vdecl ∧
      (∀ l ∈ atomLanes c .global 4 9 10 false, l.va % 4 = 0) ∧ c.w.phase = 0 ∧ (∀ q ∈ c.w.pend, q.fail = none) ∧ c.g.det = false ∧
      fenceCond (mapped 0x10000) c.ref ⟨true, true, true, true⟩ .pkg false = false) (by decide +kernel),
   may_issue (fun c => fenceCond storing c.ref ⟨true, true, true, true⟩ .pkg false = true ∧ c.w.phase = 0) (by decide +kernel),
   may_resume (fun c => c.w.phase = 3 ∧ c.w.entries < 32) (by decide +kernel),
   may_issue (fun c => ((atomLanes c .global 4 9 10 false).find? (fun l => l.va % 4 != 0)).isSome = true ∧ c.w.intrap = false) (by decide +kernel)⟩

/-- The wave, a record of its return buffer, an MMA of its group, and a wave that is not privileged. -/
def c0 : WaveRef := ⟨0, 0⟩
def aPend : Pend := ⟨7, true, false, 1, 0, [], 0, 0, none, .none, 0, ""⟩
def aMma : Mma :=
  ⟨1, 0, 0, c0, 0, 0, [], Tid.reset, [0], [Tile.none], 0, 0, 1, [0], [], false, [], 0, false, .queued, false, 0, []⟩
def user : State := base.setCtxs [{ loaderCtx with latched := { loaderCtx.latched with system := false } }]

/-- A load of slots by the engine, past its last image. -/
def aLoad (kernel : Option Nat) (slots : List (Nat × Slot)) : Fetch := ⟨7, 0, 0, 0, kernel, c0, 0, false, some 1, true, false, [], 0, [], 0, slots⟩
/-- A request off the package, of a kind and type. -/
def aFab (kind : AccKind) (typ : MemType) : FabReq :=
  ⟨7, .wave, c0, 0, 7, 0, 0, 0, 0, typ, { oneLane kind 0x1000 [.v 5] with op := .arith .add }, [0x1000], 0x1000, 0, ⟨0, 1, 0, 0⟩, 0, false, true, false, false, true,
   0, 3, 2, false, none, false, none, [], .idle, false, none, [], none⟩
def fabbed (f : FabReq) : State := let s := waveWith fun w => { w with pend := [aPend], pathcnt := [1, 0, 0, 0, 0] }
  s.setMem { s.mem with fabs := [f] }
theorem witness_FencesBarriers :
    (∃ c, Issues storing c 1 ∧ outstanding storing c.ref ⟨false, false, true, false⟩ .wave = true) ∧
    (∃ c, Issues base c 1 ∧ outstanding base c.ref ⟨true, true, true, true⟩ .sys = false ∧ (∀ n ∈ c.w.pathcnt, n = 0) ∧ base.mem.fabs = [] ∧ c.w.phase = 0) ∧
    (∃ c, Issues (waveWith fun w => { w with pathcnt := [0, 0, 0, 0, 1] }) c 1 ∧ ∃ n ∈ c.w.pathcnt, n ≠ 0) ∧
    (∃ c, Issues (fabbed (aFab .store .peer)) c 1 ∧ ∃ f ∈ (fabbed (aFab .store .peer)).mem.fabs, f.w = c.ref ∧ f.src = .wave ∧ f.gone = false ∧
      f.typ.remote = true ∧ f.acc.kind = .store) ∧
    (fld 0xA3000000 31 1 = 1 ∧ fld 0xA3000000 24 6 = 0x23 ∧ fld 0xA3000000 5 4 = 0) :=
  ⟨may_issue _ (by decide +kernel), may_issue _ (by decide +kernel), may_issue _ (by decide +kernel), may_issue _ (by decide +kernel), by decide⟩
/-- An instance of the group's level: complete, one at which the wave has arrived, one that is broken; a kernel with no DIE set. -/
def barred (f : BarInst → BarInst) : State := base.setBars [f (newBar ⟨.grp, 0, 0, 15⟩)]
theorem witness_FencesBarriers_bar : wf (.bar false .both .grp 15) = true ∧ wf (.bar false .wait .die 3) = true ∧
    (∃ c, Issues (barred fun x => { x with phase := 3, last := [(c0, 2)] }) c 1 ∧ c.w.phase = 0 ∧
      (barAt (barred fun x => { x with phase := 3, last := [(c0, 2)] }) (barRef base c.g .grp 15)).last.find? (·.1 = c.ref) = some (c0, 2) ∧
      hasLevel base c.g.kernel .grp = true ∧ barWait base c.ref (levelScope .grp) false = false) ∧
    (∃ c, Issues (barred fun x => { x with done := true, arr := [c0] }) c 1 ∧ c.ref = c0 ∧
      (barAt (barred fun x => { x with done := true, arr := [c0] }) (barRef base c.g .grp 15)).done = true) ∧
    (∃ c, Issues storing c 1 ∧ barWait storing c.ref (levelScope .grp) false = true ∧ (barAt storing (barRef storing c.g .grp 15)).arr = []) ∧
    (∃ c, Resumes (resumed (.bar false .both .die 3) 1) c (.bar false .both .die 3) ∧ c.w.phase = 1 ∧ hasLevel base c.g.kernel .die = false ∧
      c.w.intrap = false ∧ c.w.target = 0) ∧
    (∃ c, Resumes (resumed (.bar false .both .die 3) 2) c (.bar false .both .die 3) ∧ c.w.phase = 2) ∧
    (barAt (barred fun x => { x with phase := 1 }) ⟨.grp, 0, 0, 15⟩).phase = 0 + 1 ∧
    (barAt (barred fun x => { x with broken := true }) ⟨.grp, 0, 0, 15⟩).broken = true :=
  ⟨by decide, by decide, may_issue _ (by decide +kernel), may_issue _ (by decide +kernel), may_issue _ (by decide +kernel),
   may_resume _ (by decide +kernel), may_resume _ (by decide +kernel), by decide +kernel⟩
/-- The last word of an exchange bank, the word behind it, a member that the cluster does not have, and a group without banks. -/
def exchanging (o : Word) : State :=
  (groupWith fun g => { g with xchg := true }).updWave ⟨0, 0⟩ fun w => { fill 9 o w with exited := BitVec.allOnes 64 <<< 2 }
theorem witness_ExchangeReduction : even 4 = true ∧ even 0 = true ∧
    (∃ c, Issues (exchanging 8188) c 1 ∧ (∀ r ∈ [3, 9], r < c.g.vdecl) ∧ c.g.xchg = true ∧
      (((List.range 64).filter fun l => c.act.getLsbD l).map fun l => (c.w.lane 9 l).toNat) = [8188, 8188] ∧
      (sval c.w 4).toNat < clusterSize (exchanging 8188) c.g.kernel ∧ c.w.intrap = false) ∧
    (∃ c, Issues (exchanging 8192) c 1 ∧ ((((List.range 64).filter fun l => c.act.getLsbD l).map fun l => (c.w.lane 9 l).toNat).find?
      (fun o => decide (8192 < o + 4))).isSome = true) ∧
    (∃ c, Issues (exchanging 2) c 1 ∧ ((((List.range 64).filter fun l => c.act.getLsbD l).map fun l => (c.w.lane 9 l).toNat).find?
      (fun o => o % 4 != 0)).isSome = true) ∧
    (∃ c, Issues ((exchanging 0).updWave ⟨0, 0⟩ (setS 4 1)) c 1 ∧ clusterSize base c.g.kernel ≤ (sval c.w 4).toNat) ∧
    (∃ c, Issues base c 1 ∧ c.g.xchg = false) ∧
    (let s := (exchanging 0).setXsts [⟨5, c0, 0, 0, 0, [(8191, 7)], 0⟩]
     ∃ t, s.xsts.find? (·.id == 5) = some t ∧ (t.bytes.map (·.1)).Nodup) ∧
    (∃ c, Issues base c 1 ∧ nredOut base c.ref = false ∧ sval c.w 5 = 0 ∧ c.w.entries < 32) ∧
    (∃ c, Issues (waveWith (setS 5 2)) c 1 ∧ nredOut (waveWith (setS 5 2)) c.ref = false ∧ sval c.w 5 ≠ 0) ∧
    ∃ c, Issues (waveWith fun w => { w with pend := [{ aPend with tag := "NRED" }] }) c 1 ∧
      nredOut (waveWith fun w => { w with pend := [{ aPend with tag := "NRED" }] }) c.ref = true :=
  ⟨by decide, by decide, may_issue _ (by decide +kernel), may_issue _ (by decide +kernel), may_issue _ (by decide +kernel),
   may_issue _ (by decide +kernel), may_issue _ (by decide +kernel), ⟨_, rfl, by decide⟩, may_issue _ (by decide +kernel),
   may_issue _ (by decide +kernel), may_issue _ (by decide +kernel)⟩
/-- A kernel of four claim slots: the last of them, and the one behind. -/
def claiming (slot : Word) : State :=
  (base.setHub { base.hub with kernels := [{ loaderKernel with clbase := some 0, clslots := 4 }] }).updWave ⟨0, 0⟩ fun w =>
    setS 6 slot (setS 5 (slot <<< 24) w)
theorem witness_ClaimInstructions :
    (∃ c, Issues (claiming 3) c 1 ∧ c.w.entries < 32 ∧ fenceCond (claiming 3) c.ref ⟨false, true, true, true⟩ .pkg false = false ∧
      podClaims (claiming 3) c.g = false ∧ (sval c.w 6).toNat % 256 < claimSlots (claiming 3) c.g ∧ (sval c.w 5).toNat / 2 ^ 24 < claimSlots (claiming 3) c.g) ∧
    (∃ c, Issues (claiming 4) c 1 ∧ claimSlots (claiming 4) c.g ≤ (sval c.w 6).toNat % 256 ∧ claimSlots (claiming 4) c.g ≤ (sval c.w 5).toNat / 2 ^ 24) ∧
    (∃ c, Issues storing c 1 ∧ fenceCond storing c.ref ⟨false, true, true, true⟩ .pkg false = true) ∧ even 20 = true :=
  ⟨may_issue _ (by decide +kernel), may_issue _ (by decide +kernel), may_issue _ (by decide +kernel), by decide⟩

/-- Identifiers in every state; a parameter block at offset 0; macro 0 held by the group, or not. -/
def aTid : Tid := { Tid.reset with st := .valid, rank := 1, dim := [4, 1, 1, 1, 1], base := 0x10000 }
def param (mask : Byte) : List Byte := [0, mask, 1, 0] ++ List.replicate 20 0 ++ leBytes 4 1024 ++ leBytes 4 512 ++ List.replicate 32 0
def engines (t : Tid) (mask : Byte) (tag : Option Nat) : State :=
  (((base.setCtxs [{ loaderCtx with tids := [(0, t)] }]).updGroup 0 fun g => { g with kib := 8, wlab := [0], win := cellPuts [] 0 (param mask) }).updCore 0
    fun k => { k with macros := [{ Macro.empty with tag }, Macro.empty, Macro.empty, Macro.empty] }).updWave ⟨0, 0⟩ (setS 8 64)
/-- A RELEASE of the wave that waits for the gate. -/
def releasing : State := base.setGate { base.gate with rels := [⟨7, c0, 7, 0, 0, 5, 0, 0, 8, 0, 0, 0, [], 0, false, none⟩] }
theorem witness_TensorEngines : even 4 = true ∧ (59 : Reg).val ≤ 59 ∧
    (let s := engines aTid 1 (some 0)
     ∃ c, Issues s c 1 ∧ c.w.pair 4 % 64 = 0 ∧ (∀ q ∈ c.w.pend, q.fail = none) ∧ c.w.entries < 32 ∧ (tidAt s c.g.ctx c.core 0).st = .valid ∧
       (tidAt s c.g.ctx c.core 0).fmt < 4 ∧ macroBusy s c.core 3 = false ∧ fenceCond s c.ref ⟨true, true, true, true⟩ .pkg false = false ∧
       3 < (s.core c.core).macros.length ∧ scratchOk c.g 0 64 true = true ∧ (sval c.w 0).toNat = 0 ∧ paramOk (leBytes 64 (scratchVal c.g 0 64)) = true ∧
       scratchOk c.g 1024 512 false = true ∧ maskMacros (paramVal (leBytes 64 (scratchVal c.g 0 64)) 1 1) = [0] ∧
       ((s.core c.core).macros.getD 0 Macro.empty).tag = some c.g.gid ∧ queuedMmas s c.core < 16) ∧
    (let s := engines { aTid with st := .pending } 0 none
     ∃ c, Issues s c 1 ∧ (tidAt s c.g.ctx c.core 0).st = .pending ∧ paramOk (leBytes 64 (scratchVal c.g 0 64)) = false ∧ c.w.intrap = false ∧
       ((s.core c.core).macros.getD 0 Macro.empty).tag ≠ some c.g.gid ∧ (tidAt s c.g.ctx c.core 255).st = .invalid 1) ∧
    (let s := (engines { aTid with fmt := 4 } 1 none).updWave ⟨0, 0⟩ fun w => setS 4 63 (setS 8 8192 w)
     ∃ c, Issues s c 1 ∧ 4 ≤ (tidAt s c.g.ctx c.core 0).fmt ∧ c.w.pair 4 % 64 ≠ 0 ∧ (sval c.w 8).toNat % 64 = 0 ∧ scratchOk c.g (sval c.w 8).toNat 64 true = false ∧
       (sval c.w 4).toNat % 64 ≠ 0 ∧ scratchOk c.g 8192 512 false = false) ∧
    (let s := (engines aTid 1 (some 0)).setEng { base.eng with mmas := List.replicate 16 aMma }
     ∃ c, Issues s c 1 ∧ 16 ≤ queuedMmas s c.core ∧ macroBusy s c.core 0 = true) ∧
    (∃ c, Issues releasing c 1 ∧ c.w.pair 4 % 64 = 0 ∧ gateOut releasing c.ref = true) ∧
    ∃ c, Issues storing c 1 ∧ gateOut storing c.ref = false ∧ fenceCond storing c.ref ⟨true, true, true, true⟩ .pkg false = true :=
  ⟨by decide, by decide, may_issue _ (by decide +kernel), may_issue _ (by decide +kernel), may_issue _ (by decide +kernel),
   may_issue _ (by decide +kernel), may_issue _ (by decide +kernel), may_issue _ (by decide +kernel)⟩
/-- s16 to s23 name identifiers 0 and 1, an origin and a counter. -/
def copying (t u : Tid) (low : Word) (q : Word) : State :=
  ((base.setCtxs [{ loaderCtx with tids := [(0, t), (1, u)] }]).updWave ⟨0, 0⟩ fun w => setS 16 0x100 (setS 17 low (setS 22 q w))).updGroup 0 fun g =>
    { g with kib := 8, wlab := [0] }
def pads : Tid := { aTid with scratch := true, base := 8188 }
/-- A counter short of the value, in a group whose engine has failed. -/
def cfailed : State :=
  ((resumed (.cwait false 4 6) 2).updGroup 0 fun g => { g with eseq := 1 }).updWave ⟨0, 0⟩ fun w => { setS 6 9 w with eseen := 0 }
theorem witness_CopyEngine : wf (.cpy false 16 .pkg true true) = true ∧ wf (.cwait false 4 6) = true ∧
    (let s := copying aTid pads 0 8
     ∃ c, Issues s c 1 ∧ (tidAt s c.g.ctx c.core 0).st = .valid ∧ (tidAt s c.g.ctx c.core 1).st = .valid ∧ (sval c.w 22).toNat % 8 = 0 ∧
       ((tidAt s c.g.ctx c.core 1).packed.span [] (tidAt s c.g.ctx c.core 1).packed = some (8188, 8191)) ∧ scratchOk c.g 8188 4 false = true ∧
       1 ≤ freeScore s c.core ∧ engineCommands s (quadOf c.core) c.g.owner < 64 ∧ (sval c.w 16).toNat / 256 % 256 = 1) ∧
    (let s := copying { aTid with fmt := 1 } { pads with base := 8189 } 1 4
     ∃ c, Issues s c 1 ∧ (sval c.w 22).toNat % 8 ≠ 0 ∧ c.w.intrap = false ∧ (tidAt s c.g.ctx c.core 0).fmt ≠ (tidAt s c.g.ctx c.core 1).fmt ∧
       (tidAt s c.g.ctx c.core 0).fmt = 1 ∧ (sval c.w 17).toNat % 2 = 1 ∧ scratchOk c.g 8189 4 false = false) ∧
    (let s := copying { aTid with st := .pending } Tid.reset 0 8
     ∃ c, Issues s c 1 ∧ (tidAt s c.g.ctx c.core 0).st = .pending ∧ (tidAt s c.g.ctx c.core 1).st = .invalid 1) ∧
    (let s := copying aTid aTid 0 8
     ∃ c, Issues s c 1 ∧ (tidAt s c.g.ctx c.core 0).scratch = false ∧ (tidAt s c.g.ctx c.core 1).scratch = false ∧ (s.core c.core).spF = 0) ∧
    (let s := ((copying pads pads 0 8).updCore 0 fun k => { k with score := List.replicate 31 ⟨0, 0, 0, 0⟩ }).setEng
       { base.eng with fetch := List.replicate 64 (aLoad none []) }
     ∃ c, Issues s c 1 ∧ freeScore s c.core < 2 ∧ 64 ≤ engineCommands s (quadOf c.core) c.g.owner) ∧
    (let s := (waveWith fun w => { setS 4 8 w with eseen := 0 }).updGroup 0 fun g => { g with eseq := 1 }
     ∃ c, Issues s c 1 ∧ c.w.phase = 0 ∧ c.w.pair 4 % 8 = 0 ∧ c.w.eseen ≠ c.g.eseq ∧ c.w.intrap = false) ∧
    (∃ c, Issues releasing c 1 ∧ c.w.phase = 0 ∧ c.w.pair 4 % 8 = 0 ∧ c.w.eseen = c.g.eseq ∧ gateOut releasing c.ref = true) ∧
    (∃ c, Resumes (resumed (.cwait false 4 6) 3) c (.cwait false 4 6) ∧ c.w.phase = 3 ∧ c.w.intrap = false) ∧
    (∃ c, Issues (waveWith (setS 4 4)) c 1 ∧ c.w.pair 4 % 8 ≠ 0) ∧
    (∃ c, Resumes (resumed (.cwait false 4 6) 2) c (.cwait false 4 6) ∧ c.w.phase = 2 ∧ c.w.pair 6 ≤ c.w.target) ∧
    ∃ c, Resumes cfailed c (.cwait false 4 6) ∧ c.w.phase = 2 ∧ c.w.target < c.w.pair 6 ∧ c.w.pair 4 % 8 = 0 ∧ c.w.eseen ≠ c.g.eseq ∧ c.w.intrap = false :=
  ⟨by decide, by decide, may_issue _ (by decide +kernel), may_issue _ (by decide +kernel), may_issue _ (by decide +kernel),
   may_issue _ (by decide +kernel), may_issue _ (by decide +kernel), may_issue _ (by decide +kernel), may_issue _ (by decide +kernel),
   may_resume _ (by decide +kernel), may_issue _ (by decide +kernel), may_resume _ (by decide +kernel), may_resume _ (by decide +kernel)⟩
theorem witness_ReleaseLaunch : even 4 = true ∧ even 6 = true ∧
    (∃ c, Issues releasing c 1 ∧ c.w.pair 4 % 8 = 0 ∧ c.w.pair 6 % 8 = 0 ∧ (sval c.w 8).toNat % 8 = 0 ∧ gateOut releasing c.ref = true) ∧
    (∃ c, Issues base c 1 ∧ c.w.pair 4 % 64 = 0 ∧ c.w.pair 6 % 8 = 0 ∧ (sval c.w 8).toNat % 8 = 0 ∧ (∀ q ∈ c.w.pend, q.fail = none) ∧
      gateOut base c.ref = false ∧ fenceCond base c.ref ⟨false, false, true, false⟩ .pkg true = false ∧
      fenceCond base c.ref ⟨true, true, true, true⟩ .sys false = false) ∧
    (∃ c, Issues (waveWith fun w => setS 4 4 w) c 1 ∧ c.w.pair 4 % 8 ≠ 0 ∧ c.w.intrap = false) ∧
    (∃ c, Issues (waveWith fun w => setS 4 56 (setS 6 7 w)) c 1 ∧ c.w.pair 4 % 8 = 0 ∧ c.w.pair 6 % 8 ≠ 0 ∧ c.w.pair 4 % 64 ≠ 0) ∧
    (∃ c, Issues (waveWith fun w => setS 8 1 w) c 1 ∧ (sval c.w 8).toNat % 8 ≠ 0) ∧
    (∃ c, Issues storing c 1 ∧ c.w.pair 6 % 64 = 0 ∧ fenceCond storing c.ref ⟨false, false, true, false⟩ .pkg true = true ∧
      fenceCond storing c.ref ⟨true, true, true, true⟩ .sys false = true) ∧
    ∃ c, Issues (waveWith fun w => { w with pend := [{ aPend with fail := some ⟨permFault, 0, 0, false, false⟩ }] }) c 1 ∧
      ¬∀ q ∈ c.w.pend, q.fail = none :=
  ⟨by decide, by decide, may_issue _ (by decide +kernel), may_issue _ (by decide +kernel), may_issue _ (by decide +kernel), may_issue _ (by decide +kernel),
   may_issue _ (by decide +kernel), may_issue _ (by decide +kernel), may_issue _ (by decide +kernel)⟩
theorem witness_LabelsAndTranslations : even 4 = true ∧ even 62 = true ∧ wf (.tlbinv false .page 4 2) = true ∧
    (∃ c, Issues (mapped 0x1FFFF) c 1 ∧ 63 < c.g.vdecl ∧ 15 < c.g.hdecl ∧ 3 < c.g.adecl ∧ c.w.entries < 32 ∧ privileged (mapped 0x1FFFF) c.g = true ∧
      c.w.phase = 0 ∧ fenceCond (mapped 0x1FFFF) c.ref ⟨true, true, true, true⟩ .sys false = false ∧
      (translate c.core c.g.owner c.g.ctx (c.w.pair 4) .load (atIssue (mapped 0x1FFFF) c)).1.res.toOption.isSome = true) ∧
    (∃ c, Issues user c 1 ∧ privileged user c.g = false ∧ c.w.intrap = false) ∧
    ∃ c, Issues storing c 1 ∧ privileged storing c.g = true ∧ c.w.phase = 0 ∧ fenceCond storing c.ref ⟨true, true, true, true⟩ .sys false = true :=
  ⟨by decide, by decide, by decide, may_issue _ (by decide +kernel), may_issue _ (by decide +kernel), may_issue _ (by decide +kernel)⟩
theorem witness_StepRunsDecoded :
    (let s := placeWords [0x80240000] State.reset
     s.clk.stopped = false ∧ ∃ c, IssuesX s c ∧ marked s c = false ∧ ((s.core c.core).slot (c.pc / 2048)).st = .present ∧
       (decodeWords (((s.core c.core).slot (c.pc / 2048)).words.drop (c.pc % 2048))).toOption = some (.sadd false 9 0 0, 1)) ∧
    (let s := placeWords [0x11000001] State.reset
     ∃ c, IssuesX s c ∧ (decodeWords (((s.core c.core).slot (c.pc / 2048)).words.drop (c.pc % 2048))).toOption = none) ∧
    (∃ c, IssuesX (withSlot 0 fun sl => { sl with st := .failed }) c ∧ (((withSlot 0 fun sl => { sl with st := .failed }).core c.core).slot (c.pc / 2048)).st = .failed) ∧
    (∃ c, IssuesX (withSlot 0 fun sl => { sl with st := .empty }) c ∧ (((withSlot 0 fun sl => { sl with st := .empty }).core c.core).slot (c.pc / 2048)).st = .empty) ∧
    ∃ c, Resumes (resumed (.framew false false 0) 2) c (.framew false false 0) ∧ True :=
  ⟨⟨rfl, may_transfer _ (by decide +kernel)⟩, may_transfer _ (by decide +kernel), may_transfer _ (by decide +kernel), may_transfer _ (by decide +kernel),
   may_resume _ (by decide +kernel)⟩
/-- A kernel of 32 vector registers, 2 hypervector registers and no accumulator. -/
theorem witness_IssueChecks :
    (let s := groupWith fun g => { g with vdecl := 32, hdecl := 2, adecl := 0 }
     ∃ c, Issues s c 1 ∧ c.w.intrap = false ∧ (¬∀ r ∈ [32, 0, 0], r < c.g.vdecl) ∧ (¬∀ r ∈ [0, 2, 0], r < c.g.hdecl) ∧ ¬∀ r ∈ [0], r < c.g.adecl) ∧
    ∃ c, Issues user c 1 ∧ c.w.intrap = false ∧ privileged user c.g = false :=
  ⟨may_issue _ (by decide +kernel), may_issue _ (by decide +kernel)⟩
/-- A word that is no instruction and one with a reserved field, each at the issue address of a wave. -/
theorem witness_NoInstr :
    (let s := placeWords [7] State.reset
     s.clk.stopped = false ∧ ∃ c, Issues s c 1 ∧ marked s c = false ∧ c.w.intrap = false ∧ isBranch ([7].headD 0) = false ∧ isLit ([7].headD 0) = false ∧
       ((s.core c.core).slot (c.pc / 2048)).st = .present ∧ (((s.core c.core).slot (c.pc / 2048)).words.drop (c.pc % 2048)).headD 0 = 7) ∧
    (let s := placeWords [0x8A010000] State.reset
     ∃ c, Issues s c 1 ∧ isBranch ([0x8A010000].headD 0) = false ∧ isLit ([0x8A010000].headD 0) = false ∧ (((s.core c.core).slot (c.pc / 2048)).words.drop (c.pc % 2048)).headD 0 = 0x8A010000) :=
  ⟨⟨rfl, may_issue _ (by decide +kernel)⟩, may_issue _ (by decide +kernel)⟩

/-! ### States that meet the statements' hypotheses: the device's own steps -/

/-- An owner in a state, and the reset state with owners. -/
def anOwner (id : Fin 8) (st : OState) (timed : Bool) : Owner := { Owner.blank id with st, timed, spec := { loaderOwner.spec with id } }
def owned (l : List Owner) : State := State.reset.setOwners l
/-- A rota instance at its slot's first cycle, with requests of owners and of SYS, under a live table of one code. -/
def aReq (id owner : Nat) (sys : Bool) (legs : List Leg) : Req := ⟨id, owner, 0, 0, 0, legs, false, 0, 0, none, sys, .idle⟩
def hbm0 : Leg := .rota .hbm (.hbm 0 0)
def slots (code : BitVec 64) (l : List Req) : State :=
  let s := (owned [anOwner 1 .running true, anOwner 2 .running false]).setClk { State.reset.clk with cycle := 4096, boundary := 4352 }
  s.setRota { s.rota with live := List.replicate 9 code, reqs := l, insts := [⟨.hbm, .hbm 0 0, 2, l.map (·.id), some 4096⟩] }
theorem witness_SlotsCommits :
    let q := aReq 7 1 false [hbm0]
    let e := aReq 8 2 false [hbm0]
    let w := aReq 9 0 true [hbm0]
    (∃ x, (slots 0x1111111111111111 [q]).rota.insts.find? (·.inst = .hbm 0 0) = some x ∧ x.cls = .hbm ∧ x.next = some (slots 0 []).now) ∧
    (slotCode (slots 0x1111111111111111 [q]) .hbm 4096 = 1 ∧ (∃ x, (slots 0x1111111111111111 [q]).owner? 1 = some x ∧ x.st ≠ .retired) ∧
      oldest 4096 (fun r => r.owner == 1 && !r.sys) [q] = some q) ∧
    (slotCode (slots 0x9999999999999999 [w]) .hbm 4096 = 9 ∧ oldest 4096 (·.sys) [w] = some w) ∧
    (slotCode (slots 0x8888888888888888 [e]) .hbm 4096 = 8 ∧ elasticOrder (slots 0 []) 2 = [2] ∧
      oldest 4096 (fun r => r.owner == 2 && !r.sys) [e] = some e ∧ stressed (slots 0 []) (.hbm 0 0) 2 = false) ∧
    (let s := slots 0 [{ aReq 7 1 false [hbm0, .hold 3] with adm := some (4096 - service .hbm) }]
     ∃ r, s.req? 7 = some r ∧ r.legs = [hbm0, .hold 3] ∧ r.adm = some (4096 - service .hbm) ∧ 4096 - service .hbm + service .hbm = s.now) ∧
    (let s := slots 0 [aReq 7 1 false [.hold 3, hbm0]]
     ∃ r, s.req? 7 = some r ∧ r.legs = [.hold 3, hbm0]) ∧
    (let s := slots 0 [aReq 7 1 false [.hold 3, .turn, hbm0]]
     ∃ r, s.req? 7 = some r ∧ r.legs = [.hold 3, .turn, hbm0]) ∧
    ∃ w, (waveWith fun w => { w with pend := [aPend] }).wave? c0 = some w ∧ aPend ∈ w.pend ∧ aPend.left ≠ 0 ∧ ∀ f ∈ base.mem.fabs, f.id ≠ 7 :=
  ⟨⟨_, rfl, rfl, rfl⟩, ⟨by decide +kernel, ⟨_, rfl, by decide⟩, by decide +kernel⟩, by decide +kernel, by decide +kernel,
   ⟨_, rfl, rfl, rfl, by decide⟩, ⟨_, rfl, rfl⟩, ⟨_, rfl, rfl⟩, ⟨_, rfl, by and_intros <;> decide +kernel⟩⟩
/-- A table with a reserved code, one of HBM without SYS, a change of a running TIMED owner's slots, and a free table. -/
theorem witness_SlotsCommits_commit :
    let s := owned [anOwner 1 .running true]
    let put := fun (l : List (BitVec 64)) => s.setRota { s.rota with staged := l }
    (∃ x ∈ (put (List.replicate 9 0x999999999999999A)).rota.staged, ∃ k : Nat, k < 16 ∧ 10 ≤ tableEntry x k) ∧
    (¬∃ k : Nat, k < 16 ∧ tableEntry ((put (List.replicate 9 0x8888888888888888)).rota.staged.getD RotaClass.hbm.code 0) k = 9) ∧
    slotsChanged s.rota.live (put (List.replicate 9 0x1999999999999999)).rota.staged 1 = true ∧
    (∃ k : Nat, k < 16 ∧ tableEntry (s.rota.staged.getD RotaClass.hbm.code 0) k = 9) ∧ s.rota.pend = none ∧
    (s.setRota { s.rota with pend := some ⟨[], true, none⟩ }).rota.pend ≠ none :=
  ⟨⟨_, List.mem_cons_self, 0, by decide, by decide⟩, by decide +kernel, by decide +kernel, ⟨0, by decide, by decide⟩, rfl, nofun⟩
theorem witness_BoundariesOwners :
    let s := (owned [anOwner 1 .created false, { anOwner 2 .switching true with switchAt := some 256, owed := 1 }]).setClk
      { State.reset.clk with cycle := 256, step := some 3000 }
    let c : Captured := ⟨s.rota.staged, true, some { loaderOwner.spec with id := 3 }⟩
    s.now = s.clk.boundary ∧ commitHeld (s.setRota { s.rota with pend := some c }) c = false ∧
    (let t := owned [anOwner 2 .switching true]
     commitHeld t ⟨List.replicate 9 0x2222222222222222, true, none⟩ = true) ∧
    (s.clk.trip = false ∧ s.clk.step = some 3000 ∧ (s.owners.map (·.id)).Nodup) ∧ clockStepOk 3000 = true ∧ clockStepOk 2500 = false ∧
    (∃ x, s.owner? 1 = some x ∧ x.st = .created ∧ x.repAt ≠ some s.now) ∧
    (∃ x, s.owner? 2 = some x ∧ x.st = .switching ∧ x.switchAt = some s.now ∧ x.owed ≠ 0) ∧ (let t := owned [{ anOwner 2 .running true with owed := 1 }, anOwner 3 .running true]
       (t.owner? 2).map (fun x => (x.owed, decide (x.st ≠ .switching ∧ x.st ≠ .retired), x.repAt)) = some (1, true, none) ∧ (t.owner? 3).map (·.owed) = some 0) ∧
    s.rota.retired = [] ∧ s.rota.pend = none ∧ ownerBusyKernels s 1 = false ∧
    (∀ k ∈ [0], ∃ sl ∈ loaderOwner.spec.slices, sl.1 = dieOf k) ∧ (∀ r ∈ loaderOwner.spec.seed, r.2.1 + r.2.2 ≤ 16384) ∧
    ¬(1 + 16384 ≤ 16384) ∧ commitErr State.reset false = 0 ∧ commitErr (s.setRota { s.rota with pend := some c }) false ≠ 0 ∧
    specClash loaderOwner.spec loaderOwner.spec = true ∧ ownerBusyKernels base 0 = true :=
  ⟨rfl, by decide +kernel, by decide +kernel, ⟨rfl, rfl, by decide⟩, by decide, by decide, ⟨_, rfl, rfl, by decide⟩, ⟨_, rfl, rfl, rfl, by decide⟩, by and_intros <;> decide +kernel⟩

theorem witness_StoresHomes :
    let st : Store := ⟨9, c0, 0, 0, 0, .loc, [(0, true)], 2, false, false, false⟩
    let store := fun (x : Store) => base.setMem { base.mem with stores := [x] }
    ((store st).mem.stores.find? (·.id == 9) = some st ∧ st.started = false) ∧
    ((store { st with started := true }).mem.stores.find? (·.id == 9) = some { st with started := true } ∧ 1 < st.left) ∧
    ((fabbed (aFab .store .peer)).fab? 7 = some (aFab .store .peer) ∧ (∀ x ∈ (fabbed (aFab .store .peer)).mem.stores, x.id ≠ 7) ∧
      (aFab .store .peer).gone = false ∧ (aFab .store .peer).bound ≠ some false ∧ strays (fabbed (aFab .store .peer)) 7 = false) ∧
    (fabbed { aFab .load .host with bound := some false }).fab? 7 = some { aFab .load .host with bound := some false } ∧
    (fabbed { aFab .load .peer with gone := true }).fab? 7 = some { aFab .load .peer with gone := true } ∧
    (MemOk (fabbed (aFab .atomic .pod)) ∧ (fabbed (aFab .atomic .pod)).fab? 7 = some (aFab .atomic .pod) ∧ (aFab .atomic .pod).applied = false ∧
      mustWait (fabbed (aFab .atomic .pod)) (aFab .atomic .pod) = false) ∧
    (let f := { aFab .store .peer with dep := true, seq := 1 }
     let s := (fabbed f).setMem { (fabbed f).mem with fabs := [f, { aFab .store .peer with id := 6 }] }
     s.fab? 7 = some f ∧ mustWait s f = true) ∧
    (let f := { aFab .atomic .peer with acc := { oneLane .atomic 0x1000 [] with n := 8 } }
     f.applied = false ∧ mustWait (fabbed f) f = false ∧ ∀ g ∈ (fabbed f).mem.fabs, g.src = .wave → g.tag ≠ maxTags) ∧ ∃ w, (fabbed (aFab .load .peer)).wave? c0 = some w ∧ w.pend = [aPend] :=
  ⟨⟨rfl, rfl⟩, ⟨rfl, by decide⟩, ⟨rfl, by decide +kernel, rfl, by decide, by decide +kernel⟩, rfl, rfl,
   ⟨by unfold MemOk; decide +kernel, rfl, rfl, by decide +kernel⟩, ⟨rfl, by decide +kernel⟩, ⟨rfl, by decide +kernel, by decide +kernel⟩, ⟨_, rfl, rfl⟩⟩
def aFlit : Flit := ⟨1, 0, 0, 0, 0, .req, 0, 0, 5, 3, 2, .write, 2048, false, false, 0, 0, [(0x2000, 9)], 0, [], none⟩
theorem witness_TimeoutsHost :
    ((fabbed (aFab .atomic .peer)).fab? 7 = some (aFab .atomic .peer) ∧ (aFab .atomic .peer).gone = false ∧ (aFab .atomic .peer).src = .wave ∧
      (fabbed { aFab .store .peer with src := .group }).fab? 7 = some { aFab .store .peer with src := .group }) ∧
    (let s := base.updCore 0 fun k => { k with tags := [⟨3, 2, none, 0⟩] }
     ⟨3, 2, none, 0⟩ ∈ (s.core 0).tags ∧ (0 : Nat) ≤ s.wall ∧ ∀ g ∈ s.mem.fabs, g.tag ≠ maxTags) ∧
    (let x : Sent := ⟨7, aFlit, 0, 0⟩
     let s := (fabbed (aFab .store .peer)).setClk { base.clk with cycle := usCycles base 20 }
     let s := s.setLink { s.link with sent := [x], route := [(1, 0, 2, true, 0)], ports := s.link.ports.set 2 { Port.reset with st := .up } }
     x ∈ s.link.sent ∧ x.last + 20 * usTicks ≤ s.wall ∧ s.fab? 7 = some (aFab .store .peer) ∧ (pathPort s 1 0).isSome = true ∧ atSender s 7 = false) ∧
    atSender (sendReq 0 0 [.rota .fab (.fabPort 2)] (.remote 7) base) 7 = true ∧
    (∀ p, pathPort base 1 p = none) ∧ MemOk base ∧
    ((∀ k, k < 8 → ∃ e ∈ (base.setLink { base.link with hdm := [(0, 64, 64)] }).link.hdm, e.2.1 ≤ 120 + k ∧ 120 + k < e.2.1 + e.2.2) ∧
      ¬∀ k, k < 9 → ∃ e ∈ (base.setLink { base.link with hdm := [(0, 64, 64)] }).link.hdm, e.2.1 ≤ 120 + k ∧ 120 + k < e.2.1 + e.2.2) ∧
    (fabbed { aFab .load .peer with job := .idle }).fab? 7 = some (aFab .load .peer) ∧ (aFab .load .peer).reads = true ∧
      ({ aFab .load .peer with job := .packet 9 0 } : FabReq).job ≠ .idle :=
  ⟨⟨rfl, rfl, rfl, rfl⟩, by decide +kernel, by decide +kernel, by decide +kernel, fun _ => rfl, by unfold MemOk; decide +kernel, by decide +kernel, rfl, rfl, nofun⟩
theorem witness_WalksTimestamps :
    (let x : Walk := ⟨7, 0, 0, 0, 16, 0, some ⟨0, 0, 0x10000, 0x1000, 0, .loc, 0, 0, 0, true, true⟩, []⟩
     (base.setMem { base.mem with walks := [x] }).mem.walks.find? (·.id == 7) = some x ∧ x.tlb.isSome = true) ∧
    (let s := base.setOwners [{ loaderOwner with resetReq := true }]
     s.owner? 0 = some { loaderOwner with resetReq := true } ∧ ∃ g ∈ s.groups, g.owner = 0 ∧ g.resident = true) ∧
    (let s := owned [{ loaderOwner with resetReq := true }]
     s.owner? 0 = some { loaderOwner with resetReq := true } ∧ (¬∃ g ∈ s.groups, g.owner = 0 ∧ g.resident = true) ∧ ownerBusy s 0 = false) ∧
    (let x := { loaderOwner with timed := true, resetReq := true }
     let s := (base.setHub { base.hub with kernels := [{ loaderKernel with st := .dispatching }] }).setOwners [x]
     s.owner? 0 = some x ∧ (∃ g ∈ s.groups, g.owner = 0 ∧ g.resident = true) ∧ (s.groups.any (resetBlocks s x)) = false ∧ ownerBusy s 0 = false) ∧ MemOk base :=
  ⟨by decide +kernel, by decide +kernel, by decide +kernel, by decide +kernel, by unfold MemOk; decide +kernel⟩
/-- A gate command: on a policy that is valid, that names no label, that asks for no result, whose tenant has no key; REMOVE. -/
def gated (op : Nat) (pols : List (Nat × Policy)) (body : List Byte) : State :=
  State.reset.setGate { State.reset.gate with op, pol := 5, busy := true, body, pols }
theorem witness_GateDevice :
    State.reset.gate.busy = false ∧ (gated 1 [] []).gate.busy = true ∧ (policy (gated 1 [(5, { Policy.none with valid := true })] []) 5).valid = true ∧
    ((policy (gated 1 [] []) 5).valid = false ∧ Policy.none.labelSet = 0) ∧
    (let b := List.replicate 512 (0xFF : Byte)
     let p : Policy := { Policy.none with body := b }
     p.labelSet ≠ 0 ∧ ¬(p.result ≠ 0 ∧ 8 ≤ p.byteLim ∧ p.byteLim ≤ 4096)) ∧
    (gated 2 [] []).gate.op = 2 ∧ State.reset.now % 2 ^ 20 = 0 ∧ tenantBound base 0 = true ∧ tenantBound base 15 = false :=
  ⟨rfl, rfl, by decide +kernel, by decide +kernel, by decide +kernel, rfl, rfl, by decide +kernel, by decide +kernel⟩
/-- Interface 3 of a context, two queues, and one of them in slot 9. -/
def aqi3 : Aqi := { Aqi.reset 3 with qcount := 2 }
def slot9 (st : QState) : QSlot := { QSlot.reset 9 with aqi := 3, q := 1, qsel := 1, st, known := true, ringlog := 2, headc := 5, tail := 7 }
def queued (c : CState) (l : List QSlot) (pend : List (Nat × Nat × Nat)) : State :=
  let s := (owned [loaderOwner]).setCtxs [{ loaderCtx with st := c, latched := { loaderCtx.latched with aqimask := 8, pasid := 6 } }]
  s.setHub { s.hub with aqis := [{ aqi3 with pend }], slots := l }
/-- An LNCH to that queue, whose packet's read has given something. -/
def aLnch (pkt : EngVal) (due ring : Option Nat) : LnchJob := ⟨7, c0, 7, 0, 3, 1, pkt, 0, 0, due, ring⟩
theorem witness_GateDevice_ends :
    (let r : Release := ⟨7, c0, 7, 0, 0, 5, 0, 0, 8, 0, 0, 0, [], 0, true, some ⟨permFault, 0, 0, false, false⟩⟩
     ∃ w, ((waveWith fun w => { w with pend := [aPend] }).setGate { base.gate with rels := [r] }).wave? c0 = some w ∧
       ((waveWith fun w => { w with pend := [aPend] }).setGate { base.gate with rels := [r] }).gate.rels.find? (·.id == 7) = some r ∧ w.pend = [aPend]) ∧
    (let s := fun (got : EngVal) => base.setEng { base.eng with tsets := [⟨7, c0, 7, 0, 255, 0, got, 0⟩] }
     ∀ got ∈ [EngVal.val 5, .bad pageFault 0x1000], (s got).eng.tsets.find? (fun j => j.id == 7 && j.got.there) = some ⟨7, c0, 7, 0, 255, 0, got, 0⟩) ∧
    (let s := fun (l : List LnchJob) => (queued .bound [slot9 .idle] []).setGate { State.reset.gate with lnchs := l }
     (s [aLnch (.bad permFault 8) none none]).gate.lnchs.find? (·.id == 7) = some (aLnch (.bad permFault 8) none none) ∧
     ((s [aLnch (.val 0) (some 0) none]).gate.lnchs.find? (·.id == 7) = some (aLnch (.val 0) (some 0) none) ∧ 0 ≤ State.reset.now ∧
       ∀ x ∈ (s []).hub.slots, .lnch 7 ∉ x.line) ∧
     ((s [aLnch (.val 0) (some 0) (some 7)]).gate.lnchs.find? (·.id == 7) = some (aLnch (.val 0) (some 0) (some 7)) ∧ hubOut (s []) (.lnch 7) = false ∧
       mappedSlot (s []) 3 1 = some (slot9 .idle) ∧ slotOf (s []) 9 = slot9 .idle ∧ (slot9 .idle).line = [] ∧ tailCase (slot9 .idle) (7 + 1) = .accept)) ∧
    ∃ w, (waveWith fun w => { w with phase := 1, status := .waiting .cwait (.cwait false 4 6) }).wave? c0 = some w ∧ w.phase = 1 ∧
      w.status = .waiting .cwait (.cwait false 4 6) :=
  ⟨⟨_, rfl, rfl, rfl⟩, by decide +kernel, by decide +kernel, ⟨_, rfl, rfl, rfl⟩⟩

theorem witness_QueueSlots :
    (∃ c ∈ (queued .revoked [] []).ctxs, c.st = .revoked ∧ c.latched.pasid = 6) ∧ aqiCtx (queued .bound [] []) 4 = none ∧
    (∃ c, aqiCtx (queued .bound [slot9 .idle] []) 3 = some c ∧ c.st ≠ .revoked ∧ c.latched.pasid = 6 ∧ (16 : Nat) % 8 = 0 ∧
      (aqiOf (queued .bound [] []) 3).qcount ≤ 16 / 8 ∧ 8 / 8 < (aqiOf (queued .bound [] []) 3).qcount) ∧
    mappedSlot (queued .bound [slot9 .idle] []) 3 0 = none ∧
    (mappedSlot (queued .bound [slot9 .idle] []) 3 1 = some (slot9 .idle) ∧ slotOf (queued .bound [slot9 .idle] []) 9 = slot9 .idle ∧
      2 ^ 2 - (7 + 2 ^ 32 - 5 % 2 ^ 32) % 2 ^ 32 = 2 ∧ (9 + 2 ^ 32 - 7 % 2 ^ 32) % 2 ^ 32 = 2 ∧ (10 + 2 ^ 32 - 7 % 2 ^ 32) % 2 ^ 32 = 3 ∧
      (6 + 2 ^ 32 - 5 % 2 ^ 32) % 2 ^ 32 < (7 + 2 ^ 32 - 5 % 2 ^ 32) % 2 ^ 32) ∧
    ((slotOf (queued .bound [{ slot9 .free with aqi := 3, asel := 3 }] []) 9).st = .free ∧ (∃ c, aqiCtx (queued .bound [slot9 .free] []) 3 = some c ∧ c.st ≠ .revoked) ∧
      mappedSlot (queued .bound [slot9 .free] []) 3 1 = none ∧ (slot9 .free).qsel < (aqiOf (queued .bound [] []) 3).qcount) ∧
    (∃ e ∈ (aqiOf (queued .bound [slot9 .idle] [(0, 4, 0)]) 3).pend, e.1 = 0) ∧ (longestIdle (queued .bound [slot9 .idle] []) 0).isSome = true ∧
    (mappedSlot (queued .bound [slot9 .idle] [(0, 4, 0)]) 3 0 = none ∧ 0 < (aqiOf (queued .bound [slot9 .idle] [(0, 4, 0)]) 3).qcount) ∧
    (appending (queued .bound [slot9 .idle] []) (slot9 .idle) = false ∧ (let x := { slot9 .idle with line := [.lnch 7] }
      appending (queued .bound [x] []) x = true ∧ mappedSlot (queued .bound [x] []) 3 1 = some x ∧ slotOf (queued .bound [x] []) 9 = x) ∧
      (slotOf (queued .bound [{ slot9 .stalled with known := false }] []) 9).known = false) ∧
    longestIdle (queued .bound [slot9 .ready] []) 0 = none :=
  ⟨⟨_, List.mem_cons_self, rfl, rfl⟩, by decide +kernel, ⟨_, rfl, by decide, rfl, rfl, by decide +kernel, by decide +kernel⟩, by decide +kernel,
   ⟨by decide +kernel, by decide +kernel, by decide⟩, ⟨by decide +kernel, ⟨_, rfl, by decide⟩, by decide +kernel, by decide +kernel⟩,
   ⟨_, List.mem_cons_self, rfl⟩, by decide +kernel, by decide +kernel, by decide +kernel, by decide +kernel⟩

/-- A segment table whose slot 0 holds one word, tables of both stages that map the first GiB to itself, and a state in which owner 0 and context 0 use them. -/
def tables : List Host.Cell := cellPuts (cellPuts (cellPuts (cellPuts (cellPuts [] 7 [0xC0]) 0x1000 [0x04, 0x20]) 0x2000 [0x04, 0x40]) 0x4000 [0xC4, 0x04]) 0x4008 [1]
def tabled (s : State) : State :=
  ((s.setMem { s.mem with cells := tables }).setOwners [{ loaderOwner with spec := { loaderOwner.spec with s2root := 0x1000 } }]).setCtxs
    [{ loaderCtx with latched := { loaderCtx.latched with s1root := 0x1000, aqimask := 8, pasid := 6 } }]
/-- The same with a second stage that maps the second GiB to another package, and a first stage that maps to it. -/
def peered (s : State) : State :=
  let m := cellPuts (cellPuts (cellPuts (cellPuts tables 0x4003 [0x40]) 0x5000 [0x04, 0x60]) 0x6000 [0x04, 0x80]) 0x8000 [0xC4, 0x04, 0, 0, 0, 0, 0, 0, 1]
  let s := tabled s
  (s.setMem { s.mem with cells := cellPuts m 0x8010 [0xC4, 0x04, 0, 0, 0, 0, 0, 0, 1, 0, 1] }).setOwners
    [{ loaderOwner with spec := { loaderOwner.spec with s2root := 0x5000 } }]
/-- What a read of the hub has come to: bytes, a failure, or nothing yet. -/
def came (r : HubGot × State) : Option Bool := r.1.map fun e => match e with | .ok _ => true | .error _ => false
/-- A packet of a kind, with a counter to wait for or without. -/
def packet (kind : Byte) (dep : Byte) : List Byte :=
  [kind, 0, 0, 0] ++ List.replicate 4 0 ++ [1, 0, 0, 0, 1, 0, 1, 0, 1, 16, 0, 0] ++ List.replicate 20 0 ++ [dep] ++ List.replicate 7 0 ++ [4] ++ List.replicate 15 0
def packeted (st : QState) (b : List Byte) (reread : Option Nat) : State := tabled (queued .active [{ slot9 st with pkt := b, reread }] [])
theorem witness_PacketsKernels :
    ((slotOf (packeted .ready [] none) 9).st = .ready ∧ (slotOf (packeted .ready [] none) 9).pkt = [] ∧
      came (hubRead (.packetReadDone 9) (.packet 9 0) 0 64 64 (packeted .ready [] none)) = some true ∧
      came (hubRead (.packetReadDone 9) (.packet 9 0) 0 64 64 (queued .active [slot9 .ready] [])) = some false ∧
      came (hubRead (.packetReadDone 9) (.packet 9 0) 0 64 64 (peered (queued .active [slot9 .ready] []))) = none) ∧
    (let s := (queued .active [{ slot9 .ready with known := false }] []).setHub { (queued .active [{ slot9 .ready with known := false }] []).hub with
       reads := [⟨.packetReadDone 9, .peer, 0, 7, [], none⟩] }
     (slotOf s 9).st ≠ .free ∧ (slotOf s 9).known = false ∧ ∃ y ∈ s.hub.reads, y.step = .packetReadDone 9) ∧
    (Pkt.waits (packet 1 8) = true ∧ Pkt.waits (packet 1 0) = false) ∧ (slotOf (packeted .blocked (packet 1 8) (some 0)) 9).st = .blocked ∧
    ((slotOf (packeted .ready (packet 1 8) (some 0)) 9).reread = some 0 ∧ came (hubRead (.packetReadDone 9) (.depRead 9 0) 0 8 8 (packeted .ready (packet 1 8) (some 0))) = some true ∧
      came (hubRead (.packetReadDone 9) (.depRead 9 0) 0 8 8 (queued .active [slot9 .ready] [])) = some false ∧
      came (hubRead (.packetReadDone 9) (.depRead 9 0) 0 8 8 (peered (queued .active [slot9 .ready] []))) = none ∧ Pkt.depval (packet 1 8) = 4 ∧
      leVal (cellBytes (packeted .ready (packet 1 8) (some 0)).mem.cells 8 8) = 0) ∧
    (let x := slot9 .ready
     slotOf (queued .active [x] []) x.n = x ∧ x.unmap = false ∧ (Pkt.kind (packet 0 0) ≠ 1 ∧ Pkt.reservedOk (packet 0 0) = true) ∧
     Pkt.reservedOk ((packet 0 0).set 23 1) = false ∧ (Pkt.kind (packet 1 0) = 1 ∧ packetReason (packet 1 0) = 0) ∧ packetReason (packet 1 1) ≠ 0) ∧
    (∃ y, (queued .active [] []).owner? 0 = some y ∧ y.st ≠ .retired ∧ y.reset = false) :=
  ⟨by decide +kernel, by decide +kernel, by decide +kernel, by decide +kernel, by decide +kernel, by decide +kernel, ⟨_, rfl, by decide, rfl⟩⟩
def aPacket : Packet := ⟨7, 9, 3, 1, 0, 5, 0, false, 0, 0, 0, 0, 0, false, [], true, 0, false, none⟩
def kerneled (f : Kernel → Kernel) : State := base.setHub { base.hub with kernels := [f loaderKernel] }
/-- A launch whose checks all pass, and one of an owner without cores. -/
theorem witness_PacketsKernels_ends :
    (let x := { slot9 .ready with pkt := packet 1 0 }
     let s := packeted .ready (packet 1 0) none
     let r := launchReason (kernelOf s.fresh.1 x s.fresh.2) 0 s.fresh.2
     r.1 = some 0 ∧ (r.2.2.owner? 0).map (·.resetReq) = some false ∧ (startLaunch x r.2.1 r.2.2).isSome = true ∧
     let t := (queued .active [x] []).setOwners [{ loaderOwner with spec := { loaderOwner.spec with cores := [] } }]
     (launchReason (kernelOf t.fresh.1 x t.fresh.2) 0 t.fresh.2).1 = some 12 ∧
     let u := peered (queued .active [x] [])
     (launchReason (kernelOf u.fresh.1 x u.fresh.2) 0 u.fresh.2).1 = none) ∧
    ((kerneled fun k => { k with st := .dispatching }).kernel? 0).map (·.st) = some .dispatching ∧
    ((kerneled fun k => { k with det := true, st := .draining }).kernel? 0).map (fun k => (k.det, k.st, k.applied, k.barred)) =
      some (true, .draining, false, false) ∧
    (((kerneled fun k => { k with st := .draining }).kernel? 0).map (·.st) = some .draining ∧ kernelWrites (kerneled fun k => { k with st := .draining }) 0 = false) ∧
    ((kerneled fun k => { k with st := .faulted }).kernel? 0).map (·.st) = some .faulted ∧
    ((kerneled fun k => { k with st := .refused }).kernel? 0).map (·.st) = some .refused ∧
    (let s := fun (l : List Packet) => (queued .active [slot9 .idle] []).setHub { (queued .active [slot9 .idle] []).hub with packets := l }
     (s [aPacket]).hub.packets.find? (fun p => p.id == 7 && p.ready) = some aPacket ∧ (s [aPacket]).hub.packets.find? (·.id == 7) = some aPacket ∧
       ((s [aPacket]).ctx 0).st ≠ .free ∧ ((queued .free [] []).ctx 0).st = .free ∧ hubOut (s [aPacket]) (packetJob 7) = false ∧
       (∃ q ∈ (s [aPacket, { aPacket with id := 8, ring := some (0, 2, 0) }]).hub.packets, q.id ≠ 7 ∧ q.aqi = 3 ∧ q.q = 1 ∧ q.ring ≠ none) ∧
       ({ aPacket with bad := true } : Packet).bad = true ∧ 4 ≤ ({ aPacket with stage := 4 } : Packet).stage) :=
  by and_intros <;> decide +kernel
/-- The writes of a completion: its ring is not known yet, or cannot be; its record is written at once, fails, or goes off the package. -/
theorem witness_PacketsKernels_completion :
    (match ringOf aPacket (peered (queued .active [] [])) with | (none, _) => true | _ => false) = true ∧
    (match ringOf aPacket (queued .active [] []) with | (some (.error _), _) => true | _ => false) = true ∧
    (match ringOf aPacket (queued .active [slot9 .idle] []) with | (some (.ok r), _) => decide (r = (0, 0, 0)) | _ => false) = true ∧
    (match hubWrite (packetJob 7) 0 0 [1] 0 (tabled (queued .active [slot9 .idle] [])) with | .ok v => !hubOut v (packetJob 7) | _ => false) = true ∧
    (match hubWrite (packetJob 7) 0 0 [1] 0 (queued .active [slot9 .idle] []) with | .error _ => true | _ => false) = true ∧
    (match hubWrite (packetJob 7) 0 0 [1] 0 (peered (queued .active [slot9 .idle] [])) with | .ok v => hubOut v (packetJob 7) | _ => false) = true := by
  and_intros <;> decide +kernel

/-- A group in a state, with its wave in another. -/
def grouped (st : GState) (w : WStatus) (f : Group → Group) : State :=
  (groupWith fun g => f { g with st }).updWave ⟨0, 0⟩ fun x => { x with status := w }
theorem witness_GroupLife :
    ((owned [anOwner 1 .running true]).owner? 1).map (fun x => (decide (x.st ≠ .retired), x.reset)) = some (true, false) ∧
    (owned [anOwner 1 .running true]).now % 256 = 0 ∧ (base.kernel? loaderKernel.id).isSome = true ∧
    ((grouped .starting .running id).group? 0).map (startReady (grouped .starting .running id)) = some true ∧
    (let s := grouped .running .stopped fun g => { g with stop := true }
     (s.group? 0).map (saveNow s) = some true) ∧
    (let s := tabled (grouped .saving .stopped id)
     (s.group? 0).map (fun g => (g.st, saveReady s g, g.place.isSome)) = some (.saving, true, true)) ∧
    (let s := grouped .restoring .stopped id
     (s.group? 0).map (fun g => (restoreReady s g, g.place.isSome)) = some (true, true) ∧ (∀ m ∈ s.eng.mmas, m.gid ≠ 0) ∧
       (∀ g ∈ s.groups, ∀ w ∈ g.waves, w.held = []) ∧ s.timed loaderOwner.id = false) ∧
    (let s := ((grouped .restoring .stopped id).setOwners [{ loaderOwner with timed := true }]).setClk { base.clk with cycle := 1 }
     (s.group? 0).map (fun g => (restoreReady s g, s.timed g.owner)) = some (true, true) ∧ s.now % 256 ≠ 0) ∧
    (let s := grouped .running .ended id
     (s.group? 0).map (endReady s) = some true ∧ (s.kernel? 0).map (·.left) = some 1) ∧
    (let s := base.updCore 0 fun k => { k with wback := true }
     (s.core 0).wback = true ∧ storesOut s 0 = false ∧ timedCore s 0 = false ∧ timedCore (s.setOwners [{ loaderOwner with timed := true }]) 0 = true) ∧
    (let s := storing.updCore 0 fun k => { k with wback := true }
     (s.core 0).wback = true ∧ storesOut s 0 = true) ∧
    (let s := (grouped .saved .stopped fun g => { g with place := none }).setHub { base.hub with kernels := [{ loaderKernel with id := 0 }] }
     ((s.owners.map (·.id)).findSome? fun o => (allWaiters s o).findSome? fun w => if w.1 = 0 then some (o, w.2) else none).isSome = true) ∧
    (base.owner? 0).map (fun x => (x.cbusy, x.spec.cores.contains 0)) = some (false, true) :=
  by and_intros <;> decide +kernel
/-- The frame of a group that can be accessed, with nothing of the groups changed by it, and one that cannot. -/
def frameOk (s : State) (k : AccKind) : Bool :=
  match s.group? 0 with
  | some g => let c := checkFrame (if k = .store then savedAs s g else g) k s
    c.1.isNone && decide (c.2.groups = s.groups)
  | none => false
def framed (st : GState) : State :=
  (grouped st .stopped id).updCore 0 fun k => { k with utlb := [⟨0, 0, 0, 2 ^ 30, 0, .loc, 1, 0, 0, true, true⟩] }
theorem witness_GroupLife_frame : frameOk (framed .restoring) .load = true ∧ frameOk (framed .saving) .store = true ∧
    frameOk (grouped .saving .stopped id) .store = false := by decide +kernel
/-- Two groups of one cluster, on cores 0 and 1. -/
def clustered : State :=
  let s := kerneled fun k => { k with c := 2, dx := 2, next := 2, left := 2 }
  s.setGroups (s.groups ++ s.groups.map fun g => { g with gid := 1, lin := 1, place := some ⟨1, [0], 0, none⟩ })
theorem witness_GroupLife_places :
    (let s := grouped .saved .stopped fun g => { g with place := none }
     ((savedOrder s 0).findSome? (savedFit s)).isSome = true ∧ switchHeld s 0 = false ∧ s.timed 0 = false ∧ savedOrder s 0 ≠ [] ∧
       (s.groups.map (·.gid)).Nodup ∧ ∀ g ∈ s.groups, g.owner = 0 → g.compact = false) ∧
    (let s := groupWith fun g => { g with compact := true }
     (savedOrder s 0).findSome? (savedFit s) = none ∧ compacting s 0 = true) ∧
    (let s := (kerneled fun k => { k with dx := 2, vregs := 8, hregs := 1, accs := 1, left := 2 }).updGroup 0 fun g => { g with hdecl := 1, adecl := 1 }
     let s := s.updCore 0 fun k => { k with spW := 1 }
     ((waitingKernels s 0).findSome? fun k => (firstFit s k.ask k.c).map fun ps => (k.id, ps.length)) = some (0, 1) ∧ compacting s 0 = false) ∧
    ((waitingKernels base 0).findSome? fun k => firstFit base k.ask k.c) = none ∧
    (clustered.owner? 0).map (·.cbusy) = some false ∧
    (∃ g ∈ clustered.groups, g.owner = 0 ∧ g.resident = true ∧ g.place.map (·.core) ≠ some 0 ∧ ∃ h ∈ clusterOf clustered g, h.place.map (·.core) = some 0) ∧
    (base.kernel? loaderKernel.id = some loaderKernel ∧ (base.hub.slots.map (·.n)).Nodup) :=
  by and_intros <;> decide +kernel
def aFetch (kernel : Option Nat) (st : SlotState) : Fetch := aLoad kernel [(3, { Slot.empty with st, load := 7, cause := 5 })]
def preloading (st : KState) (f : SlotState) (due : Option Nat) : State :=
  (kerneled fun k => { k with st, loads := [⟨0, 7, 1, none, due, none⟩] }).setEng { base.eng with fetch := [aFetch (some 0) f] }
def aCopy (src dst : Tid) : Copy := ⟨7, 0, c0, 0, 0, 0, 0, 0, src, dst, [0, 0, 0, 0, 0], 0, false, false, .wave, 0, 0, 0, true, none, 0⟩
def moving (c : Copy) : State := (groupWith fun g => { g with kib := 8, wlab := [0] }).setEng { base.eng with copies := [c] }
theorem witness_Transfers :
    (∀ st ∈ [KState.preloading, KState.running], ∀ f ∈ [SlotState.present, SlotState.failed], ∀ due ∈ [none, some 0],
      ((preloading st f due).eng.fetch.find? (fun f => f.core == 0 && f.kernel == some 0 && f.moving && f.imgs.isEmpty)) = some (aFetch (some 0) f) ∧
      ((preloading st f due).kernel? 0).map (fun k => (k.st, k.loads)) = some (st, [⟨0, 7, 1, none, due, none⟩]) ∧
      ((aFetch (some 0) f).slots.find? (fun e => decide (e.2.st = .failed))).isSome = decide (f = .failed)) ∧
    (let s := kerneled fun k => { k with loads := [⟨0, 0, 0, none, some 0, none⟩, ⟨0, 0, 0, none, none, some 7⟩] }
     (s.kernel? 0).map (fun k => (k.loads.filter fun l => l.core == 0 && l.due.any fun d => decide (d ≤ s.now), k.loads.any fun l => l.also == some 7)) =
       some ([⟨0, 0, 0, none, some 0, none⟩], true)) ∧
    (let s := (fetching .loading 0 1).setEng { base.eng with fetch := [aFetch none .present] }
     s.eng.fetch.find? (fun f => f.core == 0 && f.kernel.isNone && f.moving && f.imgs.isEmpty && f.slots.any (·.1 == 3)) = some (aFetch none .present) ∧
       3 < (s.core 0).slots.length) ∧
    (let c := aCopy pads { pads with base := 0 }
     let s := moving c
     s.eng.copies.find? (fun c => c.id == 7 && c.moving && c.vals.all (·.all EngVal.there)) = some c ∧ c.q = 0 ∧ c.dst.total ≤ c.pos + min (256 / c.dst.size) (c.dst.total - c.pos) ∧
       firstBad (chunkReads (c.who s) c [[0], [1], [2], [3]] s).1.vals.reverse = none ∧ (chunkReads (c.who s) c [[0], [1], [2], [3]] s).1.vals.all EngVal.there ∧
       (match (chunkChecks (c.who s) c 0 [[0], [1], [2], [3]] (chunkReads (c.who s) c [[0], [1], [2], [3]] s).2).1 with
        | .ok _ => true
        | .error _ => false) = true) ∧
    (let c := aCopy { pads with dim := [512, 1, 1, 1, 1], base := 0 } { pads with dim := [512, 1, 1, 1, 1], base := 1024 }
     c.pos + min (256 / c.dst.size) (c.dst.total - c.pos) < c.dst.total) ∧
    (let c := aCopy aTid pads
     (firstBad (chunkReads (c.who (moving c)) c [[0], [1], [2], [3]] (moving c)).1.vals).isSome = true) ∧
    (let c := { aCopy aTid pads with vals := some [.away 9 0 1 0] }
     ¬([EngVal.away 9 0 1 0] : List EngVal).all EngVal.there ∧ (moving c).eng.copies.find? (fun c => c.id == 7 && c.moving && c.vals.all (·.all EngVal.there)) = none) ∧
    (let c := aCopy { aTid with base := 0x8000 } { aTid with base := 0x9000 }
     let s := peered (moving c)
     (chunkReads (c.who s) c [[0], [1], [2], [3]] s).1.vals.all EngVal.there = false) ∧
    (let c := aCopy pads { aTid with base := 0x9000 }
     let s := tabled (moving c)
     (match (chunkChecks (c.who s) c 0 [[0], [1], [2], [3]] s).1 with
      | .ok l => l.all fun e => decide (e.1 = .loc)
      | .error _ => false) = true) ∧
    (let c := aCopy pads { aTid with base := 0x9000 }
     let s := peered (moving c)
     (match (chunkChecks (c.who s) c 0 [[0], [1], [2], [3]] s).1 with
      | .ok l => l.all fun e => decide (e.1 = .peer)
      | .error _ => false) = true) :=
  by and_intros <;> decide +kernel
/-- A context of number 1 in each state, with a descriptor whose owner exists or not, whose PASID is taken or not, and with or without a handler. -/
def bound1 (st : CState) (owner : Nat) (pasid hnd : Nat) : State :=
  base.setCtxs [loaderCtx, { Ctx.reset 1 with st, desc := { CtxDesc.reset with owner, pasid, hndwords := hnd } }]
theorem witness_ContextCommands :
    (∀ st ∈ [CState.free, .bound, .active, .preempted, .suspended, .revoked], ((bound1 st 0 1 1).ctx 1).st = st) ∧
    (∃ o, (bound1 .free 0 1 2048).owner? 0 = some o ∧ o.st = .running) ∧ (bound1 .free 5 1 1).owner? 5 = none ∧
    (∃ y ∈ (bound1 .free 0 0 1).ctxs, y.id ≠ 1 ∧ y.st ≠ .free ∧ y.latched.pasid = 0) ∧
    (¬∃ y ∈ (bound1 .free 0 1 1).ctxs, y.id ≠ 1 ∧ y.st ≠ .free ∧ (y.latched.pasid = 1 ∨ y.latched.aqimask &&& 0 ≠ 0)) ∧
    (1 ≤ 2048 ∧ 2048 ≤ 2048 ∧ 0 % 64 = 0 ∧ 0 % 2 ^ 20 = 0) ∧ ¬(1 ≤ 0) ∧
    ((base.groups.filter fun g => g.ctx == 0 && g.resident && !g.frame).length = 1 ∧ freeFrames base 0 = 1) ∧
    (let s := base.setCtxs [{ loaderCtx with latched := { loaderCtx.latched with frames := 0 } }]
     freeFrames s 0 < 1) ∧ (base.groups.map (·.gid)).Nodup :=
  ⟨by decide +kernel, ⟨_, rfl, rfl⟩, by and_intros <;> decide +kernel⟩
theorem witness_ContextCommands_replay :
    (let s := (grouped .saved .stopped fun g => { g with replay := true, mode := 0 }).updWave c0 fun w => { w with held := [aPend] }
     (s.ctx 0).st ≠ .free ∧ (s.groups.map (·.gid)).Nodup ∧ (s.ctx 0).flog.length ≤ 256 ∧
       ∃ g ∈ s.groups, (g.ctx == 0 && g.replay && g.mode == 0) = true ∧ ∃ w ∈ g.waves, w.held.head? = some aPend) ∧
    (base.ctx 1).st = .free :=
  by and_intros <;> decide +kernel
def aNred (fn : RedOp) (n : Nat) : NredC := ⟨7, c0, 7, 0, none, 0, 0, fn, n, 3, 0⟩
def reducing (x : NredC) (l : List NredInst) : State := ((waveWith fun w => { w with pend := [aPend] }).setNcs [x]).setNreds l
theorem witness_BarriersReductionsEnd :
    (barAt (barred fun x => { x with done := true, swap := true }) ⟨.grp, 0, 0, 15⟩).done = true ∧
    (let s := (barred fun x => { x with done := true }).setMem { base.mem with stores := [⟨9, c0, 0, 0, 0, .loc, [], 1, true, false, true⟩] }
     (barAt s ⟨.grp, 0, 0, 15⟩).done = true ∧ merging s 0 = true ∧ merging base 0 = false) ∧
    (let s := grouped .saved .stopped fun g => { g with replay := true }
     (s.groups.find? (fun g => g.ctx == 0 && g.lin == 0 && decide (g.st = .saved) && g.replay)).isSome = true ∧ (0b00001 : BitVec 5).getLsbD (BarLevel.grp.code - 1) = true ∧
       hasLevel s 0 .grp = true) ∧
    (∀ g ∈ base.groups, ¬(g.ctx = 0 ∧ g.lin = 0 ∧ g.st = .saved ∧ g.replay = true)) ∧
    ((reducing (aNred .add 1) []).ncs.find? (·.id == 7) = some (aNred .add 1) ∧ nredInst? (reducing (aNred .add 1) []) (aNred .add 1) = none ∧
      (aNred .add 1).pkg = (reducing (aNred .add 1) []).link.pkgId) ∧
    (let k : NredInst := ⟨0, none, 4, .add, 3, [aNred .add 3]⟩
     nredInst? (reducing (aNred .add 3) [k]) (aNred .add 3) = some k ∧ k.cs.length + 1 < k.n ∧ (aNred .max 3).fn ≠ k.fn ∧
       (reducing (aNred .add 3) [k]).nreds.find? (fun k => k.kernel == 0 && k.inst == 4) = some k) ∧
    (let k : NredInst := ⟨0, none, 4, .add, 2, [aNred .add 2]⟩
     k.n ≤ k.cs.length + 1) :=
  by and_intros <;> decide +kernel
/-- A claim slot with some proposals, and a message on its way to it. -/
def aProp (t : Nat) (objected : Bool) : Proposal := ⟨ticketOf 0 0 0 t, 5, 1, t, 0, 0, 0, objected, 0⟩
def homed (m : ClaimMsg) (set : List Proposal) (outs : List ClaimOut) : State :=
  (kerneled fun k => { k with clbase := some 0, clslots := 4 }).setClaims
    { base.claims with msgs := [(7, 0, m)], slots := [⟨0, 0, none, set, 2⟩], outs }
theorem witness_ClaimMessages :
    (∀ at_ ∈ [1, 2], let s := homed (.propose 0 9 5 1 0 0 0 at_) [] []
      s.claims.msgs.find? (·.1 == 7) = some (7, 0, .propose 0 9 5 1 0 0 0 at_) ∧ (s.kernel? 0).map (·.clbase) = some (some 0) ∧
        (claimSlotAt s 0).isSome = true ∧ earlierClaims s 0 = false) ∧
    earlierClaims ((homed (.propose 0 9 5 1 0 0 0 0) [] []).setAgenda [(0, .claimClose 0)]) 0 = true ∧
    8 ≤ (List.replicate 8 (aProp 3 false)).length ∧
    (let s := homed (.object (aProp 3 false).ticket 1 c0 7) [aProp 3 false] []
     earlierClaims s 1 = false ∧ ∃ x, claimSlotAt s 0 = some x ∧ ∃ p ∈ x.set, p.ticket = (aProp 3 false).ticket) ∧
    (let s := (homed (.object 9 1 c0 7) [] [⟨0, 9, 3, 0⟩]).setAgenda [(0, .proposalArrive 8)]
     earlierClaims s 1 = true ∧ ∃ o ∈ s.claims.outs, o.kernel = 0 ∧ o.ticket = 9) ∧
    (firstClaim [aProp 4 true, aProp 3 false] = some (aProp 3 false)) ∧
    (let t := ticketOf 0 0 0 0
     let s := homed (.query t c0 7) [] [⟨0, t, 0, 0⟩]
     earlierClaims s 2 = false ∧ (s.group? 0).map (claimMember s) = some 0 ∧ ticketWho t = ticketWho (ticketOf 0 0 0 0) ∧
       ((s.claims.outs.filter fun o => o.kernel == 0 && ticketWho o.ticket == ticketWho t).take 16).find? (·.ticket == t) = some ⟨0, t, 0, 0⟩) ∧
    (let s := homed (.read 0 c0 7) [aProp 3 false] []
     s.claims.msgs.find? (·.1 == 7) = some (7, 0, .read 0 c0 7) ∧ earlierClaims s 2 = false ∧ (s.wave? c0).isSome = true) ∧
    (let s := homed (.verdict true 9 c0 7) [] []
     s.claims.msgs.find? (·.1 == 7) = some (7, 0, .verdict true 9 c0 7) ∧ (s.wave? c0).isSome = true) :=
  by and_intros <;> decide +kernel

/-- A port in a state, with lanes, and one of them failed. -/
def ported (st : PState) (lanes : List Nat) (bad : List Nat) (failed : List Nat) : State :=
  State.reset.setLink { State.reset.link with ports := State.reset.link.ports.set 2 { Port.reset with st, lanes, bad, failed, enable := true } }
theorem witness_Fabric :
    (2 < (ported .training [] [] []).link.ports.length ∧ ((ported .training [] [] []).port 2).st = .training ∧
      ((ported .training [] [] []).port 2).tries < 2) ∧
    (((List.range 18).filter fun l => ([17, 0] : List (Fin 18)).any fun y => y.val == l) ≠ [] ∧
      ((List.range 18).filter fun l => ([] : List (Fin 18)).any fun y => y.val == l) = []) ∧
    (let x := (ported .up (List.range 16) [] []).port 2
     x.st = .up ∧ (15 : Fin 18).val ∈ x.lanes ∧ (17 : Fin 18).val ∉ x.lanes ∧ (17 : Fin 18).val ∉ x.failed) ∧
    (let x := (ported .degraded (List.range 16) [15] []).port 2
     x.st = .degraded ∧ x.bad ≠ [] ∧ 15 ∈ x.bad ∧ (∀ k ∈ x.bad, k = 15) ∧ (x.lanes.filter fun k => !x.bad.contains k).length ≠ 0 ∧ ((List.range 18).filter fun k => !x.lanes.contains k && !x.failed.contains k) = [16, 17] ∧ x.lanes.filter (· != 15) ≠ []) ∧
    (let x := (ported .degraded (List.range 16) [] []).port 2
     x.bad = [] ∧ 1 < x.lanes.length) ∧ (let x := (ported .degraded [15] [] ((List.range 18).filter (· != 15))).port 2
     x.bad = [] ∧ x.lanes.length ≤ 1) ∧ (∃ k ∈ ((ported .degraded (List.range 16) [14, 15] []).port 2).bad, k ≠ 15) ∧
    (let x := (ported .degraded [15] [15] ((List.range 18).filter (· != 15))).port 2
     ((List.range 18).filter fun k => !x.lanes.contains k && !x.failed.contains k) = [] ∧ x.lanes.filter (· != 15) = []) ∧
    (State.reset.rota.reqs.map (·.id)).Nodup :=
  by and_intros <;> decide +kernel
/-- A write flit of the age limit, the next of its delivery context or one performed before. -/
def receiving (d : RecvDc) : State := let s := ported .up [0] [] []
  s.setLink { s.link with recv := [d], send := [⟨⟨0, 1, 0, 0⟩, 4, 0⟩] }
theorem witness_Fabric_flits :
    (((receiving ⟨⟨1, 0, 0, 0⟩, 5, [], [], 0⟩).port 2).st = .up ∧ 2 < (receiving ⟨⟨1, 0, 0, 0⟩, 5, [], [], 0⟩).link.ports.length ∧ aFlit.age ≤ 2048 ∧
      2048 < ({ aFlit with age := 2049 } : Flit).age ∧ linkOnly aFlit.type = false ∧ aFlit.pod = none ∧
      (∀ y ∈ [FlitType.hopAck, .blame], ({ aFlit with type := y } : Flit).type = y) ∧ (let f := { aFlit with of := true, seq := 6 }
        f.seq ≠ 0 ∧ f.seq ≠ 5 ∧ seqAhead f.seq 5 < seqMod / 2)) ∧
    (aFlit.dstpkg = (receiving ⟨⟨1, 0, 0, 0⟩, 5, [], [], 0⟩).link.pkgId ∧ aFlit.vc = .req ∧ aFlit.type = .write ∧
      recvDc (receiving ⟨⟨1, 0, 0, 0⟩, 5, [], [], 0⟩) ⟨1, 0, 0, 0⟩ = some ⟨⟨1, 0, 0, 0⟩, 5, [], [], 0⟩ ∧ aFlit.seq = 5 ∧ MemOk State.reset) ∧
    (recvDc (receiving ⟨⟨1, 0, 0, 0⟩, 4, [5], [], 0⟩) ⟨1, 0, 0, 0⟩ = some ⟨⟨1, 0, 0, 0⟩, 4, [5], [], 0⟩ ∧ aFlit.seq ∈ [5]) ∧
    ({ aFlit with dstpkg := 3 } : Flit).dstpkg ≠ State.reset.link.pkgId ∧
    (let s := (receiving ⟨⟨1, 0, 0, 0⟩, 5, [], [], 0⟩).setClk { State.reset.clk with cycle := usCycles State.reset 100 }
     s.link.send = [⟨⟨0, 1, 0, 0⟩, 4, 0⟩] ∧ 0 + 50 * usTicks ≤ s.wall ∧ (∀ f ∈ s.mem.fabs, ¬(f.key = ⟨0, 1, 0, 0⟩ ∧ f.typ ≠ .host ∧ f.gone = false)) ∧
       0 + 100 * usTicks ≤ s.wall) :=
  ⟨by decide +kernel, ⟨rfl, rfl, rfl, by decide +kernel, rfl, by unfold MemOk; decide +kernel⟩, by and_intros <;> decide +kernel⟩
theorem witness_Reliability :
    (spareCore 0 base = true ∧ (1, 0) ∉ base.rel.repairs) ∧
    spareCore 0 (base.setRel { base.rel with spares := [(1, 5, 0), (1, 6, 1)] }) = false ∧ (base.groups.map (·.gid)).Nodup ∧
    (∃ g ∈ base.groups, (g.place.map (·.core)) = some 0 ∧ (base.kernel? g.kernel).isSome = true) ∧
    (sparesUsed base 3 (fun u => u % (1024 * 65536) == rowUnit 0 0 0 0) < 64 ∧
      64 ≤ sparesUsed (base.setRel { base.rel with repairs := (List.range 64).map fun r => (3, rowUnit 0 0 0 r) }) 3
        (fun u => u % (1024 * 65536) == rowUnit 0 0 0 0)) ∧
    (sparesUsed base 4 (fun u => u / 32 == 0) = 0 ∧ sparesUsed (base.setRel { base.rel with spares := [(4, chanUnit 0 31, 0)] }) 4 (fun u => u / 32 == 0) ≠ 0) ∧
    (0, 0, 0) ∉ base.mem.l2ways ∧ (List.replicate 32 (0 : Byte)).length = 32 ∧ ({ State.reset.clk with trip := true } : Clk).trip = true :=
  by and_intros <;> decide +kernel
theorem witness_RegistersTools :
    (∃ x, (owned [anOwner 1 .created false]).owner? 1 = some x ∧ x.st = .created) ∧ 1 % 2 ^ 16 ≠ 0 ∧ (1024 ≤ 1024 % 2 ^ 32 ∧ 2 ^ 32 / 2 ^ 48 % 2 = 0) ∧
    ((State.reset.ctx 1023).st = .free ∧ (base.ctx 0).st ≠ .free ∧ (base.ctx 0).st = .active) ∧ parseArgs ["-x"] {} = none ∧
    (State.reset.dbg.sel = State.reset.link.pkgId ∧ (State.reset.setDbg { State.reset.dbg with sel := 1 }).dbg.sel ≠ State.reset.link.pkgId) ∧
    (let s := (base.setOwners [{ loaderOwner with timed := true }]).setDbg { base.dbg with attach := [(0, 0)] }
     attachedHere s = some 0 ∧ s.timed (s.ctx 0).latched.owner = true) ∧ attachedHere base = none ∧
    ((owned [anOwner 1 .running false]).owner? 1).map (fun x => (x.timed, decide (x.st ≠ .retired))) = some (false, true) ∧
    ownerBusyKernels (owned [anOwner 1 .running false]) 1 = false ∧ ownerBusyKernels base 0 = true ∧ State.reset.owner? 1 = none :=
  ⟨⟨_, rfl, rfl⟩, by and_intros <;> decide +kernel⟩
/-- A load of macro 0 that has returned, or failed, with an MMA held for it, or none. -/
def aLoadB (got : EngVal) : MldbJob := ⟨7, 0, 0, 0, aTid, [0, 0, 0, 0, 0], [got], 0, 0, 0⟩
def loading (got : EngVal) (ms : List Mma) : State :=
  (base.updCore 0 fun k => { k with macros := [{ Macro.empty with tag := some 0, loading := some 7 }, Macro.empty, Macro.empty, Macro.empty] }).setEng
    { base.eng with mldbs := [aLoadB got], mmas := ms }
def aRow : ARow := ⟨0, [.bad 5 0x40], [], [], 0, 1, false⟩
/-- An MMA of one row and one macro: queued with its row here, its row on the way, its row in the stage, its rows done. -/
def mmaAt (f : Mma → Mma) : State := base.setEng { base.eng with mmas := [f { aMma with param := param 1 }] }
theorem witness_MatrixEngine :
    (∀ got ∈ [EngVal.val 3, .bad 5 0], (loading got [{ aMma with hold := [7] }]).eng.mldbs.find? (fun j => j.id == 7 && j.vals.all EngVal.there) = some (aLoadB got)) ∧
    (firstBad (aLoadB (.val 3)).vals = none ∧ firstBad (aLoadB (.bad 5 0)).vals = some (5, 0) ∧ 7 ∈ ({ aMma with hold := [7] } : Mma).hold ∧
      ((loading (.val 3) []).core 0).macros[0]? = some { Macro.empty with tag := some 0, loading := some 7 } ∧ (base.group? 0).isSome = true) ∧
    (let s := mmaAt fun m => { m with adata := [{ aRow with here := true }] }
     runningMma s 0 = none ∧ (nextMma s 0).map (·.id) = some 1 ∧ (s.mma? 1).map (·.acci) = some false ∧ (nextMma s 0) = s.mma? 1) ∧
    ((runningMma (mmaAt fun m => { m with st := .running }) 0).map (·.next) = some (base.now)) ∧
    (let s := mmaAt fun m => { m with adata := [aRow] }
     ((s.mma? 1).bind fun m => m.adata.find? (fun r => r.row == 0 && !r.here && r.vals.all EngVal.there)) = some aRow ∧ firstBad aRow.vals = some (5, 0x40) ∧
       firstBad ({ aRow with vals := [.val 1] } : ARow).vals = none) ∧
    (let s := mmaAt fun m => { m with st := .running, adata := [{ aRow with here := true }], flight := [⟨0, 0, []⟩], done := [1] }
     (runningMma s 0).map (fun m => (m.id, m.stopping, m.next, decide (m.rows ≤ m.rowsDone 0), decide (m.nk ≤ 0 + 1))) = some (1, false, s.now, true, true) ∧
       ((runningMma s 0).bind fun m => m.adata.find? (·.row == 0)).isSome = true) ∧
    (let s := mmaAt fun m => { m with st := .running, done := [1] }
     (s.mma? 1).map (fun m => (m.st, m.flight, decide (m.rows ≤ m.rowsDone (m.nk - 1)), m.doneVa)) = some (.running, [], true, 0)) :=
  by and_intros <;> decide +kernel
/-- A step that answers a next state; one of each clock; an instruction in every part of the round trip. -/
def answers (o : Out) : Bool :=
  match o with
  | .next _ => true
  | _ => false
theorem witness_IssuePositions : answers (step State.reset) = true := by decide +kernel
theorem witness_StepAnswers : State.reset.clk.stopped = false ∧ (∀ e ∈ base.agenda, encode e.2 = []) ∧
    (∀ r w k i, base.turn = .resume r → base.wave? r = some w → w.status = .waiting k i → encode i ≠ []) ∧
    (let s := (State.reset.setClk { State.reset.clk with stopped := true }).setAgenda [(9, .reset)]
     s.clk.stopped = true ∧ ∃ e ∈ s.agenda, e.2 = .reset) :=
  ⟨rfl, by decide +kernel, (fun _ _ _ _ h => by
    have e : base.turn = .issue c0 := by decide +kernel
    rw [e] at h
    cases h), by decide +kernel⟩
theorem witness_EncodingExact : wf (.lit true .vshli 63 63 31) = true ∧ encode (.lit true .vshli 63 63 31) ≠ [] ∧
    (∀ w ∈ [0x001461F2], w < 2 ^ 32) ∧ (decodeWords [0x001461F2]).toOption = some (.vadds false 5 6 7 .rev, 1) := by decide
theorem witness_MemoryCells : cellsWf [(0, 1), (0xFFFFFFFFFFFFFFFF, 255)] = true ∧ MemOk base := ⟨by decide, by unfold MemOk; decide +kernel⟩

end Sys2Proof.Tests
end

section
/-! PROOFS. Long-latency results: an entry of the return buffer that a later park writes (R51, R53), and what VRCP to VTANH and VFDIV
put into it (R129 to R132). -/

namespace Sys2Proof.Machine

/-! ### Entries of the return buffer -/

/-- The entry of a result that returns by a timer, in the return buffer. -/
def timedEntry (s : State) (c : Cur) (e : Pend) : Pend := { e with id := s.mem.nextId, entry := true, left := 1, pc := c.pc }

/-- A state after a timed result of wave c, whose wave is then w: one number is taken, and one return stands in the agenda. -/
def afterTimed (s : State) (c : Cur) (lat : Nat) (w : Wave) : State :=
  ((s.updWave c.ref fun _ => w).setMem { s.mem with nextId := s.mem.nextId + 1 }).schedule (s.now + lat)
    (.resultReturn c.ref s.mem.nextId)

theorem afterTimed_updWave (s : State) (c : Cur) (lat : Nat) (w : Wave) (f : Wave → Wave) :
    (afterTimed s c lat w).updWave c.ref f = afterTimed s c lat (f w) :=
  congrArg (fun t : State => (t.setMem { s.mem with nextId := s.mem.nextId + 1 }).schedule (s.now + lat)
    (.resultReturn c.ref s.mem.nextId)) (State.updWave_updWave s c.ref (fun _ => w) f)

/-- A wave with one more entry in its return buffer. -/
def withEntry (e : Pend) (w : Wave) : Wave := { w with pend := w.pend ++ [e] }

theorem pushTimed_atIssue (s : State) (c : Cur) (lat : Nat) (e : Pend) : pushTimed (c.noted s) lat e (atIssue s c) =
    afterTimed s c lat (withEntry (timedEntry s c e) (c.noted s).w) :=
  afterTimed_updWave s c lat (c.noted s).w (withEntry (timedEntry s c e))

/-- An instruction whose effect is a timed result takes one entry and goes on. -/
theorem enters_of {i : Instr} {p x : Bool} {vs hs as : List Nat} {lat : Nat} {e : Pend} {s : State} {c : Cur}
    (hrun : c.w.status = .running)
    (hex : exec i s = .next (finishInstr i { p, vs, hs, as, entry := true, sfu := x } (c.noted s)
      (.done (pushTimed (c.noted s) lat e (atIssue s c))))) :
    Enters i p lat e.ws e.flags e.flab e.fail s c := by
  rw [pushTimed_atIssue, finish_done, retireInstr, noted_ref, afterTimed_updWave] at hex
  refine ⟨_, _, timedEntry s c e, hex, rfl, ?_, rfl, rfl, rfl, rfl, rfl, rfl, rfl, rfl, ?_, ?_, retire_advances rfl hrun⟩
  all_goals rw [retireWave_running (show (withEntry (timedEntry s c e) (c.noted s).w).status = .running from hrun)]
  · rfl
  · exact sameRegs_rest ..
  · rfl

/-! ### The special-function unit -/

/-! Noting the issue leaves the operands of an instruction as they are. -/

@[simp] theorem noted_lane (c : Cur) (s : State) (n : Nat) (l : Nat) : (c.noted s).w.lane n l = c.w.lane n l := rfl
@[simp] theorem noted_routed (c : Cur) (s : State) (b : Reg) (r : Route) (l : Nat) : routed (c.noted s).w b r l = routed c.w b r l := by
  cases r <;> rfl
@[simp] theorem noted_vlab (c : Cur) (s : State) (n : Reg) : vlab (c.noted s).w n = vlab c.w n := rfl
@[simp] theorem noted_routeLab (c : Cur) (s : State) (r : Route) : routeLab (c.noted s).w r = routeLab c.w r := by
  cases r <;> rfl

/-- The entry of a result of the special-function unit: values, flags and their label. -/
def sfuEntry (d : Reg) (m : BitVec 64) (r : Nat → Word × Flags) (l : Label) : Pend :=
  { Pend.blank "SFU" with
    sfu := true, ws := [RegWrite.lanes d m (fun k => (r k).1) l], flags := laneFlags m fun k => (r k).2, flab := l }

/-- A result of the special-function unit takes an entry that holds the active lanes' values, and their flags together. -/
theorem sfuOp_enters {i : Instr} {p : Bool} {vs : List Nat} {d : Reg} {lat : Nat} {f : Wave → Nat → Word × Flags} {lab : Wave → Label}
    {s : State} {c : Cur} (hex : exec i s = sfuOp i p vs d lat f lab s) (hi : Issues s c 1)
    (hroom : RoomSfu c) (hv : InV c vs) (hp : i.privileged = false) (hw : wf i = true) :
    let r := f (c.noted s).w
    let l := lab (c.noted s).w ||| c.w.ctxlbl
    ∃ fl : Flags, Enters i p lat [RegWrite.lanes d c.act (fun k => (r k).1) l] fl l none s c ∧
      ∀ k, fl.getLsbD k = (List.range 64).any fun j => c.act.getLsbD j && (r j).2.getLsbD k := by
  intro r l
  have hnext : exec i s = .next (finishInstr i { p, vs, entry := true, sfu := true } (c.noted s)
      (.done (pushTimed (c.noted s) lat (sfuEntry d c.act r l) (atIssue s c)))) :=
    effect_next hi.1 hex (fun _ => hroom.1) (fun _ => hroom.2)
      (check_none (.inr hi.2) (by simp [hp]) hw hv (InH_nil c) (InA_nil c))
  exact ⟨_, enters_of hi.1.2.2 hnext, fun k => laneFlags_bit c.act (fun j => (r j).2) k⟩

/-- The instructions of the special-function unit with the codes of their functions (R130). -/
def sfuInstrs (p : Bool) (d b : Reg) (r : Route) : List (Nat × Instr) :=
  [(0, .vrcp p d b r), (1, .vrsq p d b r), (2, .vsqrt p d b r), (3, .vexp2 p d b r), (4, .vlog2 p d b r), (5, .vsin p d b r),
    (6, .vcos p d b r), (7, .vtanh p d b r)]

/-- Each is the operation of its function, is not privileged, and is well formed whatever its operands. -/
theorem exec_sfuInstrs {p : Bool} {d b : Reg} {r : Route} {e : Nat × Instr} (he : e ∈ sfuInstrs p d b r) (s : State) :
    exec e.2 s = sfuU e.2 p e.1 d b r s ∧ e.2.privileged = false ∧ wf e.2 = true := by
  revert e
  simp only [sfuInstrs, List.forall_mem_cons]
  exact ⟨⟨rfl, rfl, rfl⟩, ⟨rfl, rfl, rfl⟩, ⟨rfl, rfl, rfl⟩, ⟨rfl, rfl, rfl⟩, ⟨rfl, rfl, rfl⟩, ⟨rfl, rfl, rfl⟩, ⟨rfl, rfl, rfl⟩,
    ⟨rfl, rfl, rfl⟩, fun _ h => nomatch h⟩

/-- The division is an operation of the unit that takes 64 cycles (R132). -/
theorem exec_vfdiv (p : Bool) (d a b : Reg) (r : Route) (s : State) : exec (.vfdiv p d a b r) s =
    sfuOp (.vfdiv p d a b r) p [d, a, b] d 64 (fun w l => asWord (fDiv (w.lane a l).toNat (routed w b r l).toNat))
      (fun w => vlab w a ||| vlab w b ||| routeLab w r) s := rfl

/-! ### Special operands (R131) -/

/-- A NaN gives the canonical NaN and no flag. -/
theorem sfu_nan {fn x : Nat} (hf : fn < 8) (hx : decodeF f32 x = .nan) : sfu fn x = (f32.nanBits, 0) := by
  have hcases : fn = 0 ∨ fn = 1 ∨ fn = 2 ∨ fn = 3 ∨ fn = 4 ∨ fn = 5 ∨ fn = 6 ∨ fn = 7 := by omega
  rcases hcases with rfl | rfl | rfl | rfl | rfl | rfl | rfl | rfl
  · simp only [sfu, vrcp, hx]; rfl
  · simp only [sfu, vrsq, hx]; rfl
  · simp only [sfu, vsqrt, hx]; rfl
  · simp only [sfu, vexp2, hx]; rfl
  · simp only [sfu, vlog2, hx]; rfl
  · simp only [sfu, vsincos, hx]; rfl
  · simp only [sfu, vsincos, hx]; rfl
  · simp only [sfu, vtanh, hx]; rfl

/-- The functions of code 1, 2 and 4 (inverse root, root, logarithm) have no value at a negative number. -/
theorem sfu_negative {fn x m : Nat} {e : Int} (hf : fn = 1 ∨ fn = 2 ∨ fn = 4) (hx : decodeF f32 x = .fin true m e) (hm : m ≠ 0) :
    sfu fn x = (f32.nanBits, fInvalid) := by
  rcases hf with rfl | rfl | rfl
  · simp [sfu, vrsq, hx, hm]
  · simp [sfu, vsqrt, hx, hm]
  · simp [sfu, vlog2, hx, hm]

/-- Nor have they one at the negative infinity. -/
theorem sfu_negInf {fn x : Nat} (hf : fn = 1 ∨ fn = 2 ∨ fn = 4) (hx : decodeF f32 x = .inf true) :
    sfu fn x = (f32.nanBits, fInvalid) := by
  rcases hf with rfl | rfl | rfl
  · simp [sfu, vrsq, hx]
  · simp [sfu, vsqrt, hx]
  · simp [sfu, vlog2, hx]

/-- Sine and cosine have no value at an infinity. -/
theorem sfu_sincos_inf {fn x : Nat} {n : Bool} (hf : fn = 5 ∨ fn = 6) (hx : decodeF f32 x = .inf n) :
    sfu fn x = (f32.nanBits, fInvalid) := by
  rcases hf with rfl | rfl
  · simp [sfu, vsincos, hx]
  · simp [sfu, vsincos, hx]

theorem decodeF_posInf : decodeF f32 0x7F80_0000 = .inf false := by decide
theorem decodeF_negInf : decodeF f32 0xFF80_0000 = .inf true := by decide

/-- Settles O10: each instruction by the entry that its operation takes, the special operands by the cases of their values. -/
theorem specialFunctions : Obligations.SpecialFunctions := by
  unfold Obligations.SpecialFunctions
  refine ⟨⟨?functions, ?division⟩, ?operands⟩
  case functions =>
    intro p d b r s c hi hroom hv y lab e he
    obtain ⟨hex, hp, hw⟩ := exec_sfuInstrs he s
    simpa [asWord, nat32] using sfuOp_enters hex hi hroom hv hp hw
  case division =>
    intro p d a b r s c hi hroom hv q lab
    simpa [asWord, nat32, fDiv, finish] using sfuOp_enters (exec_vfdiv p d a b r s) hi hroom hv rfl rfl
  case operands =>
    refine ⟨fun fn x hf hx => ?nan, ?rcp, ?rsq, ?sqrt, fun fn x m e hf hx hm => sfu_negative hf hx hm,
      fun fn hf => sfu_negInf hf decodeF_negInf, ?exp2, ?log2,
      fun fn hf => ⟨sfu_sincos_inf hf decodeF_posInf, sfu_sincos_inf hf decodeF_negInf⟩, ?tanh⟩
    case nan =>
      cases h : decodeF f32 x with
      | nan => exact sfu_nan hf h
      | inf n => simp [h, Fv.isNaN] at hx
      | fin n m e => simp [h, Fv.isNaN] at hx
    case rcp => decide
    case rsq => decide
    case sqrt => decide
    case exp2 => decide
    case log2 => decide
    case tanh => decide

end Sys2Proof.Machine
end

section
/-! PROOFS. Random numbers: what VRNG draws and counts, and what RNGKEY sets (R133 to R137). -/

namespace Sys2Proof.Machine

/-! ### A vector write, register by register -/

theorem vreg_writeV (d : Reg) (m : BitVec 64) (part : Bool) (f : Nat → Word) (lab : Label) (w : Wave) (k : Reg) :
    (w.writeV d m part f lab).vreg k = if k = d then Wave.mergeV (w.vreg d) m part f lab else w.vreg k := by
  have h : (w.writeV d m part f lab).vreg k = if k.val = d.val then Wave.mergeV (w.vreg d) m part f lab else w.vreg k :=
    Wave.vreg_putV _ _ _ _ k.isLt
  simpa only [Fin.ext_iff] using h

theorem lane_writeV (d : Reg) (m : BitVec 64) (part : Bool) (f : Nat → Word) (lab : Label) (w : Wave) {l : Nat} (hl : l < 64) :
    (w.writeV d m part f lab).lane d l = if m.getLsbD l then f l else w.lane d l := by
  rw [Wave.lane, vreg_writeV, if_pos rfl, Wave.mergeV_lane _ _ _ _ _ _ hl]
  rfl

theorem vreg_lab_writeV (d : Reg) (m : BitVec 64) (part : Bool) (f : Nat → Word) (lab : Label) (w : Wave) :
    ((w.writeV d m part f lab).vreg d).lab = if part = true ∨ m ≠ BitVec.allOnes 64 then lab ||| (w.vreg d).lab else lab := by
  rw [vreg_writeV, if_pos rfl, Wave.mergeV_lab]

/-! ### Draws -/

/-- An F32 value does not depend on bits beyond its word. -/
theorem decodeF_nat32 (x : Nat) : decodeF f32 (nat32 x).toNat = decodeF f32 x := by
  have hs : x % 2 ^ 32 / f32.signBit % 2 = x / f32.signBit % 2 := by
    show x % 2 ^ 32 / 2 ^ 31 % 2 = x / 2 ^ 31 % 2
    omega
  have he : x % 2 ^ 32 / 2 ^ f32.fw % 2 ^ f32.ew = x / 2 ^ f32.fw % 2 ^ f32.ew := by
    show x % 2 ^ 32 / 2 ^ 23 % 2 ^ 8 = x / 2 ^ 23 % 2 ^ 8
    omega
  have hf : x % 2 ^ 32 % 2 ^ f32.fw = x % 2 ^ f32.fw := by
    show x % 2 ^ 32 % 2 ^ 23 = x % 2 ^ 23
    omega
  simp only [decodeF, nat32, BitVec.toNat_ofNat, hs, he, hf]

/-- The word of a lane's draw (R134). -/
theorem rngDraw_word (c : Cur) (k l : Nat) : rngDraw c false k l =
    (philox (BitVec.ofNat 32 ((c.g.lin * c.g.nwaves + c.ref.wave) * 64 + l)) (c.w.rngctr.getD l 0) (BitVec.ofNat 32 k) 0
      (c.w.rngkey.setWidth 32) (BitVec.ofNat 32 (c.w.rngkey.toNat / 2 ^ 32))).1 := by
  simp only [rngDraw, glane, nat32, BitVec.ofNat_toNat, Bool.false_eq_true, if_false]

/-- The F32 form draws the upper 24 bits of the same word, as a multiple of 2^-24 (R134). -/
theorem rngDraw_f32 (c : Cur) (k l : Nat) :
    rngDraw c true k l = nat32 (roundF f32 (.fin false ((rngDraw c false k l).toNat / 2 ^ 8) (-24))).1 := by
  simp only [rngDraw, Bool.false_eq_true, if_true, if_false]

/-- The wave that VRNG leaves: the draws in v[d], and the active lanes' counters advanced by one (R135). -/
def rngWave (d : Reg) (act : BitVec 64) (f : Nat → Word) (lab : Label) (w : Wave) : Wave :=
  { w.writeV d act false f lab with
    rngctr := (List.range 64).map fun l => w.rngctr.getD l 0 + if act.getLsbD l then 1 else 0 }

theorem vrng_next {p f : Bool} {d : Reg} {k : Fin 64} {s : State} {c : Cur} (hi : Issues s c 1) (hd : d.val < c.g.vdecl) :
    exec (.vrng p f d k) s = .next (s.updWave c.ref fun _ => retireWave { p, vs := [d] } c.act s.clk.cycle
      (rngWave d c.act (rngDraw c f k) (c.w.rnglab ||| c.w.ctxlbl) (c.noted s).w)) :=
  ordinary_next (n := 1) (f := fun c => rngWave d c.act (rngDraw c f k) (c.w.rnglab ||| c.w.ctxlbl) c.w) rfl hi
    (fun r hr => by rwa [List.mem_singleton.1 hr]) rfl rfl

theorem rngkey_next {p : Bool} {a : Reg} {s : State} {c : Cur} (hi : Issues s c 1) (ha : even a = true) :
    exec (.rngkey p a) s = .next (s.updWave c.ref fun _ => retireWave { p } c.act s.clk.cycle
      { (c.noted s).w with rngkey := BitVec.ofNat 64 (c.w.pair a), rnglab := c.w.pairLab a ||| c.w.ctxlbl }) :=
  ordinary_next (n := 1) (f := fun c => { c.w with rngkey := BitVec.ofNat 64 (c.w.pair a), rnglab := c.w.pairLab a ||| c.w.ctxlbl })
    rfl hi (InV_nil c) rfl ha

/-- Settles O11: VRNG is a vector write of the draws beside one of the counters, RNGKEY writes the key and its label. -/
theorem randomNumbers : Obligations.RandomNumbers := by
  unfold Obligations.RandomNumbers
  intro p d a k s c hi w0
  have hrun : c.w.status = .running := hi.1.2.2
  have hw0 : ∀ l, rngDraw c false k l = w0 l := rngDraw_word c k
  refine ⟨fun hd f => ?vrng, fun ha => ?rngkey⟩
  case vrng =>
    let w := rngWave d c.act (rngDraw c f k) (c.w.rnglab ||| c.w.ctxlbl) (c.noted s).w
    have hlane : ∀ l, l < 64 → w.lane d l = if c.act.getLsbD l then rngDraw c f k l else c.w.lane d l :=
      fun l hl => lane_writeV d c.act false _ _ (c.noted s).w hl
    have hadv : Advances p 1 c s (retireWave { p, vs := [d] } c.act s.clk.cycle w) := retire_advances rfl hrun
    refine ⟨_, _, vrng_next hi hd, rfl, ?_⟩
    rw [retireWave_running (show w.status = .running from hrun)] at hadv ⊢
    refine ⟨fun l hl hact => ⟨?word, ?float⟩, fun l hl hact => ?other, ?lab, fun l hl => rangeMap_getD hl, rfl, rfl, fun n hn => ?regs,
      fun _ => rfl, fun _ => rfl, rfl, ⟨rfl, rfl, rfl, rfl, rfl⟩,
      ⟨rfl, rfl, rfl, rfl, rfl, rfl, rfl, cancel_held (.v d) c.w, rfl⟩, rfl, rfl, cancel_entries (.v d) c.w, hadv⟩
    case word =>
      rintro rfl
      exact (hlane l hl).trans (by rw [if_pos hact, hw0])
    case float =>
      rintro rfl
      have hx : w.lane d l = nat32 (roundF f32 (.fin false ((w0 l).toNat / 2 ^ 8) (-24))).1 := by
        rw [hlane l hl, if_pos hact, rngDraw_f32, hw0]
      exact (congrArg (fun x : Word => decodeF f32 x.toNat) hx).trans (decodeF_nat32 _)
    case other => exact (hlane l hl).trans (by rw [hact]; rfl)
    case lab =>
      have hl := vreg_lab_writeV d c.act false (rngDraw c f k) (c.w.rnglab ||| c.w.ctxlbl) (c.noted s).w
      simp only [Bool.false_eq_true, false_or] at hl
      exact hl
    case regs => exact (vreg_writeV d c.act false _ _ (c.noted s).w n).trans (if_neg hn)
  case rngkey =>
    let w : Wave := { (c.noted s).w with rngkey := BitVec.ofNat 64 (c.w.pair a), rnglab := c.w.pairLab a ||| c.w.ctxlbl }
    have hadv : Advances p 1 c s (retireWave { p } c.act s.clk.cycle w) := retire_advances rfl hrun
    refine ⟨_, _, rngkey_next hi ha, rfl, ?_⟩
    rw [retireWave_running (show w.status = .running from hrun)] at hadv ⊢
    exact ⟨rfl, rfl, rfl, fun _ => rfl, fun _ => rfl, fun _ => rfl, rfl, ⟨rfl, rfl, rfl, rfl, rfl⟩,
      ⟨rfl, rfl, rfl, rfl, rfl, rfl, rfl, rfl, rfl⟩, rfl, rfl, rfl, hadv⟩

end Sys2Proof.Machine
end

section
/-! PROOFS. Uniform arithmetic, compare, immediates, constants and select (R139 to R143), and the words of the U set that are no
instruction. -/

namespace Sys2Proof.Machine

/-! ### Words of the U set that are no instruction (R62, R63) -/

/-- A word of the U set that is not LIT is what its format says (R62). -/
theorem decodeWords_error_of_uniform {w : Nat} {rest : List Nat} {e : DecErr} (hset : fld w 31 1 = 1) (hlit : fld w 24 6 ≠ 9)
    (hdec : decodeU w = .error e) : decodeWords (w :: rest) = .error e := by
  have hl : isLit w = false := by simp [isLit, hlit]
  simp only [decodeWords, hl, decodeWord, hset, hdec, Bool.false_eq_true, if_false, Nat.one_ne_zero]

theorem noInstr_illegal {w : Nat} {rest : List Nat} (hset : fld w 31 1 = 1) (hlit : fld w 24 6 ≠ 9)
    (hdec : decodeU w = .error .illegalOp) : NoInstr .illegalOp illegalOp (w :: rest) :=
  noInstr_of (decodeWords_error_of_uniform hset hlit hdec) (.inl ⟨rfl, rfl⟩)

theorem noInstr_reserved {w : Nat} {rest : List Nat} (hset : fld w 31 1 = 1) (hlit : fld w 24 6 ≠ 9)
    (hdec : decodeU w = .error .reservedEnc) : NoInstr .reservedEnc reservedEnc (w :: rest) :=
  noInstr_of (decodeWords_error_of_uniform hset hlit hdec) (.inr ⟨rfl, rfl⟩)

/-- A field that must be zero and is not is refused (R63). -/
theorem need_nonzero {w lo n : Nat} (i : Instr) (h : fld w lo n ≠ 0) : need (z w lo n) i = .error .reservedEnc := by
  simp [need, z, h]

theorem decodeU_salu_unassigned {w : Nat} (hmaj : fld w 24 6 = 0) (hfn : 18 ≤ fld w 0 6) : decodeU w = .error .illegalOp := by
  obtain ⟨n, hn⟩ := Nat.exists_eq_add_of_le' hfn
  simp only [decodeU, hmaj, hn]

theorem decodeU_salu_reserved {w : Nat} (hmaj : fld w 24 6 = 0) (hfn : fld w 0 6 = 15 ∨ fld w 0 6 = 16) (hsb : fld w 6 6 ≠ 0) :
    decodeU w = .error .reservedEnc := by
  rcases hfn with hfn | hfn
  · simp only [decodeU, hmaj, hfn, need_nonzero _ hsb]
  · simp only [decodeU, hmaj, hfn, need_nonzero _ hsb]

theorem decodeU_sset_unassigned {w : Nat} (hmaj : fld w 24 6 = 1) (hfn : 6 ≤ fld w 0 6) : decodeU w = .error .illegalOp := by
  obtain ⟨n, hn⟩ := Nat.exists_eq_add_of_le' hfn
  simp only [decodeU, hmaj, hn, CondS.ofCode, asg]

theorem decodeU_shift_reserved {w : Nat} (hlo : 6 ≤ fld w 24 6) (hhi : fld w 24 6 ≤ 8) (hz : fld w 5 7 ≠ 0) :
    decodeU w = .error .reservedEnc := by
  have hmaj : fld w 24 6 = 6 ∨ fld w 24 6 = 7 ∨ fld w 24 6 = 8 := by omega
  rcases hmaj with hmaj | hmaj | hmaj
  · simp only [decodeU, hmaj, need_nonzero _ hz]
  · simp only [decodeU, hmaj, need_nonzero _ hz]
  · simp only [decodeU, hmaj, need_nonzero _ hz]

theorem decodeU_half_reserved {w : Nat} (hmaj : fld w 24 6 = 0x0A ∨ fld w 24 6 = 0x0B) (hz : fld w 16 2 ≠ 0) :
    decodeU w = .error .reservedEnc := by
  rcases hmaj with hmaj | hmaj
  · simp only [decodeU, hmaj, need_nonzero _ hz]
  · simp only [decodeU, hmaj, need_nonzero _ hz]

theorem decodeU_mask_unassigned {w : Nat} (hmaj : fld w 24 6 = 0x0F) (hfn : 11 ≤ fld w 0 6) : decodeU w = .error .illegalOp := by
  obtain ⟨n, hn⟩ := Nat.exists_eq_add_of_le' hfn
  simp only [decodeU, hmaj, hn]

theorem decodeU_vlane_unassigned {w : Nat} (hmaj : fld w 24 6 = 0x38) (hfn : fld w 0 6 ≠ 0) : decodeU w = .error .illegalOp := by
  simp only [decodeU, hmaj, if_neg hfn]

theorem decodeU_vred_unassigned {w : Nat} (hmaj : fld w 24 6 = 0x27) (hfn : 8 ≤ fld w 0 6) : decodeU w = .error .illegalOp := by
  obtain ⟨n, hn⟩ := Nat.exists_eq_add_of_le' hfn
  simp only [decodeU, hmaj, hn, RedOp.ofCode, asg]

/-! ### Words as integers (R70) -/

theorem add_eq_ofNat (x y : Word) : x + y = BitVec.ofNat 32 (x.toNat + y.toNat) := by
  rw [BitVec.ofNat_add, BitVec.ofNat_toNat, BitVec.ofNat_toNat, BitVec.setWidth_eq, BitVec.setWidth_eq]

theorem mul_eq_ofNat (x y : Word) : x * y = BitVec.ofNat 32 (x.toNat * y.toNat) := by
  rw [BitVec.ofNat_mul, BitVec.ofNat_toNat, BitVec.ofNat_toNat, BitVec.setWidth_eq, BitVec.setWidth_eq]

theorem sub_eq_ofInt (x y : Word) : x - y = BitVec.ofInt 32 (x.toNat - y.toNat) := by
  apply BitVec.eq_of_toNat_eq
  rw [BitVec.toNat_sub, BitVec.toNat_ofInt]
  have hx := x.isLt
  have hy := y.isLt
  omega

theorem mulHi_eq_extract (x y : Word) : mulHi x y = BitVec.extractLsb' 32 32 (BitVec.ofInt 64 (x.toInt * y.toInt)) := by
  apply BitVec.eq_of_toNat_eq
  rw [mulHi, BitVec.toNat_ofInt, BitVec.extractLsb'_toNat, BitVec.toNat_ofInt, Nat.shiftRight_eq_div_pow]
  omega

theorem mulHiN_eq_extract (x y : Word) : mulHiN x y = BitVec.extractLsb' 32 32 (BitVec.ofNat 64 (x.toNat * y.toNat)) := by
  apply BitVec.eq_of_toNat_eq
  rw [mulHiN, BitVec.toNat_ofNat, BitVec.extractLsb'_toNat, BitVec.toNat_ofNat, Nat.shiftRight_eq_div_pow]
  omega

theorem shl_eq_ofNat (x : Word) (n : Nat) : shl x n = BitVec.ofNat 32 (x.toNat * 2 ^ n) := by
  apply BitVec.eq_of_toNat_eq
  rw [shl, BitVec.toNat_shiftLeft, BitVec.toNat_ofNat, Nat.shiftLeft_eq]

theorem shr_eq_ofNat (x : Word) (n : Nat) : shr x n = BitVec.ofNat 32 (x.toNat / 2 ^ n) := by
  rw [shr, ← Nat.shiftRight_eq_div_pow, ← BitVec.toNat_ushiftRight, BitVec.ofNat_toNat, BitVec.setWidth_eq]

theorem sra_eq_ofInt (x : Word) (n : Nat) : sra x n = BitVec.ofInt 32 (x.toInt / 2 ^ n) := by
  rw [sra, ← BitVec.ofInt_toInt (x := x.sshiftRight n), BitVec.toInt_sshiftRight, Int.shiftRight_eq_div_pow]
  norm_cast

/-- Counting by a fold the numbers that a predicate holds of. -/
theorem foldl_count_eq_filter_length (q : Nat → Bool) (ls : List Nat) (n : Nat) :
    ls.foldl (fun n k => if q k then n + 1 else n) n = n + (ls.filter q).length := by
  induction ls generalizing n with
  | nil => rfl
  | cons k ls ih =>
    rw [List.foldl_cons, ih, List.filter_cons]
    split
    · rw [List.length_cons]; omega
    · rfl

theorem popc_eq_ofNat (x : Word) : popc x = BitVec.ofNat 32 ((List.range 32).filter fun k => x.getLsbD k).length := by
  rw [popc, foldl_count_eq_filter_length, Nat.zero_add]

/-- The leading zeros of a word: as many as there are above its highest bit. -/
theorem clz_spec (x : Word) : (clz x).toNat ≤ 32 ∧ x.toNat < 2 ^ (32 - (clz x).toNat) ∧
    ((clz x).toNat < 32 → x.getLsbD (31 - (clz x).toNat) = true) := by
  by_cases hx : x = 0
  · subst hx
    decide
  · have hpos : x.toNat ≠ 0 := fun h => hx (BitVec.eq_of_toNat_eq h)
    have hlog : x.toNat.log2 < 32 := (Nat.log2_lt hpos).2 x.isLt
    have hz : (clz x).toNat = 31 - x.toNat.log2 := by
      rw [clz, if_neg hx, BitVec.toNat_ofNat]
      omega
    rw [hz, show 32 - (31 - x.toNat.log2) = x.toNat.log2 + 1 by omega, show 31 - (31 - x.toNat.log2) = x.toNat.log2 by omega]
    exact ⟨by omega, Nat.lt_log2_self, fun _ => Nat.testBit_log2 hpos⟩

/-- SLIH puts its immediate above the lower half (R142). -/
theorem upperHalf_eq_append (imm : BitVec 16) (x : Word) :
    nat32 (imm.toNat * 2 ^ 16 + x.toNat % 2 ^ 16) = imm ++ x.extractLsb' 0 16 := by
  apply BitVec.eq_of_toNat_eq
  have hi := imm.isLt
  rw [nat32, BitVec.toNat_ofNat, BitVec.toNat_append, BitVec.extractLsb'_toNat, Nat.shiftRight_zero,
    ← Nat.shiftLeft_add_eq_or_of_lt (Nat.mod_lt _ (by decide)), Nat.shiftLeft_eq]
  omega

/-! ### Uniform results (R138) -/

/-- A uniform result, its value and label given as a claim writes them. -/
theorem uniRes_writes (f : Wave → Word) (lab : Wave → Label) {i : Instr} {p : Bool} {d : Reg} {x : Word} {l : Label} {s : State}
    {c : Cur} (hex : exec i s = uniRes i p d f lab s) (hi : Issues s c 1) (hp : i.privileged = false) (hw : wf i = true)
    (hx : f (c.noted s).w = x) (hl : lab (c.noted s).w ||| c.w.ctxlbl = l) : WritesS i p 1 d x l s c :=
  writesS_of (n := 1) (vs := []) hex hi (InV_nil c) hp hw (by rw [← hx, ← hl]; rfl)

theorem uni2_writes (f : Word → Word → Word) {i : Instr} {p : Bool} {d a b : Reg} {x : Word} {s : State} {c : Cur}
    (hex : exec i s = uni2 i p d a b f s) (hi : Issues s c 1) (hp : i.privileged = false) (hw : wf i = true)
    (hx : f (sval c.w a) (sval c.w b) = x) : WritesS i p 1 d x (slab c.w a ||| slab c.w b ||| c.w.ctxlbl) s c :=
  uniRes_writes (fun w => f (sval w a) (sval w b)) (fun w => slab w a ||| slab w b) hex hi hp hw hx rfl

theorem uni1_writes (f : Word → Word) {i : Instr} {p : Bool} {d a : Reg} {x : Word} {s : State} {c : Cur}
    (hex : exec i s = uni1 i p d a f s) (hi : Issues s c 1) (hp : i.privileged = false) (hw : wf i = true)
    (hx : f (sval c.w a) = x) : WritesS i p 1 d x (slab c.w a ||| c.w.ctxlbl) s c :=
  uniRes_writes (fun w => f (sval w a)) (fun w => slab w a) hex hi hp hw hx rfl

theorem uniImm_writes (f : Word → Word) {i : Instr} {p : Bool} {n : Nat} {d a : Reg} {x : Word} {s : State} {c : Cur}
    (hex : exec i s = uniImm i n p d a f s) (hi : Issues s c n) (hp : i.privileged = false) (hw : wf i = true)
    (hx : f (sval c.w a) = x) : WritesS i p n d x (slab c.w a ||| c.w.ctxlbl) s c :=
  writesS_of (vs := []) hex hi (InV_nil c) hp hw (by rw [← hx]; rfl)

/-! ### Uniform arithmetic and compare (R139, R140) -/

/-- SSET's conditions as propositions (R140). -/
theorem bool32_eq_ite {b : Bool} {q : Prop} [Decidable q] (h : b = true ↔ q) : bool32 b = if q then 1 else 0 := by
  by_cases hq : q
  · rw [if_pos hq, h.2 hq]; rfl
  · rw [if_neg hq, Bool.eq_false_iff.2 fun hb => hq (h.1 hb)]; rfl

theorem sset_writes {p : Bool} (k : CondS) {d a b : Reg} {s : State} {c : Cur} {q : Prop} [Decidable q] (hi : Issues s c 1)
    (h : condS k (sval c.w a) (sval c.w b) = true ↔ q) :
    WritesS (.sset p k d a b) p 1 d (if q then 1 else 0) (slab c.w a ||| slab c.w b ||| c.w.ctxlbl) s c :=
  uni2_writes (fun x y => bool32 (condS k x y)) rfl hi rfl rfl (bool32_eq_ite h)

/-- Settles O14: each function is a uniform result, whose value is that of the model's word operation as an integer. -/
theorem uniformArithmetic : Obligations.UniformArithmetic := by
  unfold Obligations.UniformArithmetic
  refine ⟨⟨fun p d a b s c hi => ?salu, fun w rest hset hmaj => ⟨fun hfn => ?unassigned, fun hfn hsb => ?reserved⟩⟩,
    fun p d a b s c hi => ?sset, fun w rest hset hmaj hfn => ?conditions⟩
  case salu =>
    intro x y n lab lab1
    exact ⟨uni2_writes (· + ·) rfl hi rfl rfl (add_eq_ofNat x y),
      uni2_writes (· - ·) rfl hi rfl rfl (sub_eq_ofInt x y),
      uni2_writes (· * ·) rfl hi rfl rfl (mul_eq_ofNat x y),
      uni2_writes mulHi rfl hi rfl rfl (mulHi_eq_extract x y),
      uni2_writes mulHiN rfl hi rfl rfl (mulHiN_eq_extract x y),
      uni2_writes (· &&& ·) rfl hi rfl rfl rfl,
      uni2_writes (· ||| ·) rfl hi rfl rfl rfl,
      uni2_writes (· ^^^ ·) rfl hi rfl rfl rfl,
      uni2_writes (fun x y => shl x (shAmt y)) rfl hi rfl rfl (shl_eq_ofNat x n),
      uni2_writes (fun x y => shr x (shAmt y)) rfl hi rfl rfl (shr_eq_ofNat x n),
      uni2_writes (fun x y => sra x (shAmt y)) rfl hi rfl rfl (sra_eq_ofInt x n),
      uni2_writes minS rfl hi rfl rfl rfl,
      uni2_writes maxS rfl hi rfl rfl rfl,
      uni2_writes minU rfl hi rfl rfl rfl,
      uni2_writes maxU rfl hi rfl rfl rfl,
      ⟨clz x, uni1_writes clz rfl hi rfl rfl rfl, clz_spec x⟩,
      uni1_writes popc rfl hi rfl rfl (popc_eq_ofNat x),
      uni2_writes (fun x y => rotl x (shAmt y)) rfl hi rfl rfl rfl⟩
  case unassigned => exact noInstr_illegal hset (by omega) (decodeU_salu_unassigned hmaj hfn)
  case reserved => exact noInstr_reserved hset (by omega) (decodeU_salu_reserved hmaj hfn hsb)
  case sset =>
    intro x y lab
    exact ⟨sset_writes .eq hi beq_iff_eq, sset_writes .ne hi bne_iff_ne, sset_writes .lt hi decide_eq_true_iff,
      sset_writes .le hi decide_eq_true_iff, sset_writes .ltn hi decide_eq_true_iff, sset_writes .len hi decide_eq_true_iff⟩
  case conditions => exact noInstr_illegal hset (by omega) (decodeU_sset_unassigned hmaj hfn)

/-! ### Immediate forms, constants, select (R141 to R143) -/

/-- A shift amount of a LIT group below 32 is taken as it is (R60). -/
theorem shAmt_eq_toNat {n : Word} (h : n.toNat < 32) : shAmt n = n.toNat := Nat.mod_eq_of_lt h

theorem litOk_shift {op : LitOp} {a : Reg} {n : Word} (hop : op ≠ .vli) (h : n.toNat < 32) : litOk op a n = true := by
  simp [litOk, hop, h]

/-- Settles O15: each form is a uniform result of its immediate, behind LIT of three words. -/
theorem uniformImmediates : Obligations.UniformImmediates := by
  unfold Obligations.UniformImmediates
  refine ⟨⟨fun p d a imm n s c hi => ?imm12, fun p d a i s c hi => ?imm32, fun w rest hset hlo hhi hz => ?shiftBits⟩,
    fun p d a b e imm s c hi => ?constants, fun w rest hset hmaj hz => ?halfBits⟩
  case imm12 =>
    intro x i u lab
    exact ⟨uniImm_writes (· + i) rfl hi rfl rfl (add_eq_ofNat x i),
      uniImm_writes (· &&& u) rfl hi rfl rfl rfl,
      uniImm_writes (· ||| u) rfl hi rfl rfl rfl,
      uniImm_writes (· ^^^ u) rfl hi rfl rfl rfl,
      uniImm_writes (shl · n) rfl hi rfl rfl (shl_eq_ofNat x n),
      uniImm_writes (shr · n) rfl hi rfl rfl (shr_eq_ofNat x n),
      uniImm_writes (sra · n) rfl hi rfl rfl (sra_eq_ofInt x n)⟩
  case imm32 =>
    intro x lab
    refine ⟨uniImm_writes (· + i) rfl hi rfl rfl (add_eq_ofNat x i),
      uniImm_writes (· &&& i) rfl hi rfl rfl rfl,
      uniImm_writes (· ||| i) rfl hi rfl rfl rfl,
      uniImm_writes (· ^^^ i) rfl hi rfl rfl rfl, fun h => ?shifts⟩
    case shifts =>
      rw [← shAmt_eq_toNat h]
      exact ⟨uniImm_writes (shl · (shAmt i)) rfl hi rfl (litOk_shift (by decide) h) (shl_eq_ofNat x (shAmt i)),
        uniImm_writes (shr · (shAmt i)) rfl hi rfl (litOk_shift (by decide) h) (shr_eq_ofNat x (shAmt i)),
        uniImm_writes (sra · (shAmt i)) rfl hi rfl (litOk_shift (by decide) h) (sra_eq_ofInt x (shAmt i))⟩
  case shiftBits => exact noInstr_reserved hset (by omega) (decodeU_shift_reserved hlo hhi hz)
  case constants =>
    have hssel : WritesS (.ssel p d a b e) p 1 d (if sval c.w e ≠ 0 then sval c.w a else sval c.w b)
        (slab c.w e ||| slab c.w a ||| slab c.w b ||| c.w.ctxlbl) s c :=
      uniRes_writes (fun w => if sval w e ≠ 0 then sval w a else sval w b) (fun w => slab w e ||| slab w a ||| slab w b)
        rfl hi rfl rfl rfl rfl
    refine ⟨?slil, ?slih, hssel, fun he => ?zero⟩
    case slil => exact uniRes_writes (fun _ => imm.setWidth 32) (fun _ => 0) rfl hi rfl rfl rfl BitVec.zero_or
    case slih =>
      exact uniRes_writes (fun w => nat32 (imm.toNat * 2 ^ 16 + (sval w d).toNat % 2 ^ 16)) (fun w => slab w d)
        rfl hi rfl rfl (upperHalf_eq_append imm (sval c.w d)) rfl
    case zero =>
      have h0 : sval c.w e = 0 := by rw [he]; rfl
      rwa [if_neg (fun hne => hne h0)] at hssel
  case halfBits => exact noInstr_reserved hset (by omega) (decodeU_half_reserved hmaj hz)

end Sys2Proof.Machine
end

section
/-! PROOFS. Masks, lane reads and reductions (R146, R162, R163). -/

namespace Sys2Proof.Machine

/-! ### A uniform write, register by register -/

/-- A write of a uniform register as a change of the register file and the outstanding writes. -/
theorem writeS_eq (n : Nat) (x : Word) (l : Label) (w : Wave) :
    w.writeS n x l = { w.cancel (.s n) with s := if n = 0 then w.s else setReg 64 n ⟨x, l⟩ .zero w.s } := by
  by_cases h : n = 0
  · simp only [Wave.writeS, Wave.putS, if_pos h, Wave.cancel_s]
    rfl
  · simp only [Wave.writeS, Wave.putS, if_neg h, Wave.cancel_s]

theorem sreg_writeS_same (d : Reg) (x : Word) (l : Label) (w : Wave) :
    (w.writeS d x l).sreg d = if d = 0 then UReg.zero else ⟨x, l⟩ := by
  have h : (w.writeS d x l).sreg d = if d.val = d.val ∧ d.val ≠ 0 then ⟨x, l⟩ else w.sreg d := Wave.sreg_putS _ _ _ _ _ d.isLt
  by_cases h0 : d = 0
  · subst h0
    rfl
  · have hd : d.val ≠ 0 := fun h => h0 (Fin.ext h)
    rw [h, if_pos ⟨rfl, hd⟩, if_neg h0]

theorem sreg_writeS_other {d k : Reg} (hk : k ≠ d) (x : Word) (l : Label) (w : Wave) : (w.writeS d x l).sreg k = w.sreg k :=
  (Wave.sreg_putS _ _ _ _ _ k.isLt).trans (if_neg fun h => hk (Fin.ext h.1))

theorem writeS_status (n : Nat) (x : Word) (l : Label) (w : Wave) : (w.writeS n x l).status = w.status := by
  rw [writeS_eq]
  rfl

theorem writeS_pcs (n : Nat) (x : Word) (l : Label) (w : Wave) : (w.writeS n x l).pcs = w.pcs := by
  rw [writeS_eq]
  rfl

theorem writeS_fflags (n : Nat) (x : Word) (l : Label) (w : Wave) : (w.writeS n x l).fflags = w.fflags := by
  rw [writeS_eq]
  rfl

/-- An instruction that is complete changes the lanes, the phase, the time of issue and the status of a running wave. -/
theorem retireWave_eq_with {g : Sig} {act : BitVec 64} {now : Nat} {w : Wave} (h : w.status = .running) : ∃ pcs, retireWave g act now w =
    { w with pcs, phase := 0, ready := if g.frame then now else now + 1, status := if g.p then .parked .next else .running } := by
  rw [retireWave_running h]
  cases g.xfer
  · exact ⟨(w.setPcs act fun l => w.pcAt l + g.words).pcs, rfl⟩
  · exact ⟨w.pcs, rfl⟩

/-- What a uniform write does to its wave and leaves of it, whatever becomes of FFLAGS and the lanes beside it. -/
theorem retire_writeS {s : State} {c : Cur} (hrun : c.w.status = .running) (g : Sig) (act : BitVec 64) (now : Nat) (d : Reg) (x : Word)
    (l : Label) (fflags : UReg) (pcs : List Nat) :
    let w := retireWave g act now { (c.noted s).w.writeS d x l with fflags, pcs }
    w.sreg d = (if d = 0 then UReg.zero else ⟨x, l⟩) ∧ (∀ k : Reg, k ≠ d → w.sreg k = c.w.sreg k) ∧ w.fflags = fflags ∧
      SameV c.w w ∧ SameM c.w w ∧ SameX c.w w ∧ SameTrap c.w w ∧ SameRng c.w w ∧ SameMisc c.w w ∧ SameCtx c.w w ∧ SameEntries c.w w := by
  intro w
  have hstatus : ({ (c.noted s).w.writeS d x l with fflags, pcs } : Wave).status = .running := (writeS_status ..).trans hrun
  obtain ⟨pcs', hw⟩ := retireWave_eq_with (g := g) (act := act) (now := now) hstatus
  rw [show w = _ from hw]
  refine ⟨sreg_writeS_same d x l (c.noted s).w, fun k hk => sreg_writeS_other hk x l (c.noted s).w, rfl, ?_⟩
  rw [writeS_eq]
  exact ⟨fun _ => rfl, fun _ => rfl, rfl, ⟨rfl, rfl, rfl, rfl, rfl⟩, ⟨rfl, rfl, rfl⟩,
    ⟨rfl, rfl, rfl, rfl, rfl, rfl, rfl, cancel_held (.s d) c.w, rfl⟩, rfl, cancel_entries (.s d) c.w⟩

/-! ### Masks (R146) -/

/-- A uniform result of a mask, its value given as a claim writes it. -/
theorem maskToS_writes (f : BitVec 64 → BitVec 64 → Nat) {i : Instr} {p : Bool} {d : Reg} {k : MReg} {x : Word} {s : State} {c : Cur}
    (hex : exec i s = maskToS i p d k f s) (hi : Issues s c 1) (hp : i.privileged = false) (hw : wf i = true)
    (hx : nat32 (f (c.w.mreg k).val c.act) = x) : WritesS i p 1 d x ((c.w.mreg k).lab ||| c.w.ctxlbl) s c :=
  writesS_of (n := 1) (vs := []) hex hi (InV_nil c) hp hw (by rw [← hx]; rfl)

/-- A whole mask, its bits given as a claim writes them. -/
theorem maskRes_writes (f : Wave → BitVec 64) (lab : Wave → Label) {i : Instr} {p : Bool} {m : MReg} {g : Nat → Bool} {l : Label}
    {s : State} {c : Cur} (hex : exec i s = maskRes i p m f lab s) (hi : Issues s c 1) (hp : i.privileged = false) (hw : wf i = true)
    (hg : ∀ k, k < 64 → (f (c.noted s).w).getLsbD k = g k) (hl : lab (c.noted s).w ||| c.w.ctxlbl = l) :
    WritesM i p m (BitVec.allOnes 64) g l s c := by
  refine writesM_of (vs := []) hex hi (InV_nil c) hp hw rfl (fun k hk => ?_) ?_
  · rw [if_pos (by rw [BitVec.getLsbD_allOnes, decide_eq_true hk])]
    exact hg k hk
  · rw [if_pos rfl]
    exact hl

theorem lowerHalf_eq_extract (x : BitVec 64) : nat32 x.toNat = x.extractLsb' 0 32 := by
  rw [nat32, BitVec.extractLsb', Nat.shiftRight_zero]

theorem upperHalf_eq_extract (x : BitVec 64) : nat32 (x.toNat / 2 ^ 32) = x.extractLsb' 32 32 := by
  rw [nat32, BitVec.extractLsb', Nat.shiftRight_eq_div_pow]

/-- The bits of two words, one above the other. -/
theorem halves_bit (x y : Word) {k : Nat} (hk : k < 64) :
    (BitVec.ofNat 64 (x.toNat + 2 ^ 32 * y.toNat)).getLsbD k = if k < 32 then x.getLsbD k else y.getLsbD (k - 32) := by
  rw [BitVec.getLsbD_ofNat, Nat.add_comm, Nat.testBit_two_pow_mul_add _ x.isLt, decide_eq_true hk, Bool.true_and]
  rfl

/-- The first lane of a mask is the lowest that it holds. -/
theorem lanesOf_headD {x : BitVec 64} {l : Nat} (hl : l < 64) (hx : x.getLsbD l = true) (hbelow : ∀ n, n < l → x.getLsbD n = false) :
    (lanesOf x).headD 64 = l := by
  have hfind : (List.range 64).find? x.getLsbD = some l :=
    List.find?_range_eq_some.2 ⟨hx, List.mem_range.2 hl, fun n hn => by rw [hbelow n hn]; rfl⟩
  rw [List.headD_eq_head?_getD, lanesOf, List.head?_filter, hfind]
  rfl

theorem lanesOf_zero : lanesOf 0 = [] := List.filter_eq_nil_iff.2 fun _ _ => by simp

/-! ### Lane reads (R162) -/

theorem exec_vlane (p : Bool) (d a b : Reg) (s : State) : exec (.vlane p d a b) s = issueW (.vlane p d a b) { p, vs := [a] }
    (fun c => c.w.writeS d (c.w.lane a ((sval c.w b).toNat % 64)) (vlab c.w a ||| slab c.w b ||| c.w.ctxlbl)) s := rfl

/-! ### Reductions (R163) -/

/-- The reduction of the first values of a list, up to number j. -/
def reduceUpTo (op : RedOp) (xs : List Word) (j : Nat) : Word × Flags := reduce op (xs.take (j + 1))

theorem reduceUpTo_zero {op : RedOp} {xs : List Word} {x : Word} (h : xs[0]? = some x) : reduceUpTo op xs 0 = (x, 0) := by
  cases xs with
  | nil => cases h
  | cons y ys =>
    cases h
    rfl

/-- One more value is one more step, with its flags. -/
theorem reduce_append {op : RedOp} {xs : List Word} (h : xs ≠ []) (y : Word) : reduce op (xs ++ [y]) =
    ((redStep op (reduce op xs).1 y).1, (reduce op xs).2 ||| (redStep op (reduce op xs).1 y).2) := by
  cases xs with
  | nil => exact absurd rfl h
  | cons x xs => simp only [List.cons_append, reduce, List.foldl_append, List.foldl_cons, List.foldl_nil]

theorem reduceUpTo_succ {op : RedOp} {xs : List Word} {j : Nat} {y : Word} (h : xs[j + 1]? = some y) :
    reduceUpTo op xs (j + 1) = ((redStep op (reduceUpTo op xs j).1 y).1,
      (reduceUpTo op xs j).2 ||| (redStep op (reduceUpTo op xs j).1 y).2) := by
  have hne : xs.take (j + 1) ≠ [] := by
    have hlen : j + 1 < xs.length := (List.getElem?_eq_some_iff.1 h).1
    exact List.ne_nil_of_length_pos (by rw [List.length_take]; omega)
  rw [reduceUpTo, List.take_add_one, h]
  exact reduce_append hne y

theorem reduceUpTo_last {op : RedOp} {xs : List Word} {j : Nat} (h : xs.length = j + 1) : reduceUpTo op xs j = reduce op xs := by
  rw [reduceUpTo, List.take_of_length_le (by omega)]

/-- FFLAGS after a reduction: the flags of its steps, of .FADD only. -/
def redFlags (op : RedOp) (r : Word × Flags) (lab : Label) (old : UReg) : UReg :=
  if op = .fadd then ⟨old.val ||| r.2.setWidth 32, old.lab ||| lab⟩ else old

/-- The wave that VRED leaves: a uniform write beside one of FFLAGS. -/
def redWave (op : RedOp) (d a : Reg) (c : Cur) : Wave :=
  let r := reduce op ((lanesOf c.act).map (c.w.lane a))
  let lab := vlab c.w a ||| c.w.ctxlbl
  { c.w.writeS d r.1 lab with fflags := redFlags op r lab c.w.fflags }

theorem raise_writeS_eq (op : RedOp) (d : Reg) (r : Word × Flags) (lab : Label) (w : Wave) :
    (if redFloat op then (w.writeS d r.1 lab).raise r.2 lab else w.writeS d r.1 lab) =
      { w.writeS d r.1 lab with fflags := redFlags op r lab w.fflags } := by
  by_cases h : op = .fadd
  · simp only [redFloat, redFlags, h, decide_true, if_true, Wave.raise, writeS_fflags]
  · simp only [redFloat, redFlags, h, decide_false, if_false, Bool.false_eq_true, ← writeS_fflags d r.1 lab w]

theorem exec_vred (p : Bool) (op : RedOp) (d a : Reg) (s : State) :
    exec (.vred p op d a) s = issueW (.vred p op d a) { p, vs := [a] } (redWave op d a) s :=
  congrArg (fun f => issueW (.vred p op d a) { p, vs := [a] } f s) (funext fun c =>
    raise_writeS_eq op d (reduce op ((lanesOf c.act).map (c.w.lane a))) (vlab c.w a ||| c.w.ctxlbl) c.w)

theorem vred_next {p : Bool} {op : RedOp} {d a : Reg} {s : State} {c : Cur} (hi : Issues s c 1) (ha : a.val < c.g.vdecl) :
    exec (.vred p op d a) s = .next (s.updWave c.ref fun _ =>
      retireWave { p, vs := [a] } c.act s.clk.cycle (redWave op d a (c.noted s))) :=
  ordinary_next (n := 1) (exec_vred p op d a s) hi (fun k hk => by rwa [List.mem_singleton.1 hk]) rfl rfl

/-- A step of a reduction as the claims write it. -/
theorem redStep_spec (x y : Word) : redStep .add x y = (BitVec.ofNat 32 (x.toNat + y.toNat), 0) ∧
    redStep .min x y = (if x.toInt ≤ y.toInt then x else y, 0) ∧ redStep .max x y = (if x.toInt ≥ y.toInt then x else y, 0) ∧
    redStep .minn x y = (if x.toNat ≤ y.toNat then x else y, 0) ∧ redStep .maxn x y = (if x.toNat ≥ y.toNat then x else y, 0) ∧
    redStep .and x y = (x &&& y, 0) ∧ redStep .or x y = (x ||| y, 0) ∧
    redStep .fadd x y = (BitVec.ofNat 32 (roundF f32 (addV (decodeF f32 x.toNat) (decodeF f32 y.toNat)).1).1,
      (addV (decodeF f32 x.toNat) (decodeF f32 y.toNat)).2 ||| (roundF f32 (addV (decodeF f32 x.toNat) (decodeF f32 y.toNat)).1).2) :=
  ⟨by rw [← add_eq_ofNat]; rfl, rfl, rfl, rfl, rfl, rfl, rfl, rfl⟩

/-- Settles O17: the mask operations by the shape of their result, VRED by the reduction of the first active lanes, one more at a time. -/
theorem masksLaneReads : Obligations.MasksLaneReads := by
  unfold Obligations.MasksLaneReads
  refine ⟨⟨fun p d a b m k j s c hi => ?masks, fun w rest hset hmaj hfn => ?maskCodes⟩, fun p d a b s c hi ha => ?vlane,
    fun p d a b s c hi ha htrap => ?bound, fun p op d a s c hi ha => ?vred, redStep_spec,
    fun w rest hset => ⟨fun hmaj hfn => ?vlaneCodes, fun hmaj hfn => ?vredCodes⟩⟩
  case masks =>
    intro x y lab labm ones
    refine ⟨maskToS_writes (fun m _ => m.toNat) rfl hi rfl rfl (lowerHalf_eq_extract x),
      maskToS_writes (fun m _ => m.toNat / 2 ^ 32) rfl hi rfl rfl (upperHalf_eq_extract x),
      maskRes_writes (fun w => BitVec.ofNat 64 ((sval w a).toNat + 2 ^ 32 * (sval w b).toNat)) (fun w => slab w a ||| slab w b)
        rfl hi rfl rfl (fun l hl => halves_bit _ _ hl) rfl,
      maskToS_writes (fun m _ => (lanesOf m).length) rfl hi rfl rfl rfl, fun hx => ?empty, fun l hl hx hbelow => ?first,
      maskRes_writes (fun w => (w.mreg k).val &&& (w.mreg j).val) (fun w => mlab w k ||| mlab w j)
        rfl hi rfl rfl (fun l _ => BitVec.getLsbD_and) rfl,
      maskRes_writes (fun w => (w.mreg k).val ||| (w.mreg j).val) (fun w => mlab w k ||| mlab w j)
        rfl hi rfl rfl (fun l _ => BitVec.getLsbD_or) rfl,
      maskRes_writes (fun w => (w.mreg k).val ^^^ (w.mreg j).val) (fun w => mlab w k ||| mlab w j)
        rfl hi rfl rfl (fun l _ => BitVec.getLsbD_xor) rfl,
      maskRes_writes (fun w => ~~~(w.mreg k).val) (fun w => mlab w k)
        rfl hi rfl rfl (fun l hl => by rw [BitVec.getLsbD_not, decide_eq_true hl, Bool.true_and]; rfl) rfl,
      maskToS_writes (fun m act => if m &&& act ≠ 0 then 1 else 0) rfl hi rfl rfl (apply_ite nat32 _ 1 0),
      maskToS_writes (fun m act => if act &&& ~~~m = 0 then 1 else 0) rfl hi rfl rfl (apply_ite nat32 _ 1 0)⟩
    case empty =>
      exact maskToS_writes (fun m _ => (lanesOf m).headD 64) rfl hi rfl rfl
        (congrArg (fun m : BitVec 64 => nat32 ((lanesOf m).headD 64)) hx |>.trans (by rw [lanesOf_zero]; rfl))
    case first =>
      exact maskToS_writes (fun m _ => (lanesOf m).headD 64) rfl hi rfl rfl (congrArg nat32 (lanesOf_headD hl hx hbelow))
  case maskCodes => exact noInstr_illegal hset (by omega) (decodeU_mask_unassigned hmaj hfn)
  case vlane =>
    exact writesS_of (n := 1) (exec_vlane p d a b s) hi (fun k hk => by rwa [List.mem_singleton.1 hk]) rfl rfl rfl
  case bound =>
    have hout : ¬InV c [a.val] := fun h => absurd (h a.val (List.mem_singleton.2 rfl)) (Nat.not_lt.2 ha)
    exact check_traps hi.1 (exec_vlane p d a b s) htrap (fun h => nomatch h) (fun h => nomatch h)
      (check_bound (.inr hi.2) (fun h => nomatch h) rfl (.inl hout))
  case vred =>
    intro act lab
    have hrun : c.w.status = .running := hi.1.2.2
    have hadv : Advances p 1 c s (retireWave { p, vs := [a.val] } c.act s.clk.cycle (redWave op d a (c.noted s))) :=
      retire_advances (writeS_pcs ..) ((writeS_status ..).trans hrun)
    obtain ⟨hsame, hother, hflags, hv, hm, hx, htrap, hrng, hmisc, hctx, hent⟩ :=
      retire_writeS (s := s) hrun { p, vs := [a.val] } c.act s.clk.cycle d (reduce op (act.map (c.w.lane a))).1 lab
        (redFlags op (reduce op (act.map (c.w.lane a))) lab c.w.fflags) ((c.noted s).w.writeS d _ lab).pcs
    refine ⟨reduceUpTo op (act.map (c.w.lane a)), _, _, vred_next hi ha, rfl, fun l hl => ?start, fun j l hl => ?step,
      fun j hj => ?result, hother, hv, hm, hx, htrap, hrng, hmisc, hctx, hent, hadv⟩
    case start => exact reduceUpTo_zero (by rw [List.getElem?_map, hl]; rfl)
    case step => exact Prod.mk.inj (reduceUpTo_succ (by rw [List.getElem?_map, hl]; rfl))
    case result =>
      rw [reduceUpTo_last (by rwa [List.length_map])]
      exact ⟨hsame, hflags⟩
  case vlaneCodes => exact noInstr_illegal hset (by omega) (decodeU_vlane_unassigned hmaj hfn)
  case vredCodes => exact noInstr_illegal hset (by omega) (decodeU_vred_unassigned hmaj hfn)

end Sys2Proof.Machine
end

section
/-! PROOFS. Relative branches and the return (R150 to R152). -/

namespace Sys2Proof.Machine

/-! ### Targets (R150) -/

theorem target_inside {pc : Nat} {off : BitVec 18}
    (h : 0 ≤ ((pc % 2048 : Nat) : Int) + off.toInt ∧ ((pc % 2048 : Nat) : Int) + off.toInt ≤ 2047) :
    target pc off = some (pc / 2048 * 2048 + (((pc % 2048 : Nat) : Int) + off.toInt).toNat) :=
  if_neg (by omega)

theorem target_outside {pc : Nat} {off : BitVec 18}
    (h : ¬(0 ≤ ((pc % 2048 : Nat) : Int) + off.toInt ∧ ((pc % 2048 : Nat) : Int) + off.toInt ≤ 2047)) : target pc off = none :=
  if_pos (by omega)

/-! ### What a branch leads to (R149, R151) -/

/-- A transfer without registers to check has its effect wherever it stands, as far as the checks of R64 go. -/
theorem transfer_next {i : Instr} {p : Bool} {body : Cur → State → Res} {s : State} {c : Cur} (hI : IssuesX s c)
    (hex : exec i s = issue i { p, xfer := true } body s) (hp : i.privileged = false) (hw : wf i = true) :
    exec i s = .next (finishInstr i { p, xfer := true } (c.noted s) (body (c.noted s) (atIssue s c))) :=
  effect_next hI hex (fun h => nomatch h) (fun h => nomatch h)
    (check_none (.inl rfl) (by simp [hp]) hw (InV_nil c) (InH_nil c) (InA_nil c))

/-- A branch whose target lies in its slot, where it may stand. -/
theorem branch_next {i : Instr} {p mayEnd : Bool} {off : BitVec 18} {f : Cur → Wave × (Nat → Bool)} {s : State} {c : Cur} {t : Nat}
    (hI : IssuesX s c) (hex : exec i s = branch i p mayEnd off f s) (hp : i.privileged = false) (hw : wf i = true)
    (ht : target c.pc off = some t) (hend : mayEnd = true ∨ c.pc % 2048 ≠ 2047) :
    exec i s = .next (s.updWave c.ref fun _ => retireWave { p, xfer := true } c.act s.clk.cycle
      ((f (c.noted s)).1.setPcs c.act fun l => if (f (c.noted s)).2 l then t else c.pc + 1)) := by
  have hnoted : target (c.noted s).pc off = some t := ht
  have hstay : ¬(!mayEnd && decide ((c.noted s).pc % 2048 = 2047)) = true := by
    rcases hend with h | h
    · simp [h]
    · simp [h]
  rw [transfer_next hI hex hp hw]
  simp only [hnoted, if_neg hstay, noted_ref, atIssue_updWave, done_wave]
  rfl

/-- A branch whose target leaves its slot, or that may not stand at word 2,047, traps. -/
theorem branch_traps {i : Instr} {p mayEnd : Bool} {off : BitVec 18} {f : Cur → Wave × (Nat → Bool)} {s : State} {c : Cur}
    (hI : IssuesX s c) (hex : exec i s = branch i p mayEnd off f s) (hp : i.privileged = false) (hw : wf i = true)
    (hbad : target c.pc off = none ∨ mayEnd = false ∧ c.pc % 2048 = 2047) (htrap : c.w.intrap = false) :
    TrapsAt i c.pc illegalOp 0 s c := by
  refine traps_of hI.1 htrap s.clk.cycle ?_
  rw [transfer_next hI hex hp hw]
  cases ht : target (c.noted s).pc off with
  | none => rfl
  | some t =>
    obtain ⟨rfl, hend⟩ := hbad.resolve_left (fun h => nomatch h.symm.trans ht)
    have hlast : (!false && decide ((c.noted s).pc % 2048 = 2047)) = true := by simp [hend]
    simp only [if_pos hlast]
    rfl

/-- A branch that takes in a label and moves its lanes. -/
theorem branch_jumps {i : Instr} {p mayEnd : Bool} {off : BitVec 18} {f : Cur → Wave × (Nat → Bool)} {s : State} {c : Cur} {t : Nat}
    {lab : Label} {g : Nat → Nat} (hI : IssuesX s c) (hex : exec i s = branch i p mayEnd off f s) (hp : i.privileged = false)
    (hw : wf i = true) (ht : target c.pc off = some t) (hend : mayEnd = true ∨ c.pc % 2048 ≠ 2047)
    (hf : (f (c.noted s)).1 = (c.noted s).w.absorb lab) (hg : ∀ l, (if (f (c.noted s)).2 l then t else c.pc + 1) = g l) :
    Jumps i p g lab s c := by
  refine jumps_of (vs := []) (hs := []) (as := []) (n := 1) (m := s.clk.cycle) (.inl hI.2.2) ?_
  rw [branch_next hI hex hp hw ht hend, hf, funext hg]
  rfl

/-- Where the lanes of a transfer that is complete stand, and when its wave goes on. -/
theorem retire_transfer {p : Bool} {m : BitVec 64} {f : Nat → Nat} {now : Nat} {w : Wave} (h : w.status = .running) :
    let w' := retireWave { p, xfer := true } m now (w.setPcs m f)
    (∀ l, l < 64 → w'.pcAt l = if m.getLsbD l then f l else w.pcAt l) ∧ w'.status = (if p then .parked .next else .running) ∧
      w'.phase = 0 ∧ w'.ready = now + 1 := by
  intro w'
  rw [show w' = _ from retireWave_running (show (w.setPcs m f).status = .running from h)]
  exact ⟨fun l hl => Wave.pcAt_setPcs m f w l hl, rfl, rfl, rfl⟩

/-! ### Each branch (R151) -/

theorem exec_br (p : Bool) (a : Reg) (off : BitVec 18) (s : State) : exec (.br p a off) s =
    branch (.br p a off) p false off (fun c => (c.w.absorb (slab c.w a), fun _ => sval c.w a != 0)) s := rfl

theorem exec_brz (p : Bool) (a : Reg) (off : BitVec 18) (s : State) : exec (.brz p a off) s =
    branch (.brz p a off) p false off (fun c => (c.w.absorb (slab c.w a), fun _ => sval c.w a == 0)) s := rfl

theorem exec_jmp (p : Bool) (off : BitVec 18) (s : State) : exec (.jmp p off) s =
    branch (.jmp p off) p true off (fun c => (c.w, fun _ => true)) s := rfl

theorem exec_call (p : Bool) (a : Reg) (off : BitVec 18) (s : State) : exec (.call p a off) s =
    branch (.call p a off) p false off (fun c => (c.w.writeS a (nat32 (c.pc + 1)) c.w.ctxlbl, fun _ => true)) s := rfl

theorem exec_vbr (p : Bool) (k : MReg) (off : BitVec 18) (s : State) : exec (.vbr p k off) s =
    branch (.vbr p k off) p false off (fun c => (c.w.absorb (mlab c.w k), (c.w.mreg k).val.getLsbD)) s := rfl

/-- CALL is a uniform write of the address behind it, and a jump. -/
theorem call_next {p : Bool} {a : Reg} {off : BitVec 18} {s : State} {c : Cur} {t : Nat} (hI : IssuesX s c)
    (ht : target c.pc off = some t) (hend : c.pc % 2048 ≠ 2047) :
    exec (.call p a off) s = .next (s.updWave c.ref fun _ => retireWave { p, xfer := true } c.act s.clk.cycle
      (((c.noted s).w.writeS a (nat32 (c.pc + 1)) c.w.ctxlbl).setPcs c.act fun _ => t)) :=
  branch_next hI (exec_call p a off s) rfl rfl ht (.inr hend)

/-! ### RET (R152) -/

/-- RET's checks and effect, CTXLBL having taken in the label of s[sa]. -/
theorem ret_next {p : Bool} {a : Reg} {s : State} {c : Cur} (hI : IssuesX s c) :
    let x := (sval c.w a).toNat
    let w := (c.noted s).w.absorb (slab c.w a)
    exec (.ret p a) s = .next (finishInstr (.ret p a) { p, xfer := true } (c.noted s)
      (if x ≥ 2 ^ 15 ∨ x / 2048 ≠ c.pc / 2048 then .trap (s.updWave c.ref fun _ => w) illegalOp 0 0
        else .done (s.updWave c.ref fun _ => w.setPcs c.act fun _ => x))) := by
  intro x w
  rw [transfer_next hI (show exec (.ret p a) s = execRet p a s from rfl) rfl rfl]
  simp only [noted_ref, atIssue_updWave, State.updWave_updWave]
  rfl

theorem ret_jumps {p : Bool} {a : Reg} {s : State} {c : Cur} (hI : IssuesX s c) (hx : (sval c.w a).toNat < 2 ^ 15)
    (hslot : (sval c.w a).toNat / 2048 = c.pc / 2048) :
    Jumps (.ret p a) p (fun _ => (sval c.w a).toNat) (slab c.w a) s c := by
  have hstay : ¬((sval c.w a).toNat ≥ 2 ^ 15 ∨ (sval c.w a).toNat / 2048 ≠ c.pc / 2048) := by omega
  refine jumps_of (vs := []) (hs := []) (as := []) (n := 1) (m := s.clk.cycle) (.inl hI.2.2) ?_
  rw [ret_next hI, if_neg hstay, done_wave]
  rfl

theorem ret_traps {p : Bool} {a : Reg} {s : State} {c : Cur} (hI : IssuesX s c)
    (hbad : 2 ^ 15 ≤ (sval c.w a).toNat ∨ (sval c.w a).toNat / 2048 ≠ c.pc / 2048) (htrap : c.w.intrap = false) :
    TrapsWith (.ret p a) c.pc illegalOp 0 0 (slab c.w a) s c := by
  refine trapsWith_of hI.1 htrap s.clk.cycle ?_
  rw [ret_next hI, if_pos hbad]
  rfl

/-- Settles O18: a branch has its effect where its target lies inside and it may stand, and traps otherwise; CALL is a uniform write
beside a jump. -/
theorem branches : Obligations.Branches := by
  unfold Obligations.Branches
  refine ⟨fun p a k off s c hI => ?relative, fun p a s c hI => ⟨ret_jumps hI, ret_traps hI⟩⟩
  intro W T t inside
  refine ⟨fun hin => ?jmp, fun hin hpc => ⟨?br, ?brz, ?vbr, ?call⟩, fun hout htrap => ?jmpTraps, fun hbad htrap => ?traps⟩
  case jmp =>
    exact branch_jumps hI (exec_jmp p off s) rfl rfl (target_inside hin) (.inl rfl) (absorb_zero _).symm fun _ => if_pos rfl
  case br =>
    exact branch_jumps hI (exec_br p a off s) rfl rfl (target_inside hin) (.inr hpc) rfl fun _ => ite_congr (propext bne_iff_ne) (fun _ => rfl) fun _ => rfl
  case brz =>
    exact branch_jumps hI (exec_brz p a off s) rfl rfl (target_inside hin) (.inr hpc) rfl fun _ => ite_congr (propext beq_iff_eq) (fun _ => rfl) fun _ => rfl
  case vbr => exact branch_jumps hI (exec_vbr p k off s) rfl rfl (target_inside hin) (.inr hpc) rfl fun _ => rfl
  case call =>
    have hrun : c.w.status = .running := hI.2.2
    let w := (c.noted s).w.writeS a (nat32 (c.pc + 1)) c.w.ctxlbl
    have hlanes : ∀ l, w.pcAt l = c.w.pcAt l := fun l => congrArg (fun pcs : List Nat => pcs.getD l 0) (writeS_pcs ..)
    obtain ⟨hsame, hother, hflags, hv, hm, hx, htrap, hrng, hmisc, hctx, hent⟩ :=
      retire_writeS (s := s) hrun { p, xfer := true } c.act s.clk.cycle a (nat32 (c.pc + 1)) c.w.ctxlbl w.fflags
        (w.setPcs c.act fun _ => t).pcs
    obtain ⟨hpcs, hstatus, hphase, hready⟩ :=
      retire_transfer (p := p) (m := c.act) (f := fun _ => t) (now := s.clk.cycle) (show w.status = .running from (writeS_status ..).trans hrun)
    exact ⟨_, _, call_next hI (target_inside hin) hpc, rfl, hsame, hother, fun l hl => (hpcs l hl).trans (by rw [hlanes]), hv, hm, hx,
      htrap, hrng, hmisc, hflags.trans (writeS_fflags ..), hctx, hent, hstatus, hphase, hready⟩
  case jmpTraps => exact branch_traps hI (exec_jmp p off s) rfl rfl (.inl (target_outside hout)) htrap
  case traps =>
    have hbad' : target c.pc off = none ∨ false = false ∧ c.pc % 2048 = 2047 := hbad.imp target_outside fun h => ⟨rfl, h⟩
    exact ⟨branch_traps hI (exec_br p a off s) rfl rfl hbad' htrap, branch_traps hI (exec_brz p a off s) rfl rfl hbad' htrap,
      branch_traps hI (exec_vbr p k off s) rfl rfl hbad' htrap, branch_traps hI (exec_call p a off s) rfl rfl hbad' htrap⟩

end Sys2Proof.Machine
end

section
/-! PROOFS. Moving values between lanes (R164 to R168): compress, expand, slide, permute and scan, and the words of their majors that are
no instruction. -/

namespace Sys2Proof.Machine

/-! ### Words of the V set that are no instruction (R61, R63) -/

/-- A word of the V set is what its format says (R61). -/
theorem decodeWords_error_of_vector {w : Nat} {rest : List Nat} {e : DecErr} (hset : fld w 31 1 = 0) (hdec : decodeV w = .error e) :
    decodeWords (w :: rest) = .error e := by
  have hl : isLit w = false := by simp [isLit, hset]
  simp only [decodeWords, hl, decodeWord, hset, hdec, Bool.false_eq_true, if_false, if_true]

theorem noInstr_illegal_of_vector {w : Nat} {rest : List Nat} (hset : fld w 31 1 = 0) (hdec : decodeV w = .error .illegalOp) :
    NoInstr .illegalOp illegalOp (w :: rest) :=
  noInstr_of (decodeWords_error_of_vector hset hdec) (.inl ⟨rfl, rfl⟩)

theorem noInstr_reserved_of_vector {w : Nat} {rest : List Nat} (hset : fld w 31 1 = 0) (hdec : decodeV w = .error .reservedEnc) :
    NoInstr .reservedEnc reservedEnc (w :: rest) :=
  noInstr_of (decodeWords_error_of_vector hset hdec) (.inr ⟨rfl, rfl⟩)

/-- A field is zero only when both parts of it are. -/
theorem fld_ne_zero_of_part {w lo n k : Nat} (h : fld w (lo + n) k ≠ 0 ∨ fld w lo n ≠ 0) : fld w lo (n + k) ≠ 0 := by
  intro h0
  have hlow : fld w lo n = w / 2 ^ lo % 2 ^ (n + k) % 2 ^ n := (Nat.mod_mod_of_dvd _ (Nat.pow_dvd_pow 2 (Nat.le_add_right n k))).symm
  have hhigh : fld w (lo + n) k = w / 2 ^ lo % 2 ^ (n + k) / 2 ^ n := by
    rw [fld, Nat.pow_add, Nat.pow_add, ← Nat.div_div_eq_div_mul, Nat.mod_mul_right_div_self]
  rw [hlow, hhigh, show w / 2 ^ lo % 2 ^ (n + k) = 0 from h0, Nat.zero_mod, Nat.zero_div] at h
  exact h.elim (· rfl) (· rfl)

theorem decodeV_compress_reserved {w : Nat} (hmaj : fld w 24 6 = 0x20 ∨ fld w 24 6 = 0x21) (hz : fld w 3 9 ≠ 0) :
    decodeV w = .error .reservedEnc := by
  rcases hmaj with hmaj | hmaj
  · simp only [decodeV, hmaj, need_nonzero _ hz]
  · simp only [decodeV, hmaj, need_nonzero _ hz]

theorem decodeV_slide_unassigned {w : Nat} (hmaj : fld w 24 6 = 0x22 ∨ fld w 24 6 = 0x23) (hfn : fld w 0 3 ≠ 0) :
    decodeV w = .error .illegalOp := by
  rcases hmaj with hmaj | hmaj
  · simp only [decodeV, hmaj, if_neg hfn]
  · simp only [decodeV, hmaj, if_neg hfn]

theorem decodeV_slide_reserved {w : Nat} (hmaj : fld w 24 6 = 0x22 ∨ fld w 24 6 = 0x23) (hfn : fld w 0 3 = 0) (hz : fld w 3 3 ≠ 0) :
    decodeV w = .error .reservedEnc := by
  rcases hmaj with hmaj | hmaj
  · simp only [decodeV, hmaj, if_pos hfn, need_nonzero _ hz]
  · simp only [decodeV, hmaj, if_pos hfn, need_nonzero _ hz]

theorem decodeV_permute_unassigned {w : Nat} (hmaj : fld w 24 6 = 0x24) (hfn : fld w 0 3 ≠ 0) : decodeV w = .error .illegalOp := by
  simp only [decodeV, hmaj, if_neg hfn]

/-- Every code of three bits names an operation of VSCAN. -/
theorem redOp_ofCode_some {n : Nat} (h : n < 8) : ∃ op, RedOp.ofCode n = some op := by
  have hall : ∀ k < 8, (RedOp.ofCode k).isSome = true := by decide
  exact Option.isSome_iff_exists.1 (hall n h)

theorem decodeV_scan_reserved {w : Nat} (hmaj : fld w 24 6 = 0x25) (hz : fld w 3 9 ≠ 0) : decodeV w = .error .reservedEnc := by
  obtain ⟨op, hop⟩ := redOp_ofCode_some (n := fld w 0 3) (Nat.mod_lt _ (by decide))
  simp only [decodeV, hmaj, hop, asg, need_nonzero _ hz]

/-! ### The lanes of a mask in order -/

theorem lanesOf_pairwise (m : BitVec 64) : (lanesOf m).Pairwise (· < ·) := List.Pairwise.filter _ List.pairwise_lt_range

theorem lanesOf_and (m k : BitVec 64) : lanesOf (m &&& k) = (lanesOf m).filter k.getLsbD := by
  rw [lanesOf, lanesOf, List.filter_filter]
  exact List.filter_congr fun l _ => by rw [BitVec.getLsbD_and, Bool.and_comm]

/-- Below element j of a rising list stand the first j elements. -/
theorem takeWhile_lt_eq_take {xs : List Nat} (h : xs.Pairwise (· < ·)) {j x : Nat} (hx : xs[j]? = some x) :
    xs.takeWhile (· < x) = xs.take j := by
  induction xs generalizing j with
  | nil => cases hx
  | cons y ys ih =>
    obtain ⟨hy, hys⟩ := List.pairwise_cons.1 h
    cases j with
    | zero =>
      obtain rfl : y = x := Option.some.inj hx
      rw [List.takeWhile_cons_of_neg (by simp), List.take_zero]
    | succ j =>
      have hlt : y < x := hy x (List.mem_of_getElem? hx)
      rw [List.takeWhile_cons_of_pos (by simpa using hlt), List.take_succ_cons, ih hys hx]

/-- Up to element j stands one more. -/
theorem takeWhile_le_eq_take {xs : List Nat} (h : xs.Pairwise (· < ·)) {j x : Nat} (hx : xs[j]? = some x) :
    xs.takeWhile (· ≤ x) = xs.take (j + 1) := by
  induction xs generalizing j with
  | nil => cases hx
  | cons y ys ih =>
    obtain ⟨hy, hys⟩ := List.pairwise_cons.1 h
    cases j with
    | zero =>
      obtain rfl : y = x := Option.some.inj hx
      have hrest : ys.takeWhile (· ≤ y) = [] := by
        cases ys with
        | nil => rfl
        | cons z zs => exact List.takeWhile_cons_of_neg (by simpa using hy z List.mem_cons_self)
      rw [List.takeWhile_cons_of_pos (by simp), hrest, List.take_succ_cons, List.take_zero]
    | succ j =>
      have hlt : y < x := hy x (List.mem_of_getElem? hx)
      rw [List.takeWhile_cons_of_pos (by simpa using Nat.le_of_lt hlt), List.take_succ_cons, ih hys hx]

/-- How many lanes of a mask stand below lane l. -/
def rankIn (m : BitVec 64) (l : Nat) : Nat := ((lanesOf m).takeWhile (· < l)).length

theorem rankIn_of_getElem {m : BitVec 64} {j l : Nat} (h : (lanesOf m)[j]? = some l) : rankIn m l = j := by
  have hlt : j < (lanesOf m).length := (List.getElem?_eq_some_iff.1 h).1
  rw [rankIn, takeWhile_lt_eq_take (lanesOf_pairwise m) h, List.length_take, Nat.min_eq_left (Nat.le_of_lt hlt)]

/-! ### Compress and expand (R165) -/

/-- The value of a lane that may not be there: 0 when it is not. -/
def valueOrZero (x : Nat → Word) : Option Nat → Word
  | some m => x m
  | none => 0

/-- What VCOMP gives lane l: the value of the selected lane of the same rank. -/
def compressed (act k : BitVec 64) (x : Nat → Word) (l : Nat) : Word :=
  valueOrZero x (lanesOf (act &&& k))[rankIn act l]?

theorem compressed_of_rank {act k : BitVec 64} {x : Nat → Word} {j l : Nat} (h : (lanesOf act)[j]? = some l) :
    compressed act k x l = valueOrZero x ((lanesOf act).filter k.getLsbD)[j]? := by
  rw [compressed, rankIn_of_getElem h, lanesOf_and]

/-- What VEXPD gives lane l: a selected lane takes the value of the active lane of the rank that it has among the selected ones. -/
def expanded (act k : BitVec 64) (x : Nat → Word) (l : Nat) : Word :=
  if k.getLsbD l then x ((lanesOf act).getD (rankIn (act &&& k) l) 0) else 0

theorem expanded_of_selected {act k : BitVec 64} {x : Nat → Word} {j l m : Nat} (hl : ((lanesOf act).filter k.getLsbD)[j]? = some l)
    (hm : (lanesOf act)[j]? = some m) : expanded act k x l = x m := by
  have hk : k.getLsbD l = true := (List.mem_filter.1 (List.mem_of_getElem? hl)).2
  rw [expanded, if_pos hk, rankIn_of_getElem (lanesOf_and act k ▸ hl), List.getD_eq_getElem?_getD, hm, Option.getD_some]

theorem expanded_of_unselected {act k : BitVec 64} {x : Nat → Word} {l : Nat} (hl : l ∈ lanesOf act)
    (hk : l ∉ (lanesOf act).filter k.getLsbD) : expanded act k x l = 0 :=
  if_neg fun h => hk (List.mem_filter.2 ⟨hl, h⟩)

/-! VCOMP and VEXPD are vector writes of those values. -/

theorem exec_vcomp (p : Bool) (d a : Reg) (k : MReg) (s : State) : exec (.vcomp p d a k) s = issueW (.vcomp p d a k) { p, vs := [d, a] }
    (fun c => c.w.writeV d c.act false (compressed c.act (c.w.mreg k).val (c.w.lane a))
      (vlab c.w a ||| (c.w.mreg k).lab ||| c.w.ctxlbl)) s := rfl

theorem exec_vexpd (p : Bool) (d a : Reg) (k : MReg) (s : State) : exec (.vexpd p d a k) s = issueW (.vexpd p d a k) { p, vs := [d, a] }
    (fun c => c.w.writeV d c.act false (expanded c.act (c.w.mreg k).val (c.w.lane a))
      (vlab c.w a ||| (c.w.mreg k).lab ||| c.w.ctxlbl)) s := rfl

/-! ### Slide and permute (R166, R167) -/

theorem exec_vslup (p : Bool) (d a b : Reg) (s : State) : exec (.vslup p d a b) s = issueW (.vslup p d a b) { p, vs := [d, a] }
    (fun c => c.w.writeV d c.act false
      (fun l => if (sval c.w b).toNat ≤ l then c.w.lane a (l - (sval c.w b).toNat) else 0)
      (vlab c.w a ||| slab c.w b ||| c.w.ctxlbl)) s := rfl

theorem exec_vsldn (p : Bool) (d a b : Reg) (s : State) : exec (.vsldn p d a b) s = issueW (.vsldn p d a b) { p, vs := [d, a] }
    (fun c => c.w.writeV d c.act false
      (fun l => if l + (sval c.w b).toNat ≤ 63 then c.w.lane a (l + (sval c.w b).toNat) else 0)
      (vlab c.w a ||| slab c.w b ||| c.w.ctxlbl)) s := rfl

theorem exec_vperm (p : Bool) (d a b : Reg) (r : Route) (s : State) : exec (.vperm p d a b r) s =
    issueW (.vperm p d a b r) { p, vs := [d, a, b] } (fun c => c.w.writeV d c.act false
      (fun l => c.w.lane a ((routed c.w b r l).toNat % 64)) (vlab c.w a ||| vlab c.w b ||| routeLab c.w r ||| c.w.ctxlbl)) s := rfl

/-- VPERM reads its lanes by the routed indices, all as they stand before the write. -/
theorem vperm_writes {p : Bool} {d a b : Reg} {r : Route} {s : State} {c : Cur} (hi : Issues s c 1) (hv : InV c [d, a, b]) :
    WritesV (.vperm p d a b r) p 1 d false (fun l => c.w.lane a ((routed c.w b r l).toNat % 64))
      (vlab c.w a ||| vlab c.w b ||| routeLab c.w r ||| c.w.ctxlbl) s c :=
  writesV_of (exec_vperm p d a b r s) hi hv rfl rfl (by simp only [noted_lane, noted_routed, noted_vlab, noted_routeLab]; rfl)

/-! ### Scan (R168) -/

/-- What VSCAN gives lane l: the reduction of the active lanes up to it, with the flags of its steps. -/
def scanned (op : RedOp) (act : BitVec 64) (x : Nat → Word) (l : Nat) : Word × Flags :=
  reduce op (((lanesOf act).takeWhile (· ≤ l)).map x)

theorem scanned_eq_reduceUpTo {op : RedOp} {act : BitVec 64} {x : Nat → Word} {j l : Nat} (h : (lanesOf act)[j]? = some l) :
    scanned op act x l = reduceUpTo op ((lanesOf act).map x) j := by
  rw [scanned, takeWhile_le_eq_take (lanesOf_pairwise act) h, List.map_take]
  rfl

/-- The first active lane keeps its value. -/
theorem scanned_first {op : RedOp} {act : BitVec 64} {x : Nat → Word} {l : Nat} (h : (lanesOf act)[0]? = some l) :
    scanned op act x l = (x l, 0) := by
  rw [scanned_eq_reduceUpTo h, reduceUpTo_zero (by rw [List.getElem?_map, h]; rfl)]

/-- Each active lane is one step behind the one before it. -/
theorem scanned_next {op : RedOp} {act : BitVec 64} {x : Nat → Word} {j l m : Nat} (hl : (lanesOf act)[j]? = some l)
    (hm : (lanesOf act)[j + 1]? = some m) : scanned op act x m =
      ((redStep op (scanned op act x l).1 (x m)).1, (scanned op act x l).2 ||| (redStep op (scanned op act x l).1 (x m)).2) := by
  rw [scanned_eq_reduceUpTo hl, scanned_eq_reduceUpTo hm, reduceUpTo_succ (by rw [List.getElem?_map, hm]; rfl)]

/-- A flag that some first values raise is raised by all of them. -/
theorem reduce_flags_append {op : RedOp} {k : Nat} {xs : List Word} (ys : List Word) (h : (reduce op xs).2.getLsbD k = true) :
    (reduce op (xs ++ ys)).2.getLsbD k = true := by
  induction ys generalizing xs with
  | nil => rwa [List.append_nil]
  | cons y ys ih =>
    have hne : xs ≠ [] := by
      rintro rfl
      simp [reduce] at h
    rw [List.append_cons]
    exact ih (by rw [reduce_append hne, BitVec.getLsbD_or, h, Bool.true_or])

/-- The flags of the whole reduction are those of the active lanes' results together. -/
theorem scanned_flags (op : RedOp) (act : BitVec 64) (x : Nat → Word) :
    (reduce op ((lanesOf act).map x)).2 = laneFlags act fun l => (scanned op act x l).2 := by
  refine BitVec.eq_of_getLsbD_eq fun k _ => Bool.eq_iff_iff.2 ?_
  rw [laneFlags_bit, ← List.any_filter, List.any_eq_true]
  constructor
  · intro h
    rcases List.eq_nil_or_concat (lanesOf act) with hnil | ⟨ls, l, hls⟩
    · rw [hnil] at h
      simp [reduce] at h
    · have hlast : (lanesOf act)[ls.length]? = some l := by rw [hls, List.concat_eq_append, List.getElem?_concat_length]
      have hlen : ((lanesOf act).map x).length = ls.length + 1 := by rw [hls, List.length_map, List.length_concat]
      exact ⟨l, List.mem_of_getElem? hlast, by rwa [scanned_eq_reduceUpTo hlast, reduceUpTo_last hlen]⟩
  · rintro ⟨l, -, h⟩
    rw [← List.takeWhile_append_dropWhile (p := (· ≤ l)) (l := lanesOf act), List.map_append]
    exact reduce_flags_append _ h

/-- VSCAN writes each active lane's reduction, and .FADD raises their flags. -/
theorem exec_vscan (p : Bool) (op : RedOp) (d a : Reg) (s : State) : exec (.vscan p op d a) s =
    issueW (.vscan p op d a) { p, vs := [d, a] } (fun c =>
      let l := vlab c.w a ||| c.w.ctxlbl
      let w := c.w.writeV d c.act false (fun k => (scanned op c.act (c.w.lane a) k).1) l
      if redFloat op then w.raise (laneFlags c.act fun k => (scanned op c.act (c.w.lane a) k).2) l else w) s := by
  simp only [← scanned_flags]
  rfl

theorem vscan_writes {p : Bool} {op : RedOp} {d a : Reg} {s : State} {c : Cur} (hi : Issues s c 1) (hv : InV c [d, a])
    (hop : op ≠ .fadd) :
    WritesV (.vscan p op d a) p 1 d false (fun l => (scanned op c.act (c.w.lane a) l).1) (vlab c.w a ||| c.w.ctxlbl) s c :=
  writesV_of (exec_vscan p op d a s) hi hv rfl rfl (if_neg (by simp [redFloat, hop]))

theorem vscan_fadd_writes {p : Bool} {d a : Reg} {s : State} {c : Cur} (hi : Issues s c 1) (hv : InV c [d, a]) :
    WritesVF (.vscan p .fadd d a) p d false (scanned .fadd c.act (c.w.lane a)) (vlab c.w a ||| c.w.ctxlbl) s c :=
  writesVF_of (exec_vscan p .fadd d a s) hi hv rfl rfl rfl

/-- Settles O12: each instruction is a vector write; compress and expand by ranks in the lanes of a mask, scan one active lane after the
other. -/
theorem laneRearrangement : Obligations.LaneRearrangement := by
  unfold Obligations.LaneRearrangement
  refine ⟨fun p d a b r k op s c hi hv => ?writes, fun w rest hset => ⟨fun hmaj hz => ?compressBits,
    fun hmaj => ⟨fun hfn => ?slideCodes, fun hfn hz => ?slideBits⟩, fun hmaj hfn => ?permuteCodes, fun hmaj hz => ?scanBits⟩⟩
  case writes =>
    intro x act sel n labk labs
    refine ⟨⟨_, writesV_of (exec_vcomp p d a k s) hi hv rfl rfl rfl, fun j l hl => compressed_of_rank hl⟩,
      ⟨_, writesV_of (exec_vexpd p d a k s) hi hv rfl rfl rfl, fun j l hl m hm => expanded_of_selected hl hm,
        fun l hl hk => expanded_of_unselected hl hk⟩,
      writesV_of (exec_vslup p d a b s) hi hv rfl rfl rfl, writesV_of (exec_vsldn p d a b s) hi hv rfl rfl rfl, fun hb => ?permute,
      fun hop => ⟨_, vscan_writes hi hv hop, fun l hl => ?first, fun j l m hl hm => ?next⟩,
      ⟨_, vscan_fadd_writes hi hv, fun l hl => scanned_first hl, fun j l m hl hm => Prod.ext_iff.1 (scanned_next hl hm)⟩⟩
    case permute => exact vperm_writes hi (by simpa [InV, hb] using hv)
    case first => exact congrArg Prod.fst (scanned_first hl)
    case next => exact (Prod.ext_iff.1 (scanned_next hl hm)).1
  case compressBits =>
    exact noInstr_reserved_of_vector hset (decodeV_compress_reserved hmaj (fld_ne_zero_of_part (lo := 3) (n := 3) (k := 6) hz))
  case slideCodes => exact noInstr_illegal_of_vector hset (decodeV_slide_unassigned hmaj hfn)
  case slideBits => exact noInstr_reserved_of_vector hset (decodeV_slide_reserved hmaj hfn hz)
  case permuteCodes => exact noInstr_illegal_of_vector hset (decodeV_permute_unassigned hmaj hfn)
  case scanBits =>
    exact noInstr_reserved_of_vector hset (decodeV_scan_reserved hmaj (fld_ne_zero_of_part (lo := 3) (n := 3) (k := 6) hz))

end Sys2Proof.Machine
end

section
/-! PROOFS. Hypervector registers and bundle accumulators (R172 to R179): what a write of either leaves of its group and of every wave,
and what each instruction writes. -/

namespace Sys2Proof.Machine

/-! ### Groups and waves after a write (R173) -/

theorem gid_of_group {s : State} {k : Nat} {g : Group} (h : s.group? k = some g) : g.gid = k := by
  simpa using List.find?_some h

/-- The group of the wave whose turn it is has the number that names it. -/
theorem cur_gid {s : State} {c : Cur} (h : s.cur? = some c) : c.g.gid = c.ref.gid := gid_of_group (cur_some h).1

theorem group_updGroup_some {s : State} {k : Nat} {g : Group} (h : s.group? k = some g) (f : Group → Group)
    (hf : ∀ x, (f x).gid = x.gid) : (s.updGroup k f).group? k = some (f g) := by
  rw [State.group_updGroup _ _ _ hf, h]
  rfl

/-- The waves after a change of a group that changes all its waves alike. -/
theorem wave_updGroup (s : State) (k : Nat) (f : Group → Group) (φ : Wave → Wave) (r : WaveRef) (hf : ∀ x, (f x).gid = x.gid)
    (hwaves : ∀ x, (f x).waves = x.waves.map φ) :
    (s.updGroup k f).wave? r = if r.gid = k then (s.wave? r).map φ else s.wave? r := by
  by_cases hk : r.gid = k
  · subst hk
    rw [if_pos rfl, State.wave?, State.wave?, State.group_updGroup _ _ _ hf]
    cases s.group? r.gid with
    | none => rfl
    | some g => exact (congrArg (·[r.wave]?) (hwaves g)).trans List.getElem?_map
  · rw [if_neg hk, State.wave?, State.wave?, State.group_updGroup_other _ _ _ _ hf hk]

theorem group_updWave {s : State} {r : WaveRef} {g : Group} (h : s.group? r.gid = some g) (f : Wave → Wave) :
    (s.updWave r f).group? r.gid = some { g with waves := g.waves.modify r.wave f } :=
  group_updGroup_some h (fun g => { g with waves := g.waves.modify r.wave f }) fun _ => rfl

theorem group_writeH {s : State} {k : Nat} {g : Group} (h : s.group? k = some g) (n : Nat) (v : BitVec 8192) (l : Label) :
    (writeH k n v l s).group? k = some { g with
      h := setReg 16 n ⟨v, l⟩ .zero g.h, hnew := g.hnew.filter (·.1 != n), waves := g.waves.map (·.cancel (.h n)) } :=
  group_updGroup_some h (fun g => { g with
    h := setReg 16 n ⟨v, l⟩ .zero g.h, hnew := g.hnew.filter (·.1 != n), waves := g.waves.map (·.cancel (.h n)) }) fun _ => rfl

/-- A write of a hypervector register cancels what the waves of its group have outstanding for it, and touches no other wave. -/
theorem wave_writeH (k n : Nat) (v : BitVec 8192) (l : Label) (s : State) (r : WaveRef) :
    (writeH k n v l s).wave? r = if r.gid = k then (s.wave? r).map (·.cancel (.h n)) else s.wave? r :=
  wave_updGroup s k _ _ r (fun _ => rfl) fun _ => rfl

theorem group_writeAcc {s : State} {k : Nat} {g : Group} (h : s.group? k = some g) (n : Nat) (x : Accum) :
    (writeAcc k n x s).group? k = some { g with a := setReg 4 n x .zero g.a } :=
  group_updGroup_some h (fun g => { g with a := setReg 4 n x .zero g.a }) fun _ => rfl

/-- A write of an accumulator touches no wave. -/
theorem wave_writeAcc (k n : Nat) (x : Accum) (s : State) (r : WaveRef) : (writeAcc k n x s).wave? r = s.wave? r := by
  have h : (writeAcc k n x s).wave? r = if r.gid = k then (s.wave? r).map id else s.wave? r :=
    wave_updGroup s k _ id r (fun _ => rfl) fun _ => (List.map_id _).symm
  rwa [Option.map_id_fun, id, ite_self] at h

/-- A register file of n registers with one written. -/
theorem setReg_getD_fin {α : Type} {n : Nat} (i j : Fin n) (x z : α) (l : List α) :
    (setReg n i x z l).getD j z = if j = i then x else l.getD j z := by
  rw [setReg_getD j.isLt]
  simp only [Fin.ext_iff]

theorem hreg_setReg (g : Group) (d n : Fin 16) (x : HReg) : (setReg 16 d x .zero g.h).getD n .zero = if n = d then x else g.hreg n :=
  setReg_getD_fin d n x .zero g.h

theorem acc_setReg (g : Group) (k j : Fin 4) (x : Accum) : (setReg 4 k x .zero g.a).getD j .zero = if j = k then x else g.acc j :=
  setReg_getD_fin k j x .zero g.a

/-! ### A cancelled write leaves every register -/

theorem sameMisc_cancel {w u : Wave} (h : SameMisc w u) (t : Target) : SameMisc w (u.cancel t) := by
  obtain ⟨hrlane, hocych, hlclkh, hover, hpath, heseen, hclaims, hheld, hexited⟩ := h
  exact ⟨hrlane, hocych, hlclkh, hover, hpath, heseen, hclaims, (cancel_held t u).trans hheld, hexited⟩

theorem sameEntries_cancel {w u : Wave} (h : SameEntries w u) (t : Target) : SameEntries w (u.cancel t) := (cancel_entries t u).trans h

theorem sameRegs_cancel {w u : Wave} (h : SameRegs w u) (t : Target) : SameRegs w (u.cancel t) := by
  obtain ⟨hv, hs, hm, hx, htrap, hrng, hmisc, hflags⟩ := h
  exact ⟨hv, hs, hm, hx, htrap, hrng, sameMisc_cancel hmisc t, hflags⟩

theorem advances_cancel {p : Bool} {n : Nat} {c : Cur} {s : State} {u : Wave} (h : Advances p n c s u) (t : Target) :
    Advances p n c s (u.cancel t) := h

theorem sameRegs_refl (w : Wave) : SameRegs w w := sameRegs_rest ..

/-- A write that is cancelled makes no difference to how a running wave goes on. -/
theorem retireWave_cancel {g : Sig} {act : BitVec 64} {now : Nat} {w : Wave} (h : w.status = .running) (t : Target) :
    retireWave g act now (w.cancel t) = (retireWave g act now w).cancel t := by
  rw [retireWave_running h, retireWave_running (show (w.cancel t).status = .running from h)]
  cases g.xfer <;> rfl

/-- An instruction that is complete leaves the registers, CTXLBL and the entries of a running wave. -/
theorem retire_sameRegs {c : Cur} (hrun : c.w.status = .running) (g : Sig) (s : State) :
    let w := retireWave g c.act s.clk.cycle (c.noted s).w
    SameRegs c.w w ∧ SameCtx c.w w ∧ SameEntries c.w w := by
  intro w
  obtain ⟨pcs, hw⟩ := retireWave_eq_with (g := g) (act := c.act) (now := s.clk.cycle) (w := (c.noted s).w) hrun
  rw [show w = _ from hw]
  exact ⟨sameRegs_rest .., rfl, rfl⟩

/-- u is w with uniform register d written, whatever has become of its lanes and its status. -/
def WroteS (d : Reg) (x : Word) (l : Label) (w u : Wave) : Prop :=
  u.sreg d = (if d = 0 then UReg.zero else ⟨x, l⟩) ∧ (∀ n : Reg, n ≠ d → u.sreg n = w.sreg n) ∧ SameV w u ∧ SameM w u ∧ SameX w u ∧
    SameTrap w u ∧ SameRng w u ∧ SameMisc w u ∧ SameFlags w u ∧ SameCtx w u ∧ SameEntries w u

/-- A uniform write, complete, and what it leaves. -/
theorem retire_wroteS {c : Cur} (hrun : c.w.status = .running) (g : Sig) (s : State) (d : Reg) (x : Word) (l : Label) :
    WroteS d x l c.w (retireWave g c.act s.clk.cycle ((c.noted s).w.writeS d x l)) := by
  obtain ⟨hsame, hother, hflags, hv, hm, hx, htrap, hrng, hmisc, hctx, hentries⟩ :=
    retire_writeS (s := s) hrun g c.act s.clk.cycle d x l ((c.noted s).w.writeS d x l).fflags ((c.noted s).w.writeS d x l).pcs
  exact ⟨hsame, hother, hv, hm, hx, htrap, hrng, hmisc, hflags.trans (writeS_fflags ..), hctx, hentries⟩

theorem wroteS_cancel {d : Reg} {x : Word} {l : Label} {w u : Wave} (h : WroteS d x l w u) (t : Target) : WroteS d x l w (u.cancel t) := by
  obtain ⟨hsame, hother, hv, hm, hx, htrap, hrng, hmisc, hflags, hctx, hentries⟩ := h
  exact ⟨hsame, hother, hv, hm, hx, htrap, hrng, sameMisc_cancel hmisc t, hflags, hctx, sameEntries_cancel hentries t⟩

/-! ### What a complete write leads to -/

/-- Each other wave is as it was, or has a write cancelled. -/
theorem otherWaves_of {c : Cur} {s t : State}
    (h : ∀ r, r ≠ c.ref → t.wave? r = s.wave? r ∨ ∃ k, t.wave? r = (s.wave? r).map (·.cancel k)) : OtherWaves c s t := by
  intro r w hr hw
  rcases h r hr with hsame | ⟨k, hcancel⟩
  · exact ⟨w, hsame.trans hw, sameRegs_refl w, rfl, rfl, rfl, rfl⟩
  · exact ⟨w.cancel k, by rw [hcancel, hw]; rfl, sameRegs_cancel (sameRegs_refl w) k, rfl, cancel_entries k w, rfl, rfl⟩

/-- A write of a hypervector register, complete: the group's registers, its wave that made the write, the other waves. -/
theorem writeH_complete {s : State} {c : Cur} (hcur : s.cur? = some c) (g : Sig) (w : Wave) (d : Fin 16) (v : BitVec 8192) (l : Label) :
    let t := retireInstr g (c.noted s) (writeH c.g.gid d v l (s.updWave c.ref fun _ => w))
    ∃ g', t.group? c.ref.gid = some g' ∧ t.wave? c.ref = some (retireWave g c.act s.clk.cycle (w.cancel (.h d))) ∧
      (∀ n : Fin 16, g'.hreg n = if n = d then ⟨v, l⟩ else c.g.hreg n) ∧ g'.a = c.g.a ∧ OtherWaves c s t ∧ t.mem = s.mem := by
  intro t
  rw [show t = retireInstr g (c.noted s) (writeH c.ref.gid d v l (s.updWave c.ref fun _ => w)) by rw [← cur_gid hcur]]
  refine ⟨_, group_updWave (group_writeH (group_updWave (cur_some hcur).1 _) d v l) _, ?wave,
    fun n => hreg_setReg c.g d n ⟨v, l⟩, rfl, otherWaves_of fun r hr => ?others, rfl⟩
  case wave =>
    rw [retireInstr, noted_ref, State.wave_updWave, wave_writeH, if_pos rfl, wave_after hcur]
    rfl
  case others =>
    rw [retireInstr, noted_ref, State.wave_updWave_other _ _ _ _ hr, wave_writeH, State.wave_updWave_other _ _ _ _ hr]
    by_cases hg : r.gid = c.ref.gid
    · exact .inr ⟨_, if_pos hg⟩
    · exact .inl (if_neg hg)

/-- A write of an accumulator, complete. -/
theorem writeAcc_complete {s : State} {c : Cur} (hcur : s.cur? = some c) (g : Sig) (w : Wave) (k : Fin 4) (x : Accum) :
    let t := retireInstr g (c.noted s) (writeAcc c.g.gid k x (s.updWave c.ref fun _ => w))
    ∃ g', t.group? c.ref.gid = some g' ∧ t.wave? c.ref = some (retireWave g c.act s.clk.cycle w) ∧
      (∀ j : Fin 4, g'.acc j = if j = k then x else c.g.acc j) ∧ g'.h = c.g.h ∧ OtherWaves c s t ∧ t.mem = s.mem := by
  intro t
  rw [show t = retireInstr g (c.noted s) (writeAcc c.ref.gid k x (s.updWave c.ref fun _ => w)) by rw [← cur_gid hcur]]
  refine ⟨_, group_updWave (group_writeAcc (group_updWave (cur_some hcur).1 _) k x) _, ?wave,
    fun j => acc_setReg c.g k j x, rfl, otherWaves_of fun r hr => .inl ?others, rfl⟩
  case wave =>
    rw [retireInstr, noted_ref, State.wave_updWave, wave_writeAcc, wave_after hcur]
    rfl
  case others =>
    rw [retireInstr, noted_ref, State.wave_updWave_other _ _ _ _ hr, wave_writeAcc, State.wave_updWave_other _ _ _ _ hr]

/-- An instruction of the hypervector unit that may issue has its effect. -/
theorem hyper_next {i : Instr} {p : Bool} {hs as : List Nat} {body : Cur → State → Res} {s : State} {c : Cur}
    (hex : exec i s = issue i { p, hs, as } body s) (hi : Issues s c 1) (hh : InH c hs) (ha : InA c as) (hp : i.privileged = false)
    (hw : wf i = true) : exec i s = .next (finishInstr i { p, hs, as } (c.noted s) (body (c.noted s) (atIssue s c))) :=
  effect_next hi.1 hex (fun h => nomatch h) (fun h => nomatch h) (check_none (.inr hi.2) (by simp [hp]) hw (InV_nil c) hh ha)

/-- An instruction whose effect is a write of a hypervector register. -/
theorem writesH_of {i : Instr} {p : Bool} {hs : List Nat} {d : Fin 16} {v : Cur → BitVec 8192} {l : Cur → Label} {f : Nat → Bool}
    {lab : Label} {s : State} {c : Cur}
    (hex : exec i s = issue i { p, hs } (fun c s => .done (writeH c.g.gid d (v c) (l c) s)) s) (hi : Issues s c 1) (hh : InH c hs)
    (hp : i.privileged = false) (hw : wf i = true) (hf : ∀ k, k < 8192 → (v (c.noted s)).getLsbD k = f k)
    (hl : l (c.noted s) = lab) : WritesH i p d f lab s c := by
  have hrun : c.w.status = .running := hi.1.2.2
  obtain ⟨g', hgroup, hwave, hreg, hacc, hothers, hmem⟩ :=
    writeH_complete hi.1.1 { p, hs } (c.noted s).w d (v (c.noted s)) (l (c.noted s))
  obtain ⟨hregs, hctx, hentries⟩ := retire_sameRegs hrun { p, hs } s
  have hadv : Advances p 1 c s (retireWave { p, hs } c.act s.clk.cycle (c.noted s).w) := retire_advances rfl hrun
  rw [retireWave_cancel (w := (c.noted s).w) hrun] at hwave
  refine ⟨_, g', _, hyper_next hex hi hh (InA_nil c) hp hw, hgroup, hwave, fun k hk => ?_, ?_, fun n hn => ?_, hacc, hothers,
    sameRegs_cancel hregs _, hctx, sameEntries_cancel hentries _, advances_cancel hadv _, hmem⟩
  · rw [hreg, if_pos rfl, ← hf k hk]
  · rw [hreg, if_pos rfl, ← hl]
  · rw [hreg, if_neg hn]

/-- An instruction whose effect is a write of an accumulator. -/
theorem writesA_of {i : Instr} {p : Bool} {hs : List Nat} {k : Fin 4} {x : Group → Label → Accum} {s : State} {c : Cur}
    (hex : exec i s = issue i { p, hs, as := [k] } (fun c s => .done (writeAcc c.g.gid k (x c.g c.w.ctxlbl) s)) s) (hi : Issues s c 1)
    (hh : InH c hs) (ha : k.val < c.g.adecl) (hp : i.privileged = false) (hw : wf i = true) : WritesA i p k (x c.g c.w.ctxlbl) s c := by
  have hrun : c.w.status = .running := hi.1.2.2
  obtain ⟨g', hgroup, hwave, hacc, hreg, hothers, hmem⟩ :=
    writeAcc_complete hi.1.1 { p, hs, as := [k.val] } (c.noted s).w k (x c.g c.w.ctxlbl)
  obtain ⟨hregs, hctx, hentries⟩ := retire_sameRegs hrun { p, hs, as := [k.val] } s
  refine ⟨_, g', _, hyper_next hex hi hh (fun j hj => by rwa [List.mem_singleton.1 hj]) hp hw, hgroup, hwave, ?_, fun j hj => ?_, hreg,
    hothers, hregs, hctx, hentries, retire_advances rfl hrun, hmem⟩
  · rw [hacc, if_pos rfl]
  · rw [hacc, if_neg hj]

/-- An instruction of the hypervector unit whose effect is a write of a uniform register. -/
theorem writesS_of_hyper {i : Instr} {p : Bool} {hs : List Nat} {d : Reg} {x : Group → Word} {l : Group → Label → Label}
    {s : State} {c : Cur}
    (hex : exec i s = issue i { p, hs } (fun c s => .done (s.updWave c.ref fun w => w.writeS d (x c.g) (l c.g c.w.ctxlbl))) s)
    (hi : Issues s c 1) (hh : InH c hs) (hp : i.privileged = false) (hw : wf i = true) :
    WritesS i p 1 d (x c.g) (l c.g c.w.ctxlbl) s c := by
  have hrun : c.w.status = .running := hi.1.2.2
  obtain ⟨hsame, hother, hv, hm, hx, htrap, hrng, hmisc, hflags, hctx, hentries⟩ :=
    retire_wroteS hrun { p, hs } s d (x c.g) (l c.g c.w.ctxlbl)
  have hnext := hyper_next hex hi hh (InA_nil c) hp hw
  rw [noted_ref, atIssue_updWave, done_wave] at hnext
  exact ⟨_, _, hnext, rfl, hsame, hother, hv, hm, hx, htrap, hrng, hmisc, hflags, hctx, hentries,
    retire_advances (writeS_pcs ..) ((writeS_status ..).trans hrun)⟩

/-! ### Registers: HBIND, HPERM, HCOPY (R175) -/

theorem InH_cons {c : Cur} {n : Nat} {ns : List Nat} (h : n < c.g.hdecl) (hs : InH c ns) : InH c (n :: ns) :=
  List.forall_mem_cons.2 ⟨h, hs⟩

/-- A rotation takes each bit from below, around the end. -/
theorem rotateLeft_bit {w : Nat} (x : BitVec w) {n i : Nat} (hn : n < w) (hi : i < w) :
    (x.rotateLeft n).getLsbD i = x.getLsbD ((i + w - n) % w) := by
  rw [BitVec.getLsbD_rotateLeft_of_le hn]
  by_cases h : i < n
  · have hmod : (i + w - n) % w = w - n + i := by rw [Nat.mod_eq_of_lt (by omega)]; omega
    rw [decide_eq_true h, hmod]
    rfl
  · have hmod : (i + w - n) % w = i - n := by
      rw [show i + w - n = i - n + w by omega, Nat.add_mod_right, Nat.mod_eq_of_lt (by omega)]
    rw [decide_eq_false h, hmod, decide_eq_true hi, Bool.true_and]
    rfl

theorem decodeU_hyper_unassigned {w : Nat} (hmaj : fld w 24 6 = 0x3B) (hfn : 3 ≤ fld w 0 6) : decodeU w = .error .illegalOp := by
  obtain ⟨n, hn⟩ := Nat.exists_eq_add_of_le' hfn
  simp only [decodeU, hmaj, hn]

theorem decodeU_hbind_reserved {w : Nat} (hmaj : fld w 24 6 = 0x3B) (hfn : fld w 0 6 = 0) (hz : fld w 6 6 ≠ 0) :
    decodeU w = .error .reservedEnc := by
  simp only [decodeU, hmaj, hfn, need_nonzero _ hz]

theorem decodeU_hperm_reserved {w : Nat} (hmaj : fld w 24 6 = 0x3B) (hfn : fld w 0 6 = 1) (hz : fld w 12 4 ≠ 0) :
    decodeU w = .error .reservedEnc := by
  simp only [decodeU, hmaj, hfn, need_nonzero _ hz]

theorem decodeU_hcopy_reserved {w : Nat} (hmaj : fld w 24 6 = 0x3B) (hfn : fld w 0 6 = 2) (hz : fld w 6 10 ≠ 0) :
    decodeU w = .error .reservedEnc := by
  simp only [decodeU, hmaj, hfn, need_nonzero _ hz]

/-! ### Bundling (R176) -/

/-- A counter's new value, and whether the clamp changed it. -/
theorem bundle_fst (n : Int) (b : Bool) : (bundle n b).1 = max (-127) (min 127 (n + if b then 1 else -1)) := by
  simp only [bundle, Int.min_comm]

theorem bundle_snd (n : Int) (b : Bool) : (bundle n b).2 = true ↔ (bundle n b).1 ≠ n + if b then 1 else -1 := by
  simp only [bundle, bne_iff_ne, ne_comm]

/-- The counters of an accumulator with a register bundled in, each with its clamp. -/
def bundled (x : Accum) (h : BitVec 8192) : List (Int × Bool) :=
  (List.range 8192).map fun i => bundle (x.c.getD i 0) (h.getLsbD i)

theorem bundled_counter (x : Accum) (h : BitVec 8192) {i : Nat} (hi : i < 8192) :
    ((bundled x h).map (·.1)).getD i 0 = (bundle (x.c.getD i 0) (h.getLsbD i)).1 := by
  rw [bundled, List.map_map, rangeMap_getD hi]
  rfl

theorem bundled_clamped (x : Accum) (h : BitVec 8192) :
    (bundled x h).any (·.2) = true ↔ ∃ i, i < 8192 ∧ (bundle (x.c.getD i 0) (h.getLsbD i)).2 = true := by
  simp only [bundled, List.any_map, List.any_eq_true, List.mem_range, Function.comp_apply]

/-- The accumulator that HBUND makes. -/
def bundleAcc (x : Accum) (h : HReg) (l : Label) : Accum :=
  { x with c := (bundled x h.val).map (·.1), sat := x.sat || (bundled x h.val).any (·.2), lab := x.lab ||| h.lab ||| l }

theorem exec_hbund (p : Bool) (k : Fin 4) (a : Fin 16) (s : State) : exec (.hbund p k a) s =
    issue (.hbund p k a) { p, hs := [a], as := [k] }
      (fun c s => .done (writeAcc c.g.gid k (bundleAcc (c.g.acc k) (c.g.hreg a) c.w.ctxlbl) s)) s := rfl

theorem hbund_writes {p : Bool} {k : Fin 4} {a : Fin 16} {s : State} {c : Cur} (hi : Issues s c 1) (hk : k.val < c.g.adecl)
    (ha : a.val < c.g.hdecl) : WritesA (.hbund p k a) p k (bundleAcc (c.g.acc k) (c.g.hreg a) c.w.ctxlbl) s c :=
  writesA_of (x := fun g l => bundleAcc (g.acc k) (g.hreg a) l) (exec_hbund p k a s) hi (InH_cons ha (InH_nil c)) hk rfl rfl

theorem bundleAcc_counter (x : Accum) (h : HReg) (l : Label) {i : Nat} (hi : i < 8192) : (bundleAcc x h l).c.getD i 0 =
    max (-127) (min 127 (x.c.getD i 0 + if h.val.getLsbD i then 1 else -1)) := by
  rw [bundleAcc, bundled_counter x h.val hi, bundle_fst]

theorem bundleAcc_tie (x : Accum) (h : HReg) (l : Label) : (bundleAcc x h l).tie = x.tie := by rw [bundleAcc]
theorem bundleAcc_tr (x : Accum) (h : HReg) (l : Label) : (bundleAcc x h l).tr = x.tr := by rw [bundleAcc]
theorem bundleAcc_lab (x : Accum) (h : HReg) (l : Label) : (bundleAcc x h l).lab = x.lab ||| h.lab ||| l := by rw [bundleAcc]

/-- SAT records that a clamp has changed a sum. -/
theorem bundleAcc_sat (x : Accum) (h : HReg) (l : Label) : (bundleAcc x h l).sat = true ↔ x.sat = true ∨
    ∃ i, i < 8192 ∧ (bundleAcc x h l).c.getD i 0 ≠ x.c.getD i 0 + if h.val.getLsbD i then 1 else -1 := by
  rw [bundleAcc, Bool.or_eq_true, bundled_clamped]
  exact or_congr_right (exists_congr fun i => and_congr_right fun hi => by rw [bundle_snd, bundled_counter x h.val hi])

/-! ### Clearing and tie policy (R176, R177) -/

theorem hclr_writes {p : Bool} {k : Fin 4} {s : State} {c : Cur} (hi : Issues s c 1) (hk : k.val < c.g.adecl) :
    WritesA (.hclr p k) p k { c.g.acc k with c := [], sat := false, lab := c.w.ctxlbl } s c :=
  writesA_of (x := fun g l => { g.acc k with c := [], sat := false, lab := l }) rfl hi (InH_nil c) hk rfl rfl

theorem htie_writes {p : Bool} {k : Fin 4} {pol : TiePolicy} {b : Fin 16} {s : State} {c : Cur} (hi : Issues s c 1)
    (hk : k.val < c.g.adecl) (hw : wf (.htie p k pol b) = true) (hb : pol = .reg → b.val < c.g.hdecl) :
    WritesA (.htie p k pol b) p k { c.g.acc k with tie := pol, tr := if pol = .reg then b else (c.g.acc k).tr } s c := by
  have hin : InH c (if pol = .reg then [b.val] else []) := by
    by_cases hpol : pol = .reg
    · rw [if_pos hpol]
      exact InH_cons (hb hpol) (InH_nil c)
    · rw [if_neg hpol]
      exact InH_nil c
  exact writesA_of (x := fun g _ => { g.acc k with tie := pol, tr := if pol = .reg then b else (g.acc k).tr }) rfl hi hin hk rfl hw

/-! ### Threshold (R178) -/

/-- The bits of a predicate are its values. -/
theorem bitsOf_spec (f : Nat → Bool) (n : Nat) : bitsOf f n < 2 ^ n ∧ ∀ i, (bitsOf f n).testBit i = (decide (i < n) && f i) := by
  induction n with
  | zero => exact ⟨Nat.one_pos, fun i => by simp [bitsOf]⟩
  | succ n ih =>
    obtain ⟨hlt, hbit⟩ := ih
    have hsum : bitsOf f (n + 1) = 2 ^ n * (f n).toNat + bitsOf f n := by
      cases h : f n <;> simp [bitsOf, h]
    have hle := (f n).toNat_le
    refine ⟨?_, fun i => ?_⟩
    · have hbound : 2 ^ n * (f n).toNat ≤ 2 ^ n * 1 := Nat.mul_le_mul_left _ hle
      rw [hsum, Nat.pow_succ]
      omega
    · rw [hsum, Nat.testBit_two_pow_mul_add _ hlt, hbit]
      rcases Nat.lt_trichotomy i n with h | rfl | h
      · rw [if_pos h, decide_eq_true h, decide_eq_true (Nat.lt_succ_of_lt h)]
      · rw [if_neg (Nat.lt_irrefl i), Nat.sub_self, decide_eq_true (Nat.lt_succ_self i), Bool.true_and]
        cases f i <;> rfl
      · have hhigh : (f n).toNat < 2 ^ (i - n) := Nat.lt_of_le_of_lt hle (Nat.one_lt_two_pow (by omega))
        rw [if_neg (Nat.not_lt_of_gt h), Nat.testBit_lt_two_pow hhigh, decide_eq_false (by omega), Bool.false_and]

theorem bitsOf_getLsbD (f : Nat → Bool) (n : Nat) {i : Nat} (hi : i < n) : (BitVec.ofNat n (bitsOf f n)).getLsbD i = f i := by
  rw [BitVec.getLsbD_ofNat, (bitsOf_spec f n).2, decide_eq_true hi, Bool.true_and, Bool.true_and]

/-- HTHR is a write of a uniform register before one of the hypervector register. -/
theorem hthr_next {p : Bool} {k : Fin 4} {h : Fin 16} {d : Reg} {s : State} {c : Cur} (hi : Issues s c 1) (hk : k.val < c.g.adecl)
    (hh : h.val < c.g.hdecl) :
    let x := c.g.acc k
    let tie := c.g.hreg x.tr
    let l := x.lab ||| c.w.ctxlbl
    exec (.hthr p k h d) s = .next (retireInstr { p, hs := [h], as := [k] } (c.noted s)
      (writeH c.g.gid h (BitVec.ofNat 8192 (bitsOf (thrBit x tie.val) 8192)) (if x.tie = .reg then l ||| tie.lab else l)
        (s.updWave c.ref fun _ => (c.noted s).w.writeS d (bool32 x.sat) l))) := by
  intro x tie l
  rw [← atIssue_updWave s c fun w => w.writeS d (bool32 x.sat) l]
  exact hyper_next (show exec (.hthr p k h d) s = execHthr p k h d s from rfl) hi (InH_cons hh (InH_nil c))
    (fun j hj => by rwa [List.mem_singleton.1 hj]) rfl rfl

/-! ### Similarity (R179) -/

theorem hamming_eq (x y : BitVec 8192) :
    hamming x y = ((List.range 8192).filter fun i => x.getLsbD i ^^ y.getLsbD i).length := by
  rw [hamming, popcount, foldl_count_eq_filter_length, Nat.zero_add]
  exact congrArg List.length (List.filter_congr fun i _ => BitVec.getLsbD_xor)

theorem exec_hsim (p : Bool) (a b : Fin 16) (d : Reg) (s : State) : exec (.hsim p a b d) s =
    issue (.hsim p a b d) { p, hs := [a, b] } (fun c s => .done (s.updWave c.ref fun w =>
      w.writeS d (nat32 (hamming (c.g.hreg a).val (c.g.hreg b).val))
        ((c.g.hreg a).lab ||| (c.g.hreg b).lab ||| c.w.ctxlbl))) s := rfl

theorem hsim_writes {p : Bool} {a b : Fin 16} {d : Reg} {s : State} {c : Cur} (hi : Issues s c 1) (ha : a.val < c.g.hdecl)
    (hb : b.val < c.g.hdecl) : WritesS (.hsim p a b d) p 1 d (nat32 (hamming (c.g.hreg a).val (c.g.hreg b).val))
      ((c.g.hreg a).lab ||| (c.g.hreg b).lab ||| c.w.ctxlbl) s c :=
  writesS_of_hyper (x := fun g => nat32 (hamming (g.hreg a).val (g.hreg b).val)) (l := fun g l => (g.hreg a).lab ||| (g.hreg b).lab ||| l)
    (exec_hsim p a b d s) hi (InH_cons ha (InH_cons hb (InH_nil c))) rfl rfl

/-- Settles O23: each instruction by the write that it makes; HTHR makes two. -/
theorem hypervectors : Obligations.Hypervectors := by
  unfold Obligations.Hypervectors
  refine ⟨⟨fun p d a b e s c hi hd ha => ?registers, fun w rest hset hmaj => ⟨fun hfn => ?codes, fun hfn hz => ?bindBits,
    fun hfn hz => ?permBits, fun hfn hz => ?copyBits⟩⟩, fun p k a b pol s c hi hk => ?accumulators, fun p k h a b d s c hi => ?results⟩
  case registers =>
    intro x n
    have hn : n < 8192 := Nat.mod_lt _ (by decide)
    have hin : InH c [d, a] := InH_cons hd (InH_cons ha (InH_nil c))
    refine ⟨fun hb => ?bind, ?perm, ?copy⟩
    case bind =>
      exact writesH_of (v := fun c => (c.g.hreg a).val ^^^ (c.g.hreg b).val) rfl hi
        (InH_cons hd (InH_cons ha (InH_cons hb (InH_nil c)))) rfl rfl (fun i _ => BitVec.getLsbD_xor) rfl
    case perm =>
      exact writesH_of (v := fun c => (c.g.hreg a).val.rotateLeft ((sval c.w e).toNat % 8192)) rfl hi hin rfl rfl
        (fun i hi => rotateLeft_bit x hn hi) rfl
    case copy => exact writesH_of (v := fun c => (c.g.hreg a).val) rfl hi hin rfl rfl (fun _ _ => rfl) rfl
  case codes => exact noInstr_illegal hset (by omega) (decodeU_hyper_unassigned hmaj hfn)
  case bindBits => exact noInstr_reserved hset (by omega) (decodeU_hbind_reserved hmaj hfn hz)
  case permBits => exact noInstr_reserved hset (by omega) (decodeU_hperm_reserved hmaj hfn hz)
  case copyBits =>
    exact noInstr_reserved hset (by omega)
      (decodeU_hcopy_reserved hmaj hfn (fld_ne_zero_of_part (lo := 6) (n := 6) (k := 4) hz))
  case accumulators =>
    intro x
    refine ⟨fun ha => ⟨bundleAcc x (c.g.hreg a) c.w.ctxlbl, hbund_writes hi hk ha, bundleAcc_tie .., bundleAcc_tr .., bundleAcc_lab ..,
      fun i hi => bundleAcc_counter x _ _ hi, bundleAcc_sat x _ _⟩,
      ⟨_, hclr_writes hi hk, rfl, rfl, rfl, rfl, fun _ => rfl⟩, htie_writes hi hk⟩
  case results =>
    intro x l
    refine ⟨fun hk hh => ?threshold, fun ha hb => ?similarity⟩
    case threshold =>
      have hrun : c.w.status = .running := hi.1.2.2
      let w := (c.noted s).w.writeS d (bool32 x.sat) l
      have hstatus : w.status = .running := (writeS_status ..).trans hrun
      obtain ⟨g', hgroup, hwave, hreg, hacc, hothers, hmem⟩ :=
        writeH_complete hi.1.1 { p, hs := [h.val], as := [k.val] } w h
          (BitVec.ofNat 8192 (bitsOf (thrBit x (c.g.hreg x.tr).val) 8192)) (if x.tie = .reg then l ||| (c.g.hreg x.tr).lab else l)
      obtain ⟨hsame, hother, hv, hm, hx, htrap, hrng, hmisc, hflags, hctx, hentries⟩ :=
        wroteS_cancel (retire_wroteS hrun { p, hs := [h.val], as := [k.val] } s d (bool32 x.sat) l) (.h h)
      have hadv : Advances p 1 c s (retireWave { p, hs := [h.val], as := [k.val] } c.act s.clk.cycle w) :=
        retire_advances (writeS_pcs ..) hstatus
      rw [retireWave_cancel hstatus] at hwave
      refine ⟨_, g', _, hthr_next hi hk hh, hgroup, hwave, fun i hi => ?bits, ?label, hsame, fun n hn => ?regs, hacc, hothers, hmem,
        hother, hv, hm, hx, htrap, hrng, hmisc, hflags, hctx, hentries, advances_cancel hadv _⟩
      case bits =>
        rw [hreg, if_pos rfl]
        exact bitsOf_getLsbD _ 8192 hi
      case label => rw [hreg, if_pos rfl]
      case regs => rw [hreg, if_neg hn]
    case similarity =>
      rw [← hamming_eq]
      exact hsim_writes hi ha hb

end Sys2Proof.Machine
end

section
/-! PROOFS. Software traps and the return from the handler (R273 to R276): what a stop for the debugger sets in its group, and where a
return sends the lanes. -/

namespace Sys2Proof.Machine

/-! ### Traps behind the word (R273) -/

/-- An instruction without registers to check, of one word and no transfer, has its effect where it may stand. -/
theorem plain_next {i : Instr} {p : Bool} {body : Cur → State → Res} {s : State} {c : Cur} (hi : Issues s c 1)
    (hex : exec i s = issue i { p } body s) (hp : i.privileged = false) (hw : wf i = true) :
    exec i s = .next (finishInstr i { p } (c.noted s) (body (c.noted s) (atIssue s c))) :=
  effect_next hi.1 hex (fun h => nomatch h) (fun h => nomatch h)
    (check_none (.inr hi.2) (by simp [hp]) hw (InV_nil c) (InH_nil c) (InA_nil c))

/-- Such an instruction whose effect is a trap that names its own TRAPPC. -/
theorem trapAt_traps {i : Instr} {p : Bool} {body : Cur → State → Res} {s : State} {c : Cur} {pc cause addr : Nat} (hi : Issues s c 1)
    (hex : exec i s = issue i { p } body s) (hp : i.privileged = false) (hw : wf i = true) (htrap : c.w.intrap = false)
    (hbody : body (c.noted s) (atIssue s c) = .trapAt (atIssue s c) pc cause addr) : TrapsAt i pc cause addr s c := by
  refine traps_of hi.1.1 htrap s.clk.cycle ?_
  rw [plain_next hi hex hp hw, hbody]
  rfl

/-! ### Stopping a cluster (R276, R278) -/

/-- A group that is to stop for its save. -/
def stopGroup (g : Group) : Group := { g with stop := true }

/-- Of a group, its waves are as before, and a stop that was set still is. -/
def KeepsStop (x y : Group) : Prop := y.waves = x.waves ∧ (x.stop = true → y.stop = true)

theorem keepsStop_refl (x : Group) : KeepsStop x x := ⟨rfl, id⟩

theorem keepsStop_trans {x y z : Group} : KeepsStop x y → KeepsStop y z → KeepsStop x z :=
  fun ⟨hwaves, hstop⟩ ⟨hwaves', hstop'⟩ => ⟨hwaves'.trans hwaves, fun h => hstop' (hstop h)⟩

/-- The groups after a list of groups has been told to stop. -/
theorem group_overList_stop (hs : List Group) (s : State) (k : Nat) :
    (overList (fun (h : Group) s => s.updGroup h.gid stopGroup) hs s).group? k =
      (s.group? k).map fun x => if ∃ h ∈ hs, h.gid = k then stopGroup x else x := by
  induction hs generalizing s with
  | nil =>
    simp only [List.not_mem_nil, false_and, exists_false, if_false, Option.map_id']
    rfl
  | cons h hs ih =>
    refine (ih (s.updGroup h.gid stopGroup)).trans ?_
    by_cases hk : h.gid = k
    · subst hk
      rw [State.group_updGroup s h.gid stopGroup fun _ => rfl, Option.map_map]
      refine congrArg (fun f => (s.group? h.gid).map f) (funext fun x => ?_)
      rw [if_pos ⟨h, List.mem_cons_self, rfl⟩]
      exact ite_self (stopGroup x)
    · rw [State.group_updGroup_other s h.gid k stopGroup (fun _ => rfl) (Ne.symm hk)]
      simp only [List.mem_cons, exists_eq_or_imp, hk, false_or]

/-- Taking a save frame touches no wave and no stop. -/
theorem group_holdFrame {s : State} {k : Nat} {x : Group} (h : s.group? k = some x) (j : Nat) :
    ∃ y, (holdFrame j s).group? k = some y ∧ KeepsStop x y := by
  have hsame : ∃ y, s.group? k = some y ∧ KeepsStop x y := ⟨x, h, keepsStop_refl x⟩
  unfold holdFrame
  split
  · exact hsame
  · split
    · exact hsame
    · by_cases hk : k = j
      · subst hk
        exact ⟨_, group_updGroup_some h (fun g => { g with frame := true, frameNo := _ }) fun _ => rfl, rfl, id⟩
      · exact ⟨x, (State.group_updGroup_other s j k (fun g => { g with frame := true, frameNo := _ }) (fun _ => rfl) hk).trans h,
          keepsStop_refl x⟩

theorem group_overList_holdFrame (hs : List Group) {s : State} {k : Nat} {x : Group} (h : s.group? k = some x) :
    ∃ y, (overList (fun (h : Group) s => holdFrame h.gid s) hs s).group? k = some y ∧ KeepsStop x y := by
  induction hs generalizing s x with
  | nil => exact ⟨x, h, keepsStop_refl x⟩
  | cons z hs ih =>
    obtain ⟨y, hy, hkeeps⟩ := group_holdFrame h z.gid
    obtain ⟨y', hy', hkeeps'⟩ := ih hy
    exact ⟨y', hy', keepsStop_trans hkeeps hkeeps'⟩

theorem group_holdFrames {s : State} {k : Nat} {x : Group} (g : Group) (h : s.group? k = some x) :
    ∃ y, (holdFrames g s).group? k = some y ∧ KeepsStop x y := by
  unfold holdFrames
  split
  · exact group_overList_holdFrame _ h
  · exact ⟨x, h, keepsStop_refl x⟩

/-- x is group g as the state has it now: it is of the same cluster, at the same place. -/
def SameSeat (g x : Group) : Prop := x.kernel = g.kernel ∧ x.lin = g.lin ∧ x.place = g.place

/-- A group is in its own cluster (R310). -/
theorem exists_mem_clusterOf {s : State} {g x : Group} (h : s.group? g.gid = some x) (hseat : SameSeat g x) :
    ∃ y ∈ clusterOf s g, y.gid = g.gid ∧ y.place = g.place := by
  obtain ⟨hkernel, hlin, hplace⟩ := hseat
  by_cases hsize : clusterSize s g.kernel ≤ 1
  · exact ⟨g, by simp only [clusterOf, if_pos hsize, List.mem_singleton], rfl, rfl⟩
  · refine ⟨x, ?_, gid_of_group h, hplace⟩
    have hx : x ∈ s.groups := List.mem_of_find?_eq_some h
    simp only [clusterOf, if_neg hsize, List.mem_filter, hx, hkernel, hlin, BEq.rfl, Bool.and_self, and_self]

/-- When the cluster of a resident group is stopped, the group is to stop, and its waves are as before. -/
theorem group_stopCluster {s : State} {g x : Group} (h : s.group? g.gid = some x) (hseat : SameSeat g x) (hres : g.resident = true) :
    ∃ y, (stopCluster g s).group? g.gid = some y ∧ y.waves = x.waves ∧ y.stop = true := by
  obtain ⟨z, hz, hgid, hplace⟩ := exists_mem_clusterOf h hseat
  have hzres : z.resident = true := (congrArg Option.isSome hplace).trans hres
  have hstop := group_overList_stop ((clusterOf s g).filter (·.resident)) s g.gid
  rw [h, Option.map_some, if_pos ⟨z, List.mem_filter.2 ⟨hz, hzres⟩, hgid⟩] at hstop
  obtain ⟨y, hy, hwaves, hset⟩ := group_holdFrames g hstop
  exact ⟨y, hy, hwaves, hset rfl⟩

/-! ### BKPT as a stop for the debugger (R276) -/

/-- A wave that stands still until it is restored, with what it holds. -/
def standStill (held : List Pend) (w : Wave) : Wave := { w with status := .parked .next, held }

/-- A group that stands for the debugger. -/
def noteDebug (g : Group) : Group := { g with debug := true }

/-- A stop for the debugger: the record in the log, the cluster's stop, the debugger's note, the wave. -/
theorem debugStop_eq (g : Group) (r : WaveRef) (pc : Nat) (tag : String) (code : Nat) (s : State) : ∃ dbg held,
    debugStop g r pc tag code s = ((stopCluster g ((logFault g r.wave pc bkptTrap code false false 0 0 s).updGroup g.gid noteDebug)).setDbg
      dbg).updWave r (standStill held) := ⟨_, _, rfl⟩

/-- A fault's record touches no group. -/
theorem group_logFault (g : Group) (wave failpc cause addr : Nat) (defer unknown : Bool) (kind held : Nat) (s : State) (k : Nat) :
    (logFault g wave failpc cause addr defer unknown kind held s).group? k = s.group? k := rfl

theorem group_setDbg (s : State) (dbg : Dbg) (k : Nat) : (s.setDbg dbg).group? k = s.group? k := rfl

/-- What a stop for the debugger leaves: the group is to stop, the wave stands still. -/
theorem debugStop_stops {s : State} {g x : Group} {w : Wave} {r : WaveRef} (hg : s.group? r.gid = some x)
    (hw : x.waves[r.wave]? = some w) (hgid : g.gid = r.gid) (hseat : SameSeat g x) (hres : g.resident = true) (pc : Nat) (tag : String)
    (code : Nat) : ∃ y held, (debugStop g r pc tag code s).group? r.gid = some y ∧ y.stop = true ∧
      (debugStop g r pc tag code s).wave? r = some (standStill held w) := by
  obtain ⟨dbg, held, heq⟩ := debugStop_eq g r pc tag code s
  have hmark := group_updGroup_some ((group_logFault g r.wave pc bkptTrap code false false 0 0 s g.gid).trans (hgid ▸ hg))
    noteDebug fun _ => rfl
  obtain ⟨y, hy, hwaves, hstop⟩ := group_stopCluster hmark hseat hres
  rw [hgid] at hy heq
  rw [← group_setDbg _ dbg] at hy
  rw [heq]
  refine ⟨_, held, group_updWave hy (standStill held), hstop, ?_⟩
  rw [State.wave_updWave, State.wave?, hy, Option.bind_some, hwaves, show (noteDebug x).waves = x.waves from rfl, hw, Option.map_some]

/-- An instruction of one word, complete, whose wave stands still: its active lanes go on behind it. -/
theorem retireWave_parked {p : Bool} {act : BitVec 64} {now : Nat} {w : Wave} {a : After} (h : w.status = .parked a) :
    retireWave { p } act now w = { w.setPcs act fun l => w.pcAt l + 1 with phase := 0, ready := now + 1 } := by
  simp [retireWave, Wave.setPcs, h]

theorem exec_bkpt (p : Bool) (code : BitVec 8) (s : State) : exec (.bkpt p code) s = issue (.bkpt p code) { p } (fun c s =>
    if (ctxOf s c).latched.debug && !s.timed c.g.owner then .done (debugStop c.g c.ref c.pc "BKPT" code.toNat s)
    else .trapAt s (c.pc + 1) bkptTrap code.toNat) s := rfl

theorem bkpt_traps {p : Bool} {code : BitVec 8} {s : State} {c : Cur} (hi : Issues s c 1)
    (hstay : (ctxOf s c).latched.debug = false ∨ s.timed c.g.owner = true) (htrap : c.w.intrap = false) :
    TrapsAt (.bkpt p code) (c.pc + 1) bkptTrap code.toNat s c := by
  have hno : ¬((ctxOf s c).latched.debug && !s.timed c.g.owner) = true := by
    rcases hstay with h | h
    · simp [h]
    · simp [h]
  exact trapAt_traps hi (exec_bkpt p code s) rfl rfl htrap (if_neg hno)

theorem bkpt_next {p : Bool} {code : BitVec 8} {s : State} {c : Cur} (hi : Issues s c 1) (hdebug : (ctxOf s c).latched.debug = true)
    (howner : s.timed c.g.owner = false) :
    exec (.bkpt p code) s = .next (retireInstr { p } (c.noted s) (debugStop c.g c.ref c.pc "BKPT" code.toNat (atIssue s c))) := by
  have hyes : ((ctxOf s c).latched.debug && !s.timed c.g.owner) = true := by rw [hdebug, howner]; rfl
  have hnoted : ((ctxOf (atIssue s c) (c.noted s)).latched.debug && !(atIssue s c).timed (c.noted s).g.owner) = true := hyes
  rw [plain_next hi (exec_bkpt p code s) rfl rfl, if_pos hnoted, finish_done, noted_g, noted_ref, noted_pc]

/-- The wave whose group BKPT stops parks behind the word, and keeps its registers. -/
theorem bkpt_stops {p : Bool} {code : BitVec 8} {s : State} {c : Cur} (hi : Issues s c 1) (hdebug : (ctxOf s c).latched.debug = true)
    (howner : s.timed c.g.owner = false) :
    ∃ t w' g', exec (.bkpt p code) s = .next t ∧ t.wave? c.ref = some w' ∧ t.group? c.ref.gid = some g' ∧ g'.stop = true ∧
      w'.status = .parked .next ∧ SameV c.w w' ∧ SameS c.w w' ∧ SameM c.w w' ∧ SameTrap c.w w' ∧
      (∀ l, l < 64 → w'.pcAt l = if c.act.getLsbD l then c.w.pcAt l + 1 else c.w.pcAt l) := by
  have hcur := hi.1.1
  obtain ⟨hgroup, -, ⟨place, hplace, -⟩, -⟩ := cur_some hcur
  have hres : c.g.resident = true := by rw [Group.resident, hplace]; rfl
  have hg : (atIssue s c).group? c.ref.gid = _ := group_updWave hgroup _
  have hw := wave_atIssue hcur
  rw [State.wave?, hg, Option.bind_some] at hw
  obtain ⟨y, held, hstop, hset, hwave⟩ := debugStop_stops hg hw (cur_gid hcur) ⟨rfl, rfl, rfl⟩ hres c.pc "BKPT" code.toNat
  have hlast : (retireInstr { p } (c.noted s) (debugStop c.g c.ref c.pc "BKPT" code.toNat (atIssue s c))).wave? c.ref = _ :=
    State.wave_updWave ..
  rw [noted_ref, hwave, Option.map_some, retireWave_parked (show (standStill held (c.noted s).w).status = .parked .next from rfl)] at hlast
  exact ⟨_, _, _, bkpt_next hi hdebug howner, hlast, group_updWave hstop _, hset, rfl, fun _ => rfl, fun _ => rfl, fun _ => rfl,
    ⟨rfl, rfl, rfl, rfl, rfl⟩, fun l hl => Wave.pcAt_setPcs c.act (fun l => c.w.pcAt l + 1) (standStill held (c.noted s).w) l hl⟩

/-! ### The return from the handler (R274) -/

/-- The PC that a lane held when the trap was taken (R265). -/
def heldPc (w : Wave) (l : Nat) : Nat := (w.tpcv.getD l 0).toNat % 2 ^ 15

/-- Lane m is one of those that RTE looks for the lowest PC in: it has not exited, now or when the trap was taken (R274). -/
def Resumable (w : Wave) (m : Nat) : Prop := m < 64 ∧ w.exited.getLsbD m = false ∧ (w.tpcv.getD m 0).toNat < 2 ^ 31

/-- The PCs that RTE takes the lowest of. -/
def resumablePcs (w : Wave) : List Nat :=
  (List.range 64).filterMap fun l => if w.live l && (w.tpcv.getD l 0).toNat < 2 ^ 31 then some (heldPc w l) else none

theorem mem_resumablePcs {w : Wave} {n : Nat} : n ∈ resumablePcs w ↔ ∃ m, Resumable w m ∧ heldPc w m = n := by
  simp only [resumablePcs, Resumable, List.mem_filterMap, List.mem_range, Option.ite_none_right_eq_some, Option.some.injEq, Wave.live,
    Bool.and_eq_true, Bool.not_eq_true', decide_eq_true_eq, and_assoc]

theorem returnTrap_eq (w : Wave) : returnTrap w = { w with
    pcs := (List.range 64).map fun l =>
      if w.live l then (if (resumablePcs w).min? = some (heldPc w l) then w.tpc.val.toNat % 2 ^ 15 else heldPc w l) else w.pcAt l
    intrap := false } := rfl

/-- The lowest PC of the lanes that were active at the trap, which is that of any one of them. -/
theorem resumablePcs_min {w : Wave} {m : Nat} (hm : Resumable w m) (hmin : ∀ n, Resumable w n → heldPc w m ≤ heldPc w n) :
    (resumablePcs w).min? = some (heldPc w m) := by
  rw [List.min?_eq_some_iff]
  refine ⟨mem_resumablePcs.2 ⟨m, hm, rfl⟩, fun k hk => ?_⟩
  obtain ⟨n, hn, rfl⟩ := mem_resumablePcs.1 hk
  exact hmin n hn

/-- Where a return sends each lane: to TRAPPC if it held the PC of the trap, else to the PC that it held. -/
theorem pcAt_returnTrap {w : Wave} {m l : Nat} (hm : Resumable w m) (hmin : ∀ n, Resumable w n → heldPc w m ≤ heldPc w n) (hl : l < 64) :
    (returnTrap w).pcAt l = if w.exited.getLsbD l then w.pcAt l
      else if heldPc w l = heldPc w m then w.tpc.val.toNat % 2 ^ 15 else heldPc w l := by
  rw [returnTrap_eq, Wave.pcAt, rangeMap_getD hl, resumablePcs_min hm hmin]
  simp only [Wave.live, Option.some.injEq, eq_comm (a := heldPc w m)]
  cases w.exited.getLsbD l <;> rfl

/-- A transfer of P 0 that goes on, complete: its wave runs again. -/
theorem retireWave_waiting {act : BitVec 64} {now : Nat} {w : Wave} {k : Cond} {i : Instr} (h : w.status = .waiting k i) :
    retireWave { p := false, xfer := true } act now w = { w with phase := 0, ready := now + 1, status := .running } := by
  simp [retireWave, h]

/-- RTE before its park. -/
theorem rte_first {p : Bool} {s : State} {c : Cur} (hI : IssuesX s c) (hphase : c.w.phase = 0) :
    exec (.rte p) s = .next (finishInstr (.rte p) { p := false, xfer := true } (c.noted s)
      (if c.w.intrap then .park (s.updWave c.ref fun _ => { (c.noted s).w with phase := 1 }) else .trap (atIssue s c) illegalOp 0 0)) := by
  rw [transfer_next hI (show exec (.rte p) s = execRte p s from rfl) rfl rfl, ← atIssue_updWave s c fun w => { w with phase := 1 }]
  exact congrArg (fun e => Host.Outcome.next (finishInstr (.rte p) { p := false, xfer := true } (c.noted s) e)) (if_pos hphase)

theorem rte_traps {p : Bool} {s : State} {c : Cur} (hI : IssuesX s c) (hphase : c.w.phase = 0) (htrap : c.w.intrap = false) :
    TrapsAt (.rte p) c.pc illegalOp 0 s c := by
  refine traps_of hI.1 htrap s.clk.cycle ?_
  rw [rte_first hI hphase, htrap]
  rfl

theorem rte_parks {p : Bool} {s : State} {c : Cur} (hI : IssuesX s c) (hphase : c.w.phase = 0) (htrap : c.w.intrap = true) :
    ParksFirst (.rte p) s c := by
  refine parksFirst_of (n := s.clk.cycle) ?_
  rw [rte_first hI hphase, if_pos htrap, finishInstr, noted_ref, State.updWave_updWave]
  rfl

/-- RTE behind its park. -/
theorem rte_returns {p : Bool} {s : State} {c : Cur} (hR : Resumes s c (.rte p)) (hphase : c.w.phase = 1) :
    exec (.rte p) s = .next (s.updWave c.ref fun _ => { returnTrap c.w with phase := 0, ready := s.now + 1, status := .running }) := by
  have ⟨hcur, _, k, hwaits⟩ := hR
  have hlater : ¬c.w.phase = 0 := by omega
  have hdone : exec (.rte p) s = .next (retireInstr { p := false, xfer := true } c (s.updWave c.ref returnTrap)) := by
    rw [resume_next hR (show exec (.rte p) s = execRte p s from rfl), if_neg hlater, finish_done]
  rw [hdone, retireInstr, State.updWave_updWave, State.updWave_found (cur_some hcur).2.1,
    retireWave_waiting (show (returnTrap c.w).status = .waiting k (.rte p) from hwaits)]
  rfl

/-- Settles O22: TRAP and BKPT by the trap that they name or the stop of their group, RTE by its two phases. -/
theorem softwareTraps : Obligations.SoftwareTraps := by
  unfold Obligations.SoftwareTraps
  refine ⟨fun p code s c hi => ⟨fun htrap => ?trap, bkpt_traps hi, fun hdebug howner => ?stop⟩, fun p s c => ?rte⟩
  case trap =>
    exact trapAt_traps (body := fun c s => .trapAt s (c.pc + 1) softTrap code.toNat) hi rfl rfl rfl htrap rfl
  case stop => exact bkpt_stops hi hdebug howner
  case rte =>
    intro pcv
    refine ⟨fun hI hphase => ⟨rte_traps hI hphase, rte_parks hI hphase⟩, fun hR hphase => ?_⟩
    refine ⟨_, _, rte_returns hR hphase, rfl, rfl, fun m l hm hlive hheld hmin hl => ?_, rfl, rfl, rfl, rfl, rfl, fun _ => rfl,
      fun _ => rfl, fun _ => rfl, rfl, ⟨rfl, rfl, rfl⟩, ⟨rfl, rfl, rfl, rfl, rfl, rfl, rfl, rfl, rfl⟩, rfl, rfl, rfl⟩
    exact pcAt_returnTrap ⟨hm, hlive, hheld⟩ (fun n ⟨hn, hnlive, hnheld⟩ => hmin n hn hnlive hnheld) hl

end Sys2Proof.Machine
end
